-- ==== Sys2Proof/Word.lean ====
section
/-! DEFINITION. The widths the manual fixes: bytes, general registers, lanes, v registers (R7, R63, R77). -/

namespace Sys2Proof

/-- One byte of memory. -/
abbrev Byte := BitVec 8

/-- A general register (R7). -/
abbrev Word := BitVec 64

/-- One lane of a token or v register (R77 to R79). -/
abbrev Lane := BitVec 36

/-- The flags NV, DZ, OF, UF, NX in bits 4 to 0, in the order of R18. -/
abbrev Flags := BitVec 5

/-- A v register: lane i is bits [36i+35:36i] of `lanes`, as in its memory image, and `lm` is its lane mask (R63). -/
structure VReg where
  lanes : BitVec 288
  lm    : BitVec 8
  deriving DecidableEq, Repr

/-- A token on a channel: eight lanes, the lane mask and the markers END, CUT and PRB (R150). -/
structure Token where
  v    : VReg
  rank : Nat
  cut  : Bool
  prb  : Bool
  deriving DecidableEq, Repr

end Sys2Proof
end

