-- ==== Sys2Proof/Config.lean ====
section
/-! DEFINITION. The free values: constants with no body, so that nothing can evaluate them and a statement holds
whatever they are. Each is named in a log entry. -/

namespace Sys2Proof.Config

/-- Cycles of the 3.6 GHz clock that pass in step number n. DESIGN CHOICE, log 2. -/
opaque cycles : Nat → Nat

/-- Which of several enabled agents acts in step number n. DESIGN CHOICE, log 2. -/
opaque pick : Nat → Nat

/-- Byte i of a save area written at step n, where the part alone writes and reads it (R373). DESIGN CHOICE, log 7. -/
opaque saveByte : Nat → Nat → Byte

/-- Field i of the state that the bytes of a block of a save area encode, for bytes that the part alone writes and that software has
changed (R373). DESIGN CHOICE, log 54. -/
opaque savedField : List Byte → Nat → Nat

/-- The device key's RSA signature of a quote's bytes 0 to 79 (R421). DESIGN CHOICE, log 6. -/
opaque deviceSign : List Byte → Nat

/-- The key hash fused in the security block (R413). DESIGN CHOICE, log 6. -/
opaque fusedKeyHash : BitVec 256

/-- The fused serial number (R421). DESIGN CHOICE, log 6. -/
opaque serial : Word

/-- Package power in W as averaged at step n (R416, R422). DESIGN CHOICE, log 8. -/
opaque power : Nat → Nat

/-- What a table lookup of an element finds in an uncorrectable word, at step n and physical address a. DESIGN CHOICE,
log 26. -/
opaque badWord : Nat → Nat → Word

/-- hash16 of a requester and an address in an ATOMIC record, whose input bytes R389 does not fix. DESIGN CHOICE, log 13. -/
opaque atomicHash : Nat → Nat → BitVec 16

/-- The master id under which the requests of a peer device are checked, which R418 does not give. DESIGN CHOICE, log 29. -/
opaque peerMaster : Nat → BitVec 16

/-- The bank and the row of its DRAM channel that hold word number n, which the spec does not lay out. DESIGN CHOICE, log 67. -/
opaque dramBank : Nat → Nat
opaque dramRow : Nat → Nat

end Sys2Proof.Config
end

