-- ==== Sys2Proof/Syntax.lean ====
section
/-! DEFINITION. The instructions and events of spec/opcode_table.json, one constructor for each row. -/

namespace Sys2Proof

/-- A register number of the g file. -/
abbrev GReg := BitVec 5

/-- A register number of the v or h file (R29). -/
abbrev VNum := BitVec 4

/-- The seventy-five lane operations (R104). -/
inductive LOp where
  | fadd | fsub | fmul | fma | fnma | fmin | fmax | fneg | fabs | fdiv | fsqrt | frcp
  | frsq | fexp2 | flog2 | ftanh | fsig | dadd | dsub | dmul | dfma | dmin | dmax | ddiv
  | dsqrt | fcmp | icmp | sel | iadd | isub | imul | imulh | imad | iand | ior | ixor
  | ishl | ishr | isar | imin | imax | iminn | imaxn | isadd | iabs | lsum | lmax | lperm
  | lbcast | lshift | lins | lext | accf | accd | acci | accs | cvtin | cvtout | cvtfi | cvtif
  | cvtfd | cvtdf | pass | zip | unzip | cnt | kmerge | lut | madd | msadd | mfadd | mmin
  | mmax | mswap | panq
  deriving DecidableEq, Repr

/-- The fields of a lane-operation word beside its LOP (R94). -/
structure LaneW where
  fmt   : BitVec 4
  asel  : BitVec 3
  bsel  : BitVec 3
  csel  : BitVec 3
  rnd   : BitVec 3
  xen   : BitVec 5
  emit  : BitVec 3
  param : BitVec 16
  imm   : BitVec 16
  deriving DecidableEq, Repr

/-- Where a lane operation is executed: under VOP with its four registers (R31), or as a firing of unit `u` of the
residency with launch-entry index `rid` (R152). -/
inductive LaneAt where
  | vop  (vd va vb vc : VNum)
  | fire (rid u : Nat)
  deriving DecidableEq, Repr

/-- The header fields of a stream command (R285); the target class is the command's own (R286). -/
structure CmdHdr where
  wait    : BitVec 8
  seten   : Bool
  setslot : BitVec 3
  deriving DecidableEq, Repr

/-- A stream command is issued by a context, with its substitution registers (R32), or it is started by its dispatcher
as command number `id` (R289). -/
inductive CmdAt where
  | issue (gs0 gs1 gs2 : GReg)
  | start (id : Nat)
  deriving DecidableEq, Repr

/-- A flit (R400) without its CRC, which the receiving port has checked; `len` is LEN + 1. -/
structure Flit where
  op      : Nat
  cls     : Nat
  src     : Nat
  dst     : Nat
  seq     : Nat
  len     : Nat
  addr    : Nat
  payload : List Byte
  deriving DecidableEq, Repr

/-- An access of the host over Etend (R409). -/
inductive HostReq where
  | write (addr : Nat) (bytes : List Byte)
  | read  (addr : Nat) (n : Nat)
  deriving DecidableEq, Repr

/-- What a soft error strikes (R360). -/
inductive Upset where
  | single        (addr : Nat)
  | uncorrectable (addr : Nat)
  | parity        (rid u : Nat) (port : Nat)
  | config        (rid u : Nat)
  deriving DecidableEq, Repr

/-- A function that reports ready (R414, R415). -/
inductive ReadyFn where
  | island (i : Nat)
  | sound  (p : Nat)
  | cxl    (l : Nat) (gib : Nat)
  | stack  (n : Nat)
  | etend
  | md
  deriving DecidableEq, Repr

/-- The rows of the table. Scalar instructions carry the operand fields of R28, lane operations their word, stream
commands their header and fields, and events name the unit they act on. -/
inductive Instr where
  -- integer group (R45, R46)
  | add (d a b : GReg)
  | sub (d a b : GReg)
  | and (d a b : GReg)
  | or (d a b : GReg)
  | xor (d a b : GReg)
  | andn (d a b : GReg)
  | sll (d a b : GReg)
  | srl (d a b : GReg)
  | sra (d a b : GReg)
  | mul (d a b : GReg)
  | mulh (d a b : GReg)
  | mulhn (d a b : GReg)
  | div (d a b : GReg)
  | divn (d a b : GReg)
  | rem (d a b : GReg)
  | remn (d a b : GReg)
  | min (d a b : GReg)
  | max (d a b : GReg)
  | minn (d a b : GReg)
  | maxn (d a b : GReg)
  | slt (d a b : GReg)
  | sltn (d a b : GReg)
  | clz (d a : GReg)
  | ctz (d a : GReg)
  | popc (d a : GReg)
  | lea (d a b : GReg) (s : BitVec 2)
  -- immediates (R47 to R51)
  | addi (d a : GReg) (imm : BitVec 16)
  | andi (d a : GReg) (imm : BitVec 16)
  | ori (d a : GReg) (imm : BitVec 16)
  | xori (d a : GReg) (imm : BitVec 16)
  | slti (d a : GReg) (imm : BitVec 16)
  | sltni (d a : GReg) (imm : BitVec 16)
  | slli (d a : GReg) (n : BitVec 6)
  | srli (d a : GReg) (n : BitVec 6)
  | srai (d a : GReg) (n : BitVec 6)
  | li (d : GReg) (imm : BitVec 21)
  | insh (d : GReg) (pos : BitVec 2) (imm : BitVec 16)
  | pcadd (d : GReg) (off : BitVec 21)
  -- loads and stores (R52)
  | ldB (d a : GReg) (off : BitVec 16)
  | ldBn (d a : GReg) (off : BitVec 16)
  | ldH (d a : GReg) (off : BitVec 16)
  | ldHn (d a : GReg) (off : BitVec 16)
  | ldW (d a : GReg) (off : BitVec 16)
  | ldWn (d a : GReg) (off : BitVec 16)
  | ldD (d a : GReg) (off : BitVec 16)
  | stB (r a : GReg) (off : BitVec 16)
  | stH (r a : GReg) (off : BitVec 16)
  | stW (r a : GReg) (off : BitVec 16)
  | stD (r a : GReg) (off : BitVec 16)
  -- branches and jumps (R58 to R61)
  | beq (a b : GReg) (off : BitVec 16)
  | bne (a b : GReg) (off : BitVec 16)
  | blt (a b : GReg) (off : BitVec 16)
  | bge (a b : GReg) (off : BitVec 16)
  | bltn (a b : GReg) (off : BitVec 16)
  | bgen (a b : GReg) (off : BitVec 16)
  | jal (d : GReg) (off : BitVec 21)
  | jalr (d a : GReg) (off : BitVec 16)
  | loop (a : GReg) (off : BitVec 16)
  -- moves of the v registers (R64, R65)
  | vmov (d a : VNum)
  | vget (d : GReg) (a : VNum) (lane : BitVec 3)
  | vgetLm (d : GReg) (a : VNum)
  | vld (d : VNum) (a : GReg) (off : BitVec 11)
  | vst (r : VNum) (a : GReg) (off : BitVec 11)
  -- threads, channels and groups (R130 to R146)
  | spawn (d a b : GReg) (any : Bool) (core : BitVec 2)
  | exit
  | yield
  | setpri (p : BitVec 2)
  | send (c r : GReg) (n : BitVec 2)
  | recv (d : GReg) (ch : BitVec 6)
  | waitch (d m : GReg)
  | gjoin (a : GReg)
  | gleave (a : GReg)
  | gbar (a : GReg)
  -- launch and finish scopes (R206, R212)
  | launch (d a : GReg)
  | scopeopen (d a : GReg)
  | scopeclose (a : GReg)
  | scopewait (a : GReg)
  | scopeqry (d a : GReg)
  -- synchronising loads, atomics, locks, fence (R256 to R266)
  | ldf (d a : GReg) (scope : BitVec 3)
  | ldfe (d a : GReg) (scope : BitVec 3)
  | stf (a b : GReg) (scope : BitVec 3)
  | amoAdd (d a b : GReg) (aq rl : Bool) (scope : BitVec 3) (w : Bool)
  | amoAnd (d a b : GReg) (aq rl : Bool) (scope : BitVec 3) (w : Bool)
  | amoOr (d a b : GReg) (aq rl : Bool) (scope : BitVec 3) (w : Bool)
  | amoXor (d a b : GReg) (aq rl : Bool) (scope : BitVec 3) (w : Bool)
  | amoMin (d a b : GReg) (aq rl : Bool) (scope : BitVec 3) (w : Bool)
  | amoMax (d a b : GReg) (aq rl : Bool) (scope : BitVec 3) (w : Bool)
  | amoMinn (d a b : GReg) (aq rl : Bool) (scope : BitVec 3) (w : Bool)
  | amoMaxn (d a b : GReg) (aq rl : Bool) (scope : BitVec 3) (w : Bool)
  | amoSwap (d a b : GReg) (aq rl : Bool) (scope : BitVec 3) (w : Bool)
  | amoSadd (d a b : GReg) (aq rl : Bool) (scope : BitVec 3) (w : Bool)
  | amoFadd (d a b : GReg) (aq rl : Bool) (scope : BitVec 3) (w : Bool)
  | cas (d a b : GReg) (aq rl : Bool) (scope : BitVec 3) (w : Bool)
  | lock (a : GReg) (scope : BitVec 3)
  | unlock (a : GReg) (scope : BitVec 3)
  | fence (scope : BitVec 3)
  -- crystal regions (R274, R275)
  | gld (v : VNum) (x r : GReg) (level : BitVec 4)
  | gscat (v : VNum) (x r : GReg) (level : BitVec 4)
  -- semaphores, rings and slots (R315, R317, R318, R292)
  | semacq (n : GReg) (sem : BitVec 6)
  | semrel (n : GReg) (sem : BitVec 6)
  | semtry (d n : GReg) (sem : BitVec 6)
  | semset (n : GReg) (sem : BitVec 6)
  | semget (d : GReg) (sem : BitVec 6)
  | hset (h : VNum) (a b : GReg)
  | cbwf (h : VNum) (n : BitVec 11)
  | cbwe (h : VNum) (n : BitVec 11)
  | cbap (h : VNum) (n : BitVec 11)
  | cbac (h : VNum) (n : BitVec 11)
  | dswait (mask : BitVec 8)
  -- system and trap instructions (R66 to R73), context moves (R376) and WSTEP (R354 to R357)
  | sysr (d : GReg) (r : BitVec 11)
  | sysw (a : GReg) (r : BitVec 11)
  | trap (imm : BitVec 11)
  | eret
  | brk
  | halt
  | tladj (a : GReg)
  | ctxsave (a : GReg) (ctx : BitVec 3)
  | ctxload (a : GReg) (ctx : BitVec 3)
  | wstepStep (d a : GReg)
  -- lane operations (R105 to R127)
  | fadd (site : LaneAt) (w : LaneW)
  | fsub (site : LaneAt) (w : LaneW)
  | fmul (site : LaneAt) (w : LaneW)
  | fma (site : LaneAt) (w : LaneW)
  | fnma (site : LaneAt) (w : LaneW)
  | fmin (site : LaneAt) (w : LaneW)
  | fmax (site : LaneAt) (w : LaneW)
  | fneg (site : LaneAt) (w : LaneW)
  | fabs (site : LaneAt) (w : LaneW)
  | fdiv (site : LaneAt) (w : LaneW)
  | fsqrt (site : LaneAt) (w : LaneW)
  | frcp (site : LaneAt) (w : LaneW)
  | frsq (site : LaneAt) (w : LaneW)
  | fexp2 (site : LaneAt) (w : LaneW)
  | flog2 (site : LaneAt) (w : LaneW)
  | ftanh (site : LaneAt) (w : LaneW)
  | fsig (site : LaneAt) (w : LaneW)
  | dadd (site : LaneAt) (w : LaneW)
  | dsub (site : LaneAt) (w : LaneW)
  | dmul (site : LaneAt) (w : LaneW)
  | dfma (site : LaneAt) (w : LaneW)
  | dmin (site : LaneAt) (w : LaneW)
  | dmax (site : LaneAt) (w : LaneW)
  | ddiv (site : LaneAt) (w : LaneW)
  | dsqrt (site : LaneAt) (w : LaneW)
  | fcmp (site : LaneAt) (w : LaneW)
  | icmp (site : LaneAt) (w : LaneW)
  | sel (site : LaneAt) (w : LaneW)
  | iadd (site : LaneAt) (w : LaneW)
  | isub (site : LaneAt) (w : LaneW)
  | imul (site : LaneAt) (w : LaneW)
  | imulh (site : LaneAt) (w : LaneW)
  | imad (site : LaneAt) (w : LaneW)
  | iand (site : LaneAt) (w : LaneW)
  | ior (site : LaneAt) (w : LaneW)
  | ixor (site : LaneAt) (w : LaneW)
  | ishl (site : LaneAt) (w : LaneW)
  | ishr (site : LaneAt) (w : LaneW)
  | isar (site : LaneAt) (w : LaneW)
  | imin (site : LaneAt) (w : LaneW)
  | imax (site : LaneAt) (w : LaneW)
  | iminn (site : LaneAt) (w : LaneW)
  | imaxn (site : LaneAt) (w : LaneW)
  | isadd (site : LaneAt) (w : LaneW)
  | iabs (site : LaneAt) (w : LaneW)
  | lsum (site : LaneAt) (w : LaneW)
  | lmax (site : LaneAt) (w : LaneW)
  | lperm (site : LaneAt) (w : LaneW)
  | lbcast (site : LaneAt) (w : LaneW)
  | lshift (site : LaneAt) (w : LaneW)
  | lins (site : LaneAt) (w : LaneW)
  | lext (site : LaneAt) (w : LaneW)
  | accf (site : LaneAt) (w : LaneW)
  | accd (site : LaneAt) (w : LaneW)
  | acci (site : LaneAt) (w : LaneW)
  | accs (site : LaneAt) (w : LaneW)
  | cvtin (site : LaneAt) (w : LaneW)
  | cvtout (site : LaneAt) (w : LaneW)
  | cvtfi (site : LaneAt) (w : LaneW)
  | cvtif (site : LaneAt) (w : LaneW)
  | cvtfd (site : LaneAt) (w : LaneW)
  | cvtdf (site : LaneAt) (w : LaneW)
  | pass (site : LaneAt) (w : LaneW)
  | zip (site : LaneAt) (w : LaneW)
  | unzip (site : LaneAt) (w : LaneW)
  | cnt (site : LaneAt) (w : LaneW)
  | kmerge (site : LaneAt) (w : LaneW)
  | lut (site : LaneAt) (w : LaneW)
  | madd (site : LaneAt) (w : LaneW)
  | msadd (site : LaneAt) (w : LaneW)
  | mfadd (site : LaneAt) (w : LaneW)
  | mmin (site : LaneAt) (w : LaneW)
  | mmax (site : LaneAt) (w : LaneW)
  | mswap (site : LaneAt) (w : LaneW)
  | panq (site : LaneAt) (w : LaneW)
  -- stream commands (R298 to R312, R324)
  | patset (site : CmdAt) (h : CmdHdr) (raddr : BitVec 46) (sel : BitVec 3) (value : BitVec 52)
  | bindld (site : CmdAt) (h : CmdHdr) (lid : BitVec 32) (wp : BitVec 6) (paddr : BitVec 46)
  | bindst (site : CmdAt) (h : CmdHdr) (lid : BitVec 32) (wp : BitVec 6) (paddr : BitVec 46)
  | gather (site : CmdAt) (h : CmdHdr) (xaddr : BitVec 46)
  | scatter (site : CmdAt) (h : CmdHdr) (xaddr : BitVec 46)
  | copy (site : CmdAt) (h : CmdHdr) (xaddr : BitVec 46)
  | rcopy (site : CmdAt) (h : CmdHdr) (xaddr : BitVec 46)
  | barrier (site : CmdAt) (h : CmdHdr) (isl : BitVec 6) (mej : BitVec 9) (tmask : BitVec 16)
  | tiledef (site : CmdAt) (h : CmdHdr) (isl : BitVec 6) (mej : BitVec 9) (tile : BitVec 4) (base : BitVec 11) (size : BitVec 12)
  | tileset (site : CmdAt) (h : CmdHdr) (isl : BitVec 6) (mej : BitVec 9) (tile : BitVec 4) (st : BitVec 2)
  | signal (site : CmdAt) (h : CmdHdr) (dev : BitVec 10) (rem : Bool) (core : BitVec 8) (sem : BitVec 6) (n : BitVec 32)
  | cfgload (site : CmdAt) (h : CmdHdr) (lid : BitVec 32) (iaddr : BitVec 46)
  | cfgsw (site : CmdAt) (h : CmdHdr) (lid : BitVec 32) (t : BitVec 64)
  | mark (site : CmdAt) (h : CmdHdr) (lid : BitVec 32)
  | probe (site : CmdAt) (h : CmdHdr) (lid : BitVec 32) (x y : BitVec 6) (vd : VNum)
  | fetchw (site : CmdAt) (h : CmdHdr) (xaddr : BitVec 46) (pan : BitVec 12)
  | unbind (site : CmdAt) (h : CmdHdr) (lid : BitVec 32) (wp : BitVec 6)
  | griddef (site : CmdAt) (h : CmdHdr) (daddr saddr : BitVec 45) (zero : Bool)
  | pandef (site : CmdAt) (h : CmdHdr) (pan : BitVec 12) (daddr : BitVec 45)
  | panctlSetf (site : CmdAt) (h : CmdHdr) (pan : BitVec 12) (value : BitVec 32)
  | panctlSeta (site : CmdAt) (h : CmdHdr) (pan : BitVec 12) (value : BitVec 32)
  | panctlSetpri (site : CmdAt) (h : CmdHdr) (pan : BitVec 12) (value : BitVec 32)
  | panctlSetfb (site : CmdAt) (h : CmdHdr) (pan : BitVec 12) (value : BitVec 32)
  | panctlResume (site : CmdAt) (h : CmdHdr) (pan : BitVec 12) (value : BitVec 32)
  | panctlClear (site : CmdAt) (h : CmdHdr) (pan : BitVec 12) (value : BitVec 32)
  | panctlWindow (site : CmdAt) (h : CmdHdr) (pan : BitVec 12) (value : BitVec 32)
  | panctlEvict (site : CmdAt) (h : CmdHdr) (pan : BitVec 12) (value : BitVec 32)
  | panctlFree (site : CmdAt) (h : CmdHdr) (pan : BitVec 12) (value : BitVec 32)
  | pandrain (site : CmdAt) (h : CmdHdr) (pan : BitVec 12)
  -- events of the control cores (R11, R22, R136, R144, R257, R265) and WSTEP's other actions (R355)
  | instructionFetch (core : Nat)
  | contextBoost (tid : Nat)
  | asyncTrapEntry (tid : Nat)
  | messageDelivery (msg : Nat)
  | ldfRetry (req : Nat)
  | lockWake (island key : Nat)
  | wstepResume (d a : GReg)
  | wstepMasked (d a : GReg)
  | wstepEnd (d a : GReg)
  -- circuits, router operators, stores, controller (R157 to R163, R166, R198, R431)
  | tokenHop (rid route branch stage : Nat)
  | fanoutTake (rid route : Nat)
  | steer (rid op : Nat)
  | filter (rid op : Nat)
  | merge (rid op : Nat)
  | umerge (rid op : Nat)
  | carry (rid op : Nat)
  | cutOnlyWordTake (rid unit port : Nat)
  | reorderStoreWrite (rid store : Nat)
  | reorderStoreRead (rid store : Nat)
  | controllerGo (rid node : Nat)
  | controllerDone (rid node : Nat)
  | configurationStep (rid : Nat)
  | cfgswTimeReached (rid : Nat)
  | switchMarkerTake (rid unit : Nat)
  -- streams (R237, R238, R242, R279, R280)
  | agStreamRead (rid stream : Nat)
  | agStreamDeliver (rid stream : Nat)
  | agStreamWrite (rid stream : Nat)
  | agStreamAccessAnswer (rid stream : Nat)
  | gridLookupQuery (rid stream : Nat)
  | gridScatterQuery (rid stream : Nat)
  -- walks and remote accesses (R227, R434, R55)
  | pageWalk (walk : Nat)
  | remoteAccessPerform (req : Nat)
  | accessAnswer (req : Nat)
  -- cuts, placement and the life of a residency (R351, R353, R435, R217, R219, R370)
  | windowCommit (rid : Nat)
  | rollback (rid : Nat)
  | residencyPlace (entry island region : Nat)
  | mdPlacementPass
  | reservationTimeout
  | residencyFinish (rid : Nat)
  | preemptSave (rid : Nat)
  | commandComplete (id : Nat)
  -- pans (R321 to R334)
  | panEntryArrival (flight : Nat)
  | panAgeLimit (pan : Nat)
  | panFire (pan : Nat)
  | batchBufferWritten (pan buf : Nat)
  | panRefill (pan : Nat)
  | weightFetchComplete (pan : Nat)
  -- update apertures (R394)
  | apertureMadd (me : Nat) (value : Word)
  | apertureMsaddI (me : Nat) (value : Word)
  | apertureMsaddN (me : Nat) (value : Word)
  | apertureMminI (me : Nat) (value : Word)
  | apertureMmaxI (me : Nat) (value : Word)
  | apertureMminN (me : Nat) (value : Word)
  | apertureMmaxN (me : Nat) (value : Word)
  | apertureMswap (me : Nat) (value : Word)
  -- receive rings, repair and links (R361 to R366, R400 to R410)
  | ringMessageArrival (desc : Nat) (msg : List Byte)
  | ringNoticeDelivery (desc : Nat)
  | ringOverflowTimeout (desc : Nat)
  | columnRepair (island column : Nat)
  | mdFailover
  | soundPortLaneLoss (port : Nat)
  | flitRd (port : Nat) (f : Flit)
  | flitWr (port : Nat) (f : Flit)
  | flitAmo (port : Nat) (f : Flit)
  | flitCas (port : Nat) (f : Flit)
  | flitResp (port : Nat) (f : Flit)
  | flitAck (port : Nat) (f : Flit)
  | flitSignal (port : Nat) (f : Flit)
  | flitPanq (port : Nat) (f : Flit)
  | flitPnack (port : Nat) (f : Flit)
  | flitPresume (port : Nat) (f : Flit)
  | requestTimeout (req : Nat)
  | hostAccess (r : HostReq)
  | mailboxWrite (bytes : List Byte)
  | hnote (value : Word)
  -- bring-up, control blocks, security (R411 to R421)
  | packageReset
  | bootgo (len : Word)
  | bootCheckDone
  | functionReady (f : ReadyFn)
  | ccmdStart (core x : Nat)
  | ccmdRelease (core x : Nat)
  | ccmdStop (core x : Nat)
  | qgo
  | qdataRead
  -- debug, trace, power (R383 to R391, R422)
  | istopReq (island : Nat)
  | istopCont (island : Nat)
  | debugStop (island slot : Nat)
  | koroFilterRun (die : Nat)
  | swrec (die : Nat) (value : Word)
  | flenWrite (die : Nat) (value : Word)
  | statsClear (island x y : Nat)
  | throttleStep
  | thermalEvent (die celsius : Nat)
  | registerWrite (addr width : Nat) (value : Word)
  | softError (u : Upset)
  | flitCrcFailure (port : Nat)
  | flitReservedOp (port : Nat) (f : Flit)
  | corePowerGated (core : Nat)
  | corePoweredUp (core : Nat)
  | spareCopyDone (channel : Nat)
  deriving DecidableEq, Repr

/-- The LOP code of a lane operation (R104 and the tables of R105 to R127). -/
def LOp.code : LOp → BitVec 8
  | .fadd => 0x10#8
  | .fsub => 0x11#8
  | .fmul => 0x12#8
  | .fma => 0x13#8
  | .fnma => 0x14#8
  | .fmin => 0x15#8
  | .fmax => 0x16#8
  | .fneg => 0x17#8
  | .fabs => 0x18#8
  | .fdiv => 0x19#8
  | .fsqrt => 0x1A#8
  | .frcp => 0x1B#8
  | .frsq => 0x1C#8
  | .fexp2 => 0x1D#8
  | .flog2 => 0x1E#8
  | .ftanh => 0x1F#8
  | .fsig => 0x20#8
  | .dadd => 0x28#8
  | .dsub => 0x29#8
  | .dmul => 0x2A#8
  | .dfma => 0x2B#8
  | .dmin => 0x2C#8
  | .dmax => 0x2D#8
  | .ddiv => 0x2E#8
  | .dsqrt => 0x2F#8
  | .fcmp => 0x30#8
  | .icmp => 0x31#8
  | .sel => 0x32#8
  | .iadd => 0x40#8
  | .isub => 0x41#8
  | .imul => 0x42#8
  | .imulh => 0x43#8
  | .imad => 0x44#8
  | .iand => 0x45#8
  | .ior => 0x46#8
  | .ixor => 0x47#8
  | .ishl => 0x48#8
  | .ishr => 0x49#8
  | .isar => 0x4A#8
  | .imin => 0x4B#8
  | .imax => 0x4C#8
  | .iminn => 0x4D#8
  | .imaxn => 0x4E#8
  | .isadd => 0x4F#8
  | .iabs => 0x50#8
  | .lsum => 0x58#8
  | .lmax => 0x59#8
  | .lperm => 0x5A#8
  | .lbcast => 0x5B#8
  | .lshift => 0x5C#8
  | .lins => 0x5D#8
  | .lext => 0x5E#8
  | .accf => 0x60#8
  | .accd => 0x61#8
  | .acci => 0x62#8
  | .accs => 0x63#8
  | .cvtin => 0x68#8
  | .cvtout => 0x69#8
  | .cvtfi => 0x6A#8
  | .cvtif => 0x6B#8
  | .cvtfd => 0x6C#8
  | .cvtdf => 0x6D#8
  | .pass => 0x70#8
  | .zip => 0x71#8
  | .unzip => 0x72#8
  | .cnt => 0x73#8
  | .kmerge => 0x78#8
  | .lut => 0x79#8
  | .madd => 0x80#8
  | .msadd => 0x81#8
  | .mfadd => 0x82#8
  | .mmin => 0x83#8
  | .mmax => 0x84#8
  | .mswap => 0x85#8
  | .panq => 0x88#8

/-- All lane operations, in the order of their codes. -/
def LOp.all : List LOp :=
  [.fadd, .fsub, .fmul, .fma, .fnma, .fmin, .fmax, .fneg, .fabs, .fdiv, .fsqrt, .frcp,
   .frsq, .fexp2, .flog2, .ftanh, .fsig, .dadd, .dsub, .dmul, .dfma, .dmin, .dmax, .ddiv,
   .dsqrt, .fcmp, .icmp, .sel, .iadd, .isub, .imul, .imulh, .imad, .iand, .ior, .ixor,
   .ishl, .ishr, .isar, .imin, .imax, .iminn, .imaxn, .isadd, .iabs, .lsum, .lmax, .lperm,
   .lbcast, .lshift, .lins, .lext, .accf, .accd, .acci, .accs, .cvtin, .cvtout, .cvtfi, .cvtif,
   .cvtfd, .cvtdf, .pass, .zip, .unzip, .cnt, .kmerge, .lut, .madd, .msadd, .mfadd, .mmin,
   .mmax, .mswap, .panq]

/-- The lane operation of a LOP code, none where the code is unassigned (R104). -/
def LOp.ofCode (c : BitVec 8) : Option LOp := LOp.all.find? (fun o => o.code == c)

/-- The row of a lane operation at a site with a word. -/
def LOp.instr (o : LOp) (site : LaneAt) (w : LaneW) : Instr :=
  match o with
  | .fadd => .fadd site w
  | .fsub => .fsub site w
  | .fmul => .fmul site w
  | .fma => .fma site w
  | .fnma => .fnma site w
  | .fmin => .fmin site w
  | .fmax => .fmax site w
  | .fneg => .fneg site w
  | .fabs => .fabs site w
  | .fdiv => .fdiv site w
  | .fsqrt => .fsqrt site w
  | .frcp => .frcp site w
  | .frsq => .frsq site w
  | .fexp2 => .fexp2 site w
  | .flog2 => .flog2 site w
  | .ftanh => .ftanh site w
  | .fsig => .fsig site w
  | .dadd => .dadd site w
  | .dsub => .dsub site w
  | .dmul => .dmul site w
  | .dfma => .dfma site w
  | .dmin => .dmin site w
  | .dmax => .dmax site w
  | .ddiv => .ddiv site w
  | .dsqrt => .dsqrt site w
  | .fcmp => .fcmp site w
  | .icmp => .icmp site w
  | .sel => .sel site w
  | .iadd => .iadd site w
  | .isub => .isub site w
  | .imul => .imul site w
  | .imulh => .imulh site w
  | .imad => .imad site w
  | .iand => .iand site w
  | .ior => .ior site w
  | .ixor => .ixor site w
  | .ishl => .ishl site w
  | .ishr => .ishr site w
  | .isar => .isar site w
  | .imin => .imin site w
  | .imax => .imax site w
  | .iminn => .iminn site w
  | .imaxn => .imaxn site w
  | .isadd => .isadd site w
  | .iabs => .iabs site w
  | .lsum => .lsum site w
  | .lmax => .lmax site w
  | .lperm => .lperm site w
  | .lbcast => .lbcast site w
  | .lshift => .lshift site w
  | .lins => .lins site w
  | .lext => .lext site w
  | .accf => .accf site w
  | .accd => .accd site w
  | .acci => .acci site w
  | .accs => .accs site w
  | .cvtin => .cvtin site w
  | .cvtout => .cvtout site w
  | .cvtfi => .cvtfi site w
  | .cvtif => .cvtif site w
  | .cvtfd => .cvtfd site w
  | .cvtdf => .cvtdf site w
  | .pass => .pass site w
  | .zip => .zip site w
  | .unzip => .unzip site w
  | .cnt => .cnt site w
  | .kmerge => .kmerge site w
  | .lut => .lut site w
  | .madd => .madd site w
  | .msadd => .msadd site w
  | .mfadd => .mfadd site w
  | .mmin => .mmin site w
  | .mmax => .mmax site w
  | .mswap => .mswap site w
  | .panq => .panq site w

end Sys2Proof
end

