-- ==== Sys2Proof/Machine/LaneLegal.lean ====
section
/-! DEFINITION. Which lane-operation words are legal (R96, R97, R102 and the operation tables R105 to R127). -/

namespace Sys2Proof

/-- The operations that VOP refuses, since they act on an element's own memory element or on the master distributor
(R102). -/
def LOp.elementOnly : LOp → Bool
  | .lut | .madd | .msadd | .mfadd | .mmin | .mmax | .mswap | .panq => true
  | _ => false

def LOp.isAcc : LOp → Bool
  | .accf | .accd | .acci | .accs => true
  | _ => false

/-- The read-modify-write operations (R125). -/
def LOp.isRmw : LOp → Bool
  | .madd | .msadd | .mfadd | .mmin | .mmax | .mswap => true
  | _ => false

/-- The FMT codes each operation's table lists. -/
def fmtOk (o : LOp) (f : Nat) : Bool :=
  match o with
  | .fadd | .fsub | .fmul | .fma | .fnma | .fmin | .fmax | .fneg | .fabs | .fdiv | .fsqrt | .frcp | .frsq | .fexp2
  | .flog2 | .ftanh | .fsig | .accf | .cvtfd | .cvtdf | .panq => f == 0
  | .dadd | .dsub | .dmul | .dfma | .dmin | .dmax | .ddiv | .dsqrt | .accd => f == 1
  | .fcmp | .zip | .unzip => f ≤ 1
  | .sel | .lsum | .lmax | .lperm | .lbcast | .lshift | .lins | .lext | .pass => f ≤ 2
  | .icmp | .iadd | .isub | .imul | .imad | .iand | .ior | .ixor | .ishl | .ishr | .isar | .imin | .imax | .iminn
  | .imaxn | .iabs | .acci | .accs | .lut | .madd | .mswap => f == 2
  | .imulh | .isadd | .cvtfi | .cvtif | .kmerge | .msadd | .mmin | .mmax => f == 2 || f == 3
  | .mfadd => f ≤ 3
  | .cvtin | .cvtout => f ≤ 14
  | .cnt => f == 1 || f == 2 || f == 3

/-- Which of the operands A, B and C the operation reads. An accumulator's C counts as read under VOP too, where R117 does not
read it: a select other than ZERO is legal there and has no effect. DESIGN CHOICE: assumption 84. -/
def LOp.reads (o : LOp) (w : LaneW) : Bool × Bool × Bool :=
  match o with
  | .fneg | .fabs | .fsqrt | .frcp | .frsq | .fexp2 | .flog2 | .ftanh | .fsig | .dsqrt | .iabs | .lsum | .lmax | .lperm
  | .lbcast | .lext | .cvtfi | .cvtif | .cvtfd | .cvtdf | .pass | .unzip | .lut | .panq => (true, false, false)
  | .fma | .fnma | .dfma | .sel | .imad => (true, true, true)
  | .accf | .accd | .acci | .accs => (true, false, true)
  | .cvtin => (true, false, w.param.getLsbD 0)
  | .cvtout => (true, w.rnd == 5, w.param.getLsbD 5)
  | .cnt => (false, false, false)
  | _ => (true, true, false)

/-- Whether the operation's table marks it exact, so that RND is 0 (R96). -/
def LOp.exact (o : LOp) (w : LaneW) : Bool :=
  match o with
  | .fadd | .fsub | .fmul | .fma | .fnma | .fdiv | .fsqrt | .frcp | .frsq | .fexp2 | .flog2 | .ftanh | .fsig
  | .dadd | .dsub | .dmul | .dfma | .ddiv | .dsqrt | .lsum | .accf | .accd | .cvtfi | .cvtif | .cvtdf | .mfadd => false
  | .cvtout => w.fmt == 0 && !w.param.getLsbD 6
  | _ => true

/-- The floating storage formats that take a block scale and stochastic rounding: F32 to F4E2 (R119). -/
def scaledFmt (f : Nat) : Bool := decide (1 ≤ f ∧ f ≤ 6)

/-- Whether the operation can raise a flag (R85, R106, R109, R112, R125, R127). -/
def LOp.flags (o : LOp) (w : LaneW) : Bool :=
  match o with
  | .fneg | .fabs | .icmp | .sel | .iadd | .isub | .imul | .imulh | .imad | .iand | .ior | .ixor | .ishl | .ishr | .isar
  | .imin | .imax | .iminn | .imaxn | .isadd | .iabs | .lperm | .lbcast | .lshift | .lins | .lext | .acci | .accs
  | .pass | .zip | .unzip | .cnt | .kmerge | .lut => false
  | .lsum | .lmax => w.fmt != 2
  | .cvtin | .cvtout => w.fmt ≤ 6
  | _ => true

/-- A select of an operand that is read (R95). -/
def selOk (vop read : Bool) (s : BitVec 3) : Bool :=
  if read then s != 7 && (vop || s != 6) else s == 0

/-- The bits of PARAM that the operation uses hold assigned values and every other bit is 0 (R96). -/
def paramOk (o : LOp) (w : LaneW) : Bool :=
  let p := w.param.toNat
  match o with
  | .fcmp => p < 32 && p % 16 ≤ 7
  | .icmp => p < 32 && p % 16 ≤ 9
  | .lperm => true
  | .lbcast | .lins | .lext => p < 8
  | .lshift | .lut => p < 16
  | .cvtin => p < 2 && (p == 0 || scaledFmt w.fmt.toNat)
  | .cvtout =>
    p < 128 && (w.fmt == 0 || p < 64) && (p / 32 % 2 == 0 || scaledFmt w.fmt.toNat)
      && (w.rnd == 5 || p % 32 == 0)
  | .unzip | .madd | .msadd | .mfadd | .mmin | .mmax | .mswap => p < 2
  | .cnt => w.fmt == 3 || p < 4096
  | _ => p == 0

/-- The same for IMM, with R91's rule of shift counts and R125's of read-modify-write words. -/
def immOk (o : LOp) (w : LaneW) : Bool :=
  let i := w.imm.toNat
  let named := w.asel == 4 || w.bsel == 4 || w.csel == 4
  match o with
  | .lperm => i < 256
  | .cnt => w.fmt == 3 || (i < 4096 && (w.fmt == 2 || i == 0))
  | .ishl | .ishr | .isar => if w.bsel == 4 then i < 32 else named || i == 0
  | .madd | .msadd | .mfadd | .mmin | .mmax | .mswap => w.bsel == 4 || i == 0
  | _ => named || i == 0

/-- legal(w) of R96 and R97, under VOP or in an element. -/
def laneLegal (vop : Bool) (o : LOp) (w : LaneW) : Bool :=
  let (ra, rb, rc) := o.reads w
  let input (s : BitVec 3) : Bool := s == 1 || s == 2 || s == 3
  fmtOk o w.fmt.toNat
    && selOk vop ra w.asel && selOk vop rb w.bsel && selOk vop rc w.csel
    && !(o.isAcc && (w.asel == 5 || w.csel == 5))
    && (w.rnd != 6) && (!o.exact w || w.rnd == 0)
    && (w.rnd != 5 || (o == .cvtout && scaledFmt w.fmt.toNat))
    && (o.flags w || w.xen == 0)
    && (w.emit == 0 || o.isAcc || (o == .cnt && w.emit == 1))
    && paramOk o w && immOk o w
    && (if vop then !o.elementOnly
        else o == .cnt || (if o == .panq then w.asel == 1 else input w.asel || input w.bsel || input w.csel))

/-- The latency of an operation from firing to result, in cycles, and its shortest II (tables of R105 to R127). -/
def LOp.timing (o : LOp) (w : LaneW) : Nat × Nat :=
  match o with
  | .fadd | .fsub | .fmul => (3, 1)
  | .fma | .fnma => (4, 1)
  | .fdiv | .fsqrt | .frcp | .frsq | .fexp2 | .flog2 | .ftanh | .fsig => (6, 2)
  | .dadd | .dsub | .dmul | .dfma => (8, 4)
  | .ddiv | .dsqrt => (16, 8)
  | .imul | .imulh | .imad | .cvtfi | .cvtif | .cvtdf => (3, 1)
  | .lsum => if w.fmt == 0 then (9, 1) else if w.fmt == 1 then (16, 4) else (1, 1)
  | .accf => (3, 3)
  | .accd => (8, 8)
  | .cvtin | .cvtout => (2, 1)
  | .lut | .madd | .msadd | .mfadd | .mmin | .mmax | .mswap => (4, 1)
  | _ => (1, 1)

end Sys2Proof
end

