-- ==== Sys2Proof/WellFormed.lean ====
section
/-! DEFINITION. Which instructions and events are well formed: their operands are in the ranges the manual gives, so that
an instruction of the control stream has an encoding (R28 to R42, R285 to R287, R305 to R307, R324). -/

namespace Sys2Proof

/-- A scope code (R39). -/
def scopeOk (s : BitVec 3) : Bool := s != 7#3

/-- An ME number within an island (R305). -/
def mejOk (j : BitVec 9) : Bool := decide (j.toNat < 384)

/-- TILEDEF's SIZE in units of 64 bytes (R306). -/
def sizeOk (n : BitVec 12) : Bool := decide (1 ≤ n.toNat ∧ n.toNat ≤ 2048)

/-- SIGNAL's DEV is 0 where REM is 0 (R307). -/
def devOk (rem : Bool) (dev : BitVec 10) : Bool := rem || dev == 0#10

/-- SETEN, SETSLOT and WAIT agree (R285, R287). -/
def hdrOk (h : CmdHdr) : Bool :=
  if h.seten then !h.wait.getLsbD h.setslot.toNat else h.setslot == 0#3

/-- A substitution register is named only for a field the command has: it has the first `n` (R33). -/
def subsOk (n : Nat) (gs0 gs1 gs2 : GReg) : Bool :=
  (decide (1 ≤ n) || gs0 == 0#5) && (decide (2 ≤ n) || gs1 == 0#5) && gs2 == 0#5

/-- A command's site and header, for a command with `n` substitutable fields. -/
def cmdOk (n : Nat) (site : CmdAt) (h : CmdHdr) : Bool :=
  hdrOk h && match site with
    | .issue gs0 gs1 gs2 => subsOk n gs0 gs1 gs2
    | .start _ => true

/-- A lane operation's word is legal at its site (R96, R97, R102). -/
def laneAtOk (o : LOp) (site : LaneAt) (w : LaneW) : Bool :=
  match site with
  | .vop _ _ _ _ => laneLegal true o w
  | .fire _ _ => laneLegal false o w

/-- The well-formed instructions and events. -/
def wellFormed (i : Instr) : Bool :=
  match i with
  | .add _ _ _ => true
  | .sub _ _ _ => true
  | .and _ _ _ => true
  | .or _ _ _ => true
  | .xor _ _ _ => true
  | .andn _ _ _ => true
  | .sll _ _ _ => true
  | .srl _ _ _ => true
  | .sra _ _ _ => true
  | .mul _ _ _ => true
  | .mulh _ _ _ => true
  | .mulhn _ _ _ => true
  | .div _ _ _ => true
  | .divn _ _ _ => true
  | .rem _ _ _ => true
  | .remn _ _ _ => true
  | .min _ _ _ => true
  | .max _ _ _ => true
  | .minn _ _ _ => true
  | .maxn _ _ _ => true
  | .slt _ _ _ => true
  | .sltn _ _ _ => true
  | .clz _ _ => true
  | .ctz _ _ => true
  | .popc _ _ => true
  | .lea _ _ _ _ => true
  | .addi _ _ _ => true
  | .andi _ _ _ => true
  | .ori _ _ _ => true
  | .xori _ _ _ => true
  | .slti _ _ _ => true
  | .sltni _ _ _ => true
  | .slli _ _ _ => true
  | .srli _ _ _ => true
  | .srai _ _ _ => true
  | .li _ _ => true
  | .insh _ _ _ => true
  | .pcadd _ _ => true
  | .ldB _ _ _ => true
  | .ldBn _ _ _ => true
  | .ldH _ _ _ => true
  | .ldHn _ _ _ => true
  | .ldW _ _ _ => true
  | .ldWn _ _ _ => true
  | .ldD _ _ _ => true
  | .stB _ _ _ => true
  | .stH _ _ _ => true
  | .stW _ _ _ => true
  | .stD _ _ _ => true
  | .beq _ _ _ => true
  | .bne _ _ _ => true
  | .blt _ _ _ => true
  | .bge _ _ _ => true
  | .bltn _ _ _ => true
  | .bgen _ _ _ => true
  | .jal _ _ => true
  | .jalr _ _ _ => true
  | .loop _ _ => true
  | .vmov _ _ => true
  | .vget _ _ _ => true
  | .vgetLm _ _ => true
  | .vld _ _ _ => true
  | .vst _ _ _ => true
  | .spawn _ _ _ _ _ => true
  | .exit => true
  | .yield => true
  | .setpri _ => true
  | .send _ r n => decide (r.toNat + n.toNat ≤ 31)
  | .recv d _ => decide (d.toNat ≤ 28)
  | .waitch _ _ => true
  | .gjoin _ => true
  | .gleave _ => true
  | .gbar _ => true
  | .launch _ _ => true
  | .scopeopen _ _ => true
  | .scopeclose _ => true
  | .scopewait _ => true
  | .scopeqry _ _ => true
  | .ldf _ _ scope => scopeOk scope
  | .ldfe _ _ scope => scopeOk scope
  | .stf _ _ scope => scopeOk scope
  | .amoAdd _ _ _ _ _ scope _ => scopeOk scope
  | .amoAnd _ _ _ _ _ scope _ => scopeOk scope
  | .amoOr _ _ _ _ _ scope _ => scopeOk scope
  | .amoXor _ _ _ _ _ scope _ => scopeOk scope
  | .amoMin _ _ _ _ _ scope _ => scopeOk scope
  | .amoMax _ _ _ _ _ scope _ => scopeOk scope
  | .amoMinn _ _ _ _ _ scope _ => scopeOk scope
  | .amoMaxn _ _ _ _ _ scope _ => scopeOk scope
  | .amoSwap _ _ _ _ _ scope _ => scopeOk scope
  | .amoSadd _ _ _ _ _ scope _ => scopeOk scope
  | .amoFadd _ _ _ _ _ scope _ => scopeOk scope
  | .cas _ _ _ _ _ scope _ => scopeOk scope
  | .lock _ scope => scopeOk scope
  | .unlock _ scope => scopeOk scope
  | .fence scope => scopeOk scope
  | .gld _ _ _ _ => true
  | .gscat _ _ _ _ => true
  | .semacq _ _ => true
  | .semrel _ _ => true
  | .semtry _ _ _ => true
  | .semset _ _ => true
  | .semget _ _ => true
  | .hset _ _ _ => true
  | .cbwf _ _ => true
  | .cbwe _ _ => true
  | .cbap _ _ => true
  | .cbac _ _ => true
  | .dswait _ => true
  | .sysr _ _ => true
  | .sysw _ _ => true
  | .trap _ => true
  | .eret => true
  | .brk => true
  | .halt => true
  | .tladj _ => true
  | .ctxsave _ _ => true
  | .ctxload _ _ => true
  | .wstepStep _ _ => true
  | .fadd site w => laneAtOk .fadd site w
  | .fsub site w => laneAtOk .fsub site w
  | .fmul site w => laneAtOk .fmul site w
  | .fma site w => laneAtOk .fma site w
  | .fnma site w => laneAtOk .fnma site w
  | .fmin site w => laneAtOk .fmin site w
  | .fmax site w => laneAtOk .fmax site w
  | .fneg site w => laneAtOk .fneg site w
  | .fabs site w => laneAtOk .fabs site w
  | .fdiv site w => laneAtOk .fdiv site w
  | .fsqrt site w => laneAtOk .fsqrt site w
  | .frcp site w => laneAtOk .frcp site w
  | .frsq site w => laneAtOk .frsq site w
  | .fexp2 site w => laneAtOk .fexp2 site w
  | .flog2 site w => laneAtOk .flog2 site w
  | .ftanh site w => laneAtOk .ftanh site w
  | .fsig site w => laneAtOk .fsig site w
  | .dadd site w => laneAtOk .dadd site w
  | .dsub site w => laneAtOk .dsub site w
  | .dmul site w => laneAtOk .dmul site w
  | .dfma site w => laneAtOk .dfma site w
  | .dmin site w => laneAtOk .dmin site w
  | .dmax site w => laneAtOk .dmax site w
  | .ddiv site w => laneAtOk .ddiv site w
  | .dsqrt site w => laneAtOk .dsqrt site w
  | .fcmp site w => laneAtOk .fcmp site w
  | .icmp site w => laneAtOk .icmp site w
  | .sel site w => laneAtOk .sel site w
  | .iadd site w => laneAtOk .iadd site w
  | .isub site w => laneAtOk .isub site w
  | .imul site w => laneAtOk .imul site w
  | .imulh site w => laneAtOk .imulh site w
  | .imad site w => laneAtOk .imad site w
  | .iand site w => laneAtOk .iand site w
  | .ior site w => laneAtOk .ior site w
  | .ixor site w => laneAtOk .ixor site w
  | .ishl site w => laneAtOk .ishl site w
  | .ishr site w => laneAtOk .ishr site w
  | .isar site w => laneAtOk .isar site w
  | .imin site w => laneAtOk .imin site w
  | .imax site w => laneAtOk .imax site w
  | .iminn site w => laneAtOk .iminn site w
  | .imaxn site w => laneAtOk .imaxn site w
  | .isadd site w => laneAtOk .isadd site w
  | .iabs site w => laneAtOk .iabs site w
  | .lsum site w => laneAtOk .lsum site w
  | .lmax site w => laneAtOk .lmax site w
  | .lperm site w => laneAtOk .lperm site w
  | .lbcast site w => laneAtOk .lbcast site w
  | .lshift site w => laneAtOk .lshift site w
  | .lins site w => laneAtOk .lins site w
  | .lext site w => laneAtOk .lext site w
  | .accf site w => laneAtOk .accf site w
  | .accd site w => laneAtOk .accd site w
  | .acci site w => laneAtOk .acci site w
  | .accs site w => laneAtOk .accs site w
  | .cvtin site w => laneAtOk .cvtin site w
  | .cvtout site w => laneAtOk .cvtout site w
  | .cvtfi site w => laneAtOk .cvtfi site w
  | .cvtif site w => laneAtOk .cvtif site w
  | .cvtfd site w => laneAtOk .cvtfd site w
  | .cvtdf site w => laneAtOk .cvtdf site w
  | .pass site w => laneAtOk .pass site w
  | .zip site w => laneAtOk .zip site w
  | .unzip site w => laneAtOk .unzip site w
  | .cnt site w => laneAtOk .cnt site w
  | .kmerge site w => laneAtOk .kmerge site w
  | .lut site w => laneAtOk .lut site w
  | .madd site w => laneAtOk .madd site w
  | .msadd site w => laneAtOk .msadd site w
  | .mfadd site w => laneAtOk .mfadd site w
  | .mmin site w => laneAtOk .mmin site w
  | .mmax site w => laneAtOk .mmax site w
  | .mswap site w => laneAtOk .mswap site w
  | .panq site w => laneAtOk .panq site w
  | .patset site h _ _ _ => cmdOk 2 site h
  | .bindld site h _ _ _ => cmdOk 2 site h
  | .bindst site h _ _ _ => cmdOk 2 site h
  | .gather site h _ => cmdOk 1 site h
  | .scatter site h _ => cmdOk 1 site h
  | .copy site h _ => cmdOk 1 site h
  | .rcopy site h _ => cmdOk 1 site h
  | .barrier site h _ mej _ => cmdOk 0 site h && mejOk mej
  | .tiledef site h _ mej _ _ size => cmdOk 0 site h && mejOk mej && sizeOk size
  | .tileset site h _ mej _ _ => cmdOk 0 site h && mejOk mej
  | .signal site h dev rem _ _ _ => cmdOk 2 site h && devOk rem dev
  | .cfgload site h _ _ => cmdOk 2 site h
  | .cfgsw site h _ _ => cmdOk 2 site h
  | .mark site h _ => cmdOk 1 site h
  | .probe site h _ _ _ _ => cmdOk 1 site h
  | .fetchw site h _ _ => cmdOk 2 site h
  | .unbind site h _ _ => cmdOk 1 site h
  | .griddef site h _ _ _ => cmdOk 2 site h
  | .pandef site h _ _ => cmdOk 2 site h
  | .panctlSetf site h _ _ => cmdOk 2 site h
  | .panctlSeta site h _ _ => cmdOk 2 site h
  | .panctlSetpri site h _ _ => cmdOk 2 site h
  | .panctlSetfb site h _ _ => cmdOk 2 site h
  | .panctlResume site h _ _ => cmdOk 2 site h
  | .panctlClear site h _ _ => cmdOk 2 site h
  | .panctlWindow site h _ _ => cmdOk 2 site h
  | .panctlEvict site h _ _ => cmdOk 2 site h
  | .panctlFree site h _ _ => cmdOk 2 site h
  | .pandrain site h _ => cmdOk 1 site h
  | .instructionFetch core => decide (core < 256)
  | .contextBoost tid => decide (tid < 2048)
  | .asyncTrapEntry tid => decide (tid < 2048)
  | .messageDelivery _ => true
  | .ldfRetry _ => true
  | .lockWake island _ => decide (island < 64)
  | .wstepResume _ _ => true
  | .wstepMasked _ _ => true
  | .wstepEnd _ _ => true
  | .tokenHop _ _ _ _ => true
  | .fanoutTake _ _ => true
  | .steer _ _ => true
  | .filter _ _ => true
  | .merge _ _ => true
  | .umerge _ _ => true
  | .carry _ _ => true
  | .cutOnlyWordTake _ _ port => decide (port < 24)
  | .reorderStoreWrite _ _ => true
  | .reorderStoreRead _ _ => true
  | .controllerGo _ _ => true
  | .controllerDone _ _ => true
  | .configurationStep _ => true
  | .cfgswTimeReached _ => true
  | .switchMarkerTake _ _ => true
  | .agStreamRead _ _ => true
  | .agStreamDeliver _ _ => true
  | .agStreamWrite _ _ => true
  | .agStreamAccessAnswer _ _ => true
  | .gridLookupQuery _ _ => true
  | .gridScatterQuery _ _ => true
  | .pageWalk _ => true
  | .remoteAccessPerform _ => true
  | .accessAnswer _ => true
  | .windowCommit _ => true
  | .rollback _ => true
  | .residencyPlace entry island _ => decide (entry < 4096) && decide (island < 64)
  | .mdPlacementPass => true
  | .reservationTimeout => true
  | .residencyFinish _ => true
  | .preemptSave _ => true
  | .commandComplete _ => true
  | .panEntryArrival _ => true
  | .panAgeLimit pan => decide (pan < 4096)
  | .panFire pan => decide (pan < 4096)
  | .batchBufferWritten pan _ => decide (pan < 4096)
  | .panRefill pan => decide (pan < 4096)
  | .weightFetchComplete pan => decide (pan < 4096)
  | .apertureMadd me _ => decide (me < 24576)
  | .apertureMsaddI me _ => decide (me < 24576)
  | .apertureMsaddN me _ => decide (me < 24576)
  | .apertureMminI me _ => decide (me < 24576)
  | .apertureMmaxI me _ => decide (me < 24576)
  | .apertureMminN me _ => decide (me < 24576)
  | .apertureMmaxN me _ => decide (me < 24576)
  | .apertureMswap me _ => decide (me < 24576)
  | .ringMessageArrival _ _ => true
  | .ringNoticeDelivery _ => true
  | .ringOverflowTimeout _ => true
  | .columnRepair island _ => decide (island < 64)
  | .mdFailover => true
  | .soundPortLaneLoss port => decide (port < 24)
  | .flitRd port _ => decide (port < 24)
  | .flitWr port _ => decide (port < 24)
  | .flitAmo port _ => decide (port < 24)
  | .flitCas port _ => decide (port < 24)
  | .flitResp port _ => decide (port < 24)
  | .flitAck port _ => decide (port < 24)
  | .flitSignal port _ => decide (port < 24)
  | .flitPanq port _ => decide (port < 24)
  | .flitPnack port _ => decide (port < 24)
  | .flitPresume port _ => decide (port < 24)
  | .requestTimeout _ => true
  | .hostAccess _ => true
  | .mailboxWrite _ => true
  | .hnote _ => true
  | .packageReset => true
  | .bootgo _ => true
  | .bootCheckDone => true
  | .functionReady _ => true
  | .ccmdStart core _ => decide (core < 256)
  | .ccmdRelease core _ => decide (core < 256)
  | .ccmdStop core _ => decide (core < 256)
  | .qgo => true
  | .qdataRead => true
  | .istopReq island => decide (island < 64)
  | .istopCont island => decide (island < 64)
  | .debugStop island _ => decide (island < 64)
  | .koroFilterRun die => decide (die < 4)
  | .swrec die _ => decide (die < 4)
  | .flenWrite die _ => decide (die < 4)
  | .statsClear island _ _ => decide (island < 64)
  | .throttleStep => true
  | .thermalEvent die _ => decide (die < 4)
  | .registerWrite _ _ _ => true
  | .softError _ => true
  | .flitCrcFailure port => decide (port < 24)
  | .flitReservedOp port _ => decide (port < 24)
  | .corePowerGated core => decide (core < 256)
  | .corePoweredUp core => decide (core < 256)
  | .spareCopyDone channel => decide (channel < 1024)

end Sys2Proof
end

