-- ==== Sys2Proof/Decode.lean ====
section
/-! DEFINITION. Decoding and encoding of the control stream (R24 to R43, R94, R285 to R287, R324). Decoding is total: it
answers an instruction or the reason for which the words are illegal. -/

namespace Sys2Proof

/-- Why words are no instruction (R34, R42, R287). -/
inductive Reject where
  /-- MAJ is 0x00 or 0x33 to 0x3F. -/
  | reservedMajor
  /-- An fn, sub, AOP, OP, kind or CMD value is not assigned. -/
  | reservedCode
  /-- A reserved field or bit is not 0, or a field holds a reserved value. -/
  | reservedField
  /-- A SCOPE field holds 7. -/
  | reservedScope
  /-- A register-range limit of R41 is broken. -/
  | badRange
  /-- A lane-operation word that VOP refuses (R102). -/
  | badLaneWord
  /-- A stream command that ISSUE refuses whatever its registers hold (R33, R34, R287). -/
  | badCommand
  /-- Fewer words than the instruction has. -/
  | shortInput
  deriving DecidableEq, Repr

abbrev Decoded := Except Reject Instr

/-- The fields of R28. -/
def fMaj (w : BitVec 32) : BitVec 6 := w.extractLsb' 26 6
def fD (w : BitVec 32) : GReg := w.extractLsb' 21 5
def fA (w : BitVec 32) : GReg := w.extractLsb' 16 5
def fB (w : BitVec 32) : GReg := w.extractLsb' 11 5
def fFn (w : BitVec 32) : BitVec 11 := w.extractLsb' 0 11
def fImm (w : BitVec 32) : BitVec 16 := w.extractLsb' 0 16
def fImm21 (w : BitVec 32) : BitVec 21 := w.extractLsb' 0 21

/-- A v or h register number with its reserved bit 4 (R29). -/
def vnum (f : GReg) : VNum := f.setWidth 4
def vhi (f : GReg) : Bool := f.getLsbD 4

/-- `i`, unless a reserved field is not 0 (R42). -/
def guardField (zero : Bool) (i : Instr) : Decoded := if zero then .ok i else .error .reservedField

/-- `i`, unless its SCOPE is 7 (R39, R42). -/
def guardScope (s : BitVec 3) (d : Decoded) : Decoded := if s = 7#3 then .error .reservedScope else d

/-- How many words an instruction has, from its first word (R25). -/
def wordCount (w : BitVec 32) : Nat :=
  match (fMaj w).toNat with
  | 0x21 => 3
  | 0x2D => 5
  | _ => 1

/-- The integer group (R38). -/
def decodeInt (w : BitVec 32) : Decoded :=
  let fn := fFn w
  let z := fn.extractLsb' 6 5 == 0#5
  match (fn.extractLsb' 0 6).toNat with
  | 0x00 => guardField z (.add (fD w) (fA w) (fB w))
  | 0x01 => guardField z (.sub (fD w) (fA w) (fB w))
  | 0x02 => guardField z (.and (fD w) (fA w) (fB w))
  | 0x03 => guardField z (.or (fD w) (fA w) (fB w))
  | 0x04 => guardField z (.xor (fD w) (fA w) (fB w))
  | 0x05 => guardField z (.andn (fD w) (fA w) (fB w))
  | 0x06 => guardField z (.sll (fD w) (fA w) (fB w))
  | 0x07 => guardField z (.srl (fD w) (fA w) (fB w))
  | 0x08 => guardField z (.sra (fD w) (fA w) (fB w))
  | 0x09 => guardField z (.mul (fD w) (fA w) (fB w))
  | 0x0a => guardField z (.mulh (fD w) (fA w) (fB w))
  | 0x0b => guardField z (.mulhn (fD w) (fA w) (fB w))
  | 0x0c => guardField z (.div (fD w) (fA w) (fB w))
  | 0x0d => guardField z (.divn (fD w) (fA w) (fB w))
  | 0x0e => guardField z (.rem (fD w) (fA w) (fB w))
  | 0x0f => guardField z (.remn (fD w) (fA w) (fB w))
  | 0x10 => guardField z (.min (fD w) (fA w) (fB w))
  | 0x11 => guardField z (.max (fD w) (fA w) (fB w))
  | 0x12 => guardField z (.minn (fD w) (fA w) (fB w))
  | 0x13 => guardField z (.maxn (fD w) (fA w) (fB w))
  | 0x14 => guardField z (.slt (fD w) (fA w) (fB w))
  | 0x15 => guardField z (.sltn (fD w) (fA w) (fB w))
  | 0x16 => guardField (z && fB w == 0#5) (.clz (fD w) (fA w))
  | 0x17 => guardField (z && fB w == 0#5) (.ctz (fD w) (fA w))
  | 0x18 => guardField (z && fB w == 0#5) (.popc (fD w) (fA w))
  | 0x19 => guardField (fn.extractLsb' 8 3 == 0#3) (.lea (fD w) (fA w) (fB w) (fn.extractLsb' 6 2))
  | _ => .error .reservedCode

/-- SHI (R37). -/
def decodeShi (w : BitVec 32) : Decoded :=
  let imm := fImm w
  let z := imm.extractLsb' 6 8 == 0#8
  match (imm.extractLsb' 14 2).toNat with
  | 0 => guardField z (.slli (fD w) (fA w) (imm.extractLsb' 0 6))
  | 1 => guardField z (.srli (fD w) (fA w) (imm.extractLsb' 0 6))
  | 2 => guardField z (.srai (fD w) (fA w) (imm.extractLsb' 0 6))
  | _ => .error .reservedCode

/-- LDF, LDFE and STF (R40). -/
def decodeSync (w : BitVec 32) : Decoded :=
  let fn := fFn w
  let s := fn.extractLsb' 2 3
  let z := fn.extractLsb' 5 4 == 0#4 && fn.extractLsb' 0 2 == 0#2
  match (fn.extractLsb' 9 2).toNat with
  | 0 => guardScope s (guardField (z && fB w == 0#5) (.ldf (fD w) (fA w) s))
  | 1 => guardScope s (guardField (z && fB w == 0#5) (.ldfe (fD w) (fA w) s))
  | 2 => guardScope s (guardField (z && fD w == 0#5) (.stf (fA w) (fB w) s))
  | _ => .error .reservedCode

/-- AMO (R40). -/
def decodeAmo (w : BitVec 32) : Decoded :=
  let fn := fFn w
  let d := fD w
  let a := fA w
  let b := fB w
  let aq := fn.getLsbD 6
  let rl := fn.getLsbD 5
  let s := fn.extractLsb' 2 3
  let wd := fn.getLsbD 1
  let ok := fun i => guardScope s (guardField (!fn.getLsbD 0) i)
  match (fn.extractLsb' 7 4).toNat with
  | 0 => ok (.amoAdd d a b aq rl s wd)
  | 1 => ok (.amoAnd d a b aq rl s wd)
  | 2 => ok (.amoOr d a b aq rl s wd)
  | 3 => ok (.amoXor d a b aq rl s wd)
  | 4 => ok (.amoMin d a b aq rl s wd)
  | 5 => ok (.amoMax d a b aq rl s wd)
  | 6 => ok (.amoMinn d a b aq rl s wd)
  | 7 => ok (.amoMaxn d a b aq rl s wd)
  | 8 => ok (.amoSwap d a b aq rl s wd)
  | 9 => ok (.amoSadd d a b aq rl s wd)
  | 10 => ok (.amoFadd d a b aq rl s wd)
  | _ => .error .reservedCode

/-- CAS (R40). -/
def decodeCas (w : BitVec 32) : Decoded :=
  let fn := fFn w
  let s := fn.extractLsb' 2 3
  guardScope s (guardField (fn.extractLsb' 7 4 == 0#4 && !fn.getLsbD 0)
    (.cas (fD w) (fA w) (fB w) (fn.getLsbD 6) (fn.getLsbD 5) s (fn.getLsbD 1)))

/-- MAJ 0x20 (R41). -/
def decodeMove (w : BitVec 32) : Decoded :=
  match (fD w).toNat with
  | 0 => guardField (!vhi (fA w) && !vhi (fB w) && fFn w == 0#11) (.vmov (vnum (fA w)) (vnum (fB w)))
  | 1 =>
    if (fFn w).getLsbD 3 then
      guardField (!vhi (fB w) && (fFn w).extractLsb' 4 7 == 0#7 && (fFn w).extractLsb' 0 3 == 0#3) (.vgetLm (fA w) (vnum (fB w)))
    else guardField (!vhi (fB w) && (fFn w).extractLsb' 4 7 == 0#7) (.vget (fA w) (vnum (fB w)) ((fFn w).extractLsb' 0 3))
  | 2 => guardField (!vhi (fA w)) (.vld (vnum (fA w)) (fB w) (fFn w))
  | 3 => guardField (!vhi (fA w)) (.vst (vnum (fA w)) (fB w) (fFn w))
  | _ => .error .reservedCode

/-- MAJ 0x22 (R41). SPAWN with c[2] = 1 takes any c[1:0], for which R41 gives a meaning only where c[2] is 0. DESIGN CHOICE:
assumption 82. -/
def decodeThread (w : BitVec 32) : Decoded :=
  match (fD w).toNat with
  | 0 =>
    guardField ((fFn w).extractLsb' 3 3 == 0#3)
      (.spawn (fA w) (fB w) ((fFn w).extractLsb' 6 5) ((fFn w).getLsbD 2) ((fFn w).extractLsb' 0 2))
  | 1 => guardField (fA w == 0#5 && fB w == 0#5 && fFn w == 0#11) (.exit)
  | 2 => guardField (fA w == 0#5 && fB w == 0#5 && fFn w == 0#11) (.yield)
  | 3 => guardField (fA w == 0#5 && fB w == 0#5 && (fFn w).extractLsb' 2 9 == 0#9) (.setpri ((fFn w).extractLsb' 0 2))
  | _ => .error .reservedCode

/-- MAJ 0x23 (R41). -/
def decodeChannel (w : BitVec 32) : Decoded :=
  match (fD w).toNat with
  | 0 => if (fB w).toNat + ((fFn w).extractLsb' 0 2).toNat ≤ 31 then guardField ((fFn w).extractLsb' 2 9 == 0#9) (.send (fA w) (fB w) ((fFn w).extractLsb' 0 2)) else .error .badRange
  | 1 => if (fA w).toNat ≤ 28 then guardField (fB w == 0#5 && (fFn w).extractLsb' 6 5 == 0#5) (.recv (fA w) ((fFn w).extractLsb' 0 6)) else .error .badRange
  | 2 => guardField (fFn w == 0#11) (.waitch (fA w) (fB w))
  | _ => .error .reservedCode

/-- MAJ 0x24 (R41). -/
def decodeGroup (w : BitVec 32) : Decoded :=
  match (fD w).toNat with
  | 0 => guardField (fA w == 0#5 && fFn w == 0#11) (.gjoin (fB w))
  | 1 => guardField (fA w == 0#5 && fFn w == 0#11) (.gleave (fB w))
  | 2 => guardField (fA w == 0#5 && fFn w == 0#11) (.gbar (fB w))
  | _ => .error .reservedCode

/-- MAJ 0x25 (R41). -/
def decodeLaunch (w : BitVec 32) : Decoded :=
  match (fD w).toNat with
  | 0 => guardField (fFn w == 0#11) (.launch (fA w) (fB w))
  | _ => .error .reservedCode

/-- MAJ 0x26 (R41). -/
def decodeScope (w : BitVec 32) : Decoded :=
  match (fD w).toNat with
  | 0 => guardField (fFn w == 0#11) (.scopeopen (fA w) (fB w))
  | 1 => guardField (fA w == 0#5 && fFn w == 0#11) (.scopeclose (fB w))
  | 2 => guardField (fA w == 0#5 && fFn w == 0#11) (.scopewait (fB w))
  | 3 => guardField (fFn w == 0#11) (.scopeqry (fA w) (fB w))
  | _ => .error .reservedCode

/-- MAJ 0x2a (R41). -/
def decodeLock (w : BitVec 32) : Decoded :=
  match (fD w).toNat with
  | 0 => guardScope ((fFn w).extractLsb' 0 3) (guardField (fA w == 0#5 && (fFn w).extractLsb' 3 8 == 0#8) (.lock (fB w) ((fFn w).extractLsb' 0 3)))
  | 1 => guardScope ((fFn w).extractLsb' 0 3) (guardField (fA w == 0#5 && (fFn w).extractLsb' 3 8 == 0#8) (.unlock (fB w) ((fFn w).extractLsb' 0 3)))
  | _ => .error .reservedCode

/-- MAJ 0x2b (R41). -/
def decodeFence (w : BitVec 32) : Decoded :=
  match (fD w).toNat with
  | 0 => guardScope ((fFn w).extractLsb' 0 3) (guardField (fA w == 0#5 && fB w == 0#5 && (fFn w).extractLsb' 3 8 == 0#8) (.fence ((fFn w).extractLsb' 0 3)))
  | _ => .error .reservedCode

/-- MAJ 0x2c (R41). -/
def decodeCrystal (w : BitVec 32) : Decoded :=
  match (fD w).toNat with
  | 0 => guardField (!vhi (fA w) && (fFn w).extractLsb' 4 2 == 0#2) (.gld (vnum (fA w)) (fB w) ((fFn w).extractLsb' 6 5) ((fFn w).extractLsb' 0 4))
  | 1 => guardField (!vhi (fA w) && (fFn w).extractLsb' 4 2 == 0#2) (.gscat (vnum (fA w)) (fB w) ((fFn w).extractLsb' 6 5) ((fFn w).extractLsb' 0 4))
  | _ => .error .reservedCode

/-- MAJ 0x2e (R41). -/
def decodeSem (w : BitVec 32) : Decoded :=
  match (fD w).toNat with
  | 0 => guardField (fA w == 0#5 && (fFn w).extractLsb' 6 5 == 0#5) (.semacq (fB w) ((fFn w).extractLsb' 0 6))
  | 1 => guardField (fA w == 0#5 && (fFn w).extractLsb' 6 5 == 0#5) (.semrel (fB w) ((fFn w).extractLsb' 0 6))
  | 2 => guardField ((fFn w).extractLsb' 6 5 == 0#5) (.semtry (fA w) (fB w) ((fFn w).extractLsb' 0 6))
  | 3 => guardField (fA w == 0#5 && (fFn w).extractLsb' 6 5 == 0#5) (.semset (fB w) ((fFn w).extractLsb' 0 6))
  | 4 => guardField (fB w == 0#5 && (fFn w).extractLsb' 6 5 == 0#5) (.semget (fA w) ((fFn w).extractLsb' 0 6))
  | _ => .error .reservedCode

/-- MAJ 0x2f (R41). -/
def decodeRing (w : BitVec 32) : Decoded :=
  match (fD w).toNat with
  | 0 => guardField (!vhi (fA w) && (fFn w).extractLsb' 0 6 == 0#6) (.hset (vnum (fA w)) (fB w) ((fFn w).extractLsb' 6 5))
  | 1 => guardField (!vhi (fA w) && fB w == 0#5) (.cbwf (vnum (fA w)) (fFn w))
  | 2 => guardField (!vhi (fA w) && fB w == 0#5) (.cbwe (vnum (fA w)) (fFn w))
  | 3 => guardField (!vhi (fA w) && fB w == 0#5) (.cbap (vnum (fA w)) (fFn w))
  | 4 => guardField (!vhi (fA w) && fB w == 0#5) (.cbac (vnum (fA w)) (fFn w))
  | _ => .error .reservedCode

/-- MAJ 0x30 (R41). -/
def decodeSlot (w : BitVec 32) : Decoded :=
  match (fD w).toNat with
  | 0 => guardField (fA w == 0#5 && fB w == 0#5 && (fFn w).extractLsb' 8 3 == 0#3) (.dswait ((fFn w).extractLsb' 0 8))
  | _ => .error .reservedCode

/-- MAJ 0x31 (R41). -/
def decodeSystem (w : BitVec 32) : Decoded :=
  match (fD w).toNat with
  | 0 => guardField (fB w == 0#5) (.sysr (fA w) (fFn w))
  | 1 => guardField (fA w == 0#5) (.sysw (fB w) (fFn w))
  | 2 => guardField (fA w == 0#5 && fB w == 0#5) (.trap (fFn w))
  | 3 => guardField (fA w == 0#5 && fB w == 0#5 && fFn w == 0#11) (.eret)
  | 4 => guardField (fA w == 0#5 && fB w == 0#5 && fFn w == 0#11) (.brk)
  | 5 => guardField (fA w == 0#5 && fB w == 0#5 && fFn w == 0#11) (.halt)
  | 6 => guardField (fA w == 0#5 && fFn w == 0#11) (.tladj (fB w))
  | _ => .error .reservedCode

/-- MAJ 0x32 (R41). -/
def decodeContext (w : BitVec 32) : Decoded :=
  match (fD w).toNat with
  | 0 => guardField (fA w == 0#5 && (fFn w).extractLsb' 3 8 == 0#8) (.ctxsave (fB w) ((fFn w).extractLsb' 0 3))
  | 1 => guardField (fA w == 0#5 && (fFn w).extractLsb' 3 8 == 0#8) (.ctxload (fB w) ((fFn w).extractLsb' 0 3))
  | 2 => guardField (fFn w == 0#11) (.wstepStep (fA w) (fB w))
  | _ => .error .reservedCode

/-- The fields of a lane-operation word (R94). -/
def laneFields (x : BitVec 64) : LaneW :=
  { fmt := x.extractLsb' 52 4, asel := x.extractLsb' 49 3, bsel := x.extractLsb' 46 3, csel := x.extractLsb' 43 3,
    rnd := x.extractLsb' 40 3, xen := x.extractLsb' 35 5, emit := x.extractLsb' 32 3, param := x.extractLsb' 16 16,
    imm := x.extractLsb' 0 16 }

/-- The lane operation and fields of a word, if it is legal under VOP or in an element (R96, R97, R102). -/
def laneWord (vop : Bool) (x : BitVec 64) : Option (LOp × LaneW) :=
  match LOp.ofCode (x.extractLsb' 56 8) with
  | some o => if laneLegal vop o (laneFields x) then some (o, laneFields x) else none
  | none => none

/-- The 64 bits of a lane-operation word (R94). -/
def laneBits (o : LOp) (w : LaneW) : BitVec 64 :=
  o.code ++ w.fmt ++ w.asel ++ w.bsel ++ w.csel ++ w.rnd ++ w.xen ++ w.emit ++ w.param ++ w.imm

/-- VOP: the prefix and the lane-operation word (R31). -/
def decodeVop (w hi lo : BitVec 32) : Decoded :=
  if w.extractLsb' 0 10 ≠ 0#10 then .error .reservedField
  else
    match laneWord true (hi ++ lo) with
    | some (o, l) =>
      .ok (o.instr (.vop (w.extractLsb' 22 4) (w.extractLsb' 18 4) (w.extractLsb' 14 4) (w.extractLsb' 10 4)) l)
    | none => .error .badLaneWord

/-- The header of a stream command (R285). -/
def cmdHdr (x : BitVec 128) : CmdHdr :=
  { wait := x.extractLsb' 112 8, seten := x.getLsbD 111, setslot := x.extractLsb' 108 3 }

/-- The command of `x`, with the checks that no substitution can change (R286, R287). `site` is where it stands and
`subs` says whether its substitution registers fit a command with so many fields. -/
def decodeCmd (site : CmdAt) (subs : Nat → Bool) (x : BitVec 128) : Decoded :=
  let h := cmdHdr x
  let tgt := fun (n : Nat) (subsN : Nat) (zero : Bool) (i : Instr) =>
    if (x.extractLsb' 104 4).toNat = n ∧ hdrOk h ∧ subs subsN ∧ zero then (.ok i : Decoded) else .error .badCommand
  match (x.extractLsb' 120 8).toNat with
  | 0x01 => tgt 0 2 (x.extractLsb' 52 3 == 0#3) (.patset site h (x.extractLsb' 58 46) (x.extractLsb' 55 3) (x.extractLsb' 0 52))
  | 0x02 => tgt 1 2 (x.extractLsb' 0 6 == 0#6 && x.extractLsb' 52 14 == 0#14) (.bindld site h (x.extractLsb' 72 32) (x.extractLsb' 66 6) (x.extractLsb' 6 46))
  | 0x03 => tgt 1 2 (x.extractLsb' 0 6 == 0#6 && x.extractLsb' 52 14 == 0#14) (.bindst site h (x.extractLsb' 72 32) (x.extractLsb' 66 6) (x.extractLsb' 6 46))
  | 0x04 => tgt 0 1 (x.extractLsb' 0 58 == 0#58) (.gather site h (x.extractLsb' 58 46))
  | 0x05 => tgt 0 1 (x.extractLsb' 0 58 == 0#58) (.scatter site h (x.extractLsb' 58 46))
  | 0x06 => tgt 0 1 (x.extractLsb' 0 58 == 0#58) (.copy site h (x.extractLsb' 58 46))
  | 0x07 => tgt 0 1 (x.extractLsb' 0 58 == 0#58) (.rcopy site h (x.extractLsb' 58 46))
  | 0x08 => tgt 2 0 (x.extractLsb' 0 73 == 0#73 && mejOk (x.extractLsb' 89 9)) (.barrier site h (x.extractLsb' 98 6) (x.extractLsb' 89 9) (x.extractLsb' 73 16))
  | 0x09 => tgt 2 0 (x.extractLsb' 0 62 == 0#62 && mejOk (x.extractLsb' 89 9) && sizeOk (x.extractLsb' 62 12)) (.tiledef site h (x.extractLsb' 98 6) (x.extractLsb' 89 9) (x.extractLsb' 85 4) (x.extractLsb' 74 11) (x.extractLsb' 62 12))
  | 0x0a => tgt 2 0 (x.extractLsb' 0 83 == 0#83 && mejOk (x.extractLsb' 89 9)) (.tileset site h (x.extractLsb' 98 6) (x.extractLsb' 89 9) (x.extractLsb' 85 4) (x.extractLsb' 83 2))
  | 0x0b => tgt 0 2 (x.extractLsb' 0 47 == 0#47 && devOk (x.getLsbD 93) (x.extractLsb' 94 10)) (.signal site h (x.extractLsb' 94 10) (x.getLsbD 93) (x.extractLsb' 85 8) (x.extractLsb' 79 6) (x.extractLsb' 47 32))
  | 0x0c => tgt 3 2 (x.extractLsb' 0 26 == 0#26) (.cfgload site h (x.extractLsb' 72 32) (x.extractLsb' 26 46))
  | 0x0d => tgt 3 2 (x.extractLsb' 0 8 == 0#8) (.cfgsw site h (x.extractLsb' 72 32) (x.extractLsb' 8 64))
  | 0x0e => tgt 3 1 (x.extractLsb' 0 72 == 0#72) (.mark site h (x.extractLsb' 72 32))
  | 0x0f => tgt 3 1 (x.extractLsb' 0 56 == 0#56) (.probe site h (x.extractLsb' 72 32) (x.extractLsb' 66 6) (x.extractLsb' 60 6) (x.extractLsb' 56 4))
  | 0x10 => tgt 0 2 (x.extractLsb' 0 46 == 0#46) (.fetchw site h (x.extractLsb' 58 46) (x.extractLsb' 46 12))
  | 0x11 => tgt 1 1 (x.extractLsb' 0 66 == 0#66) (.unbind site h (x.extractLsb' 72 32) (x.extractLsb' 66 6))
  | 0x12 => tgt 0 2 (x.extractLsb' 0 13 == 0#13) (.griddef site h (x.extractLsb' 59 45) (x.extractLsb' 14 45) (x.getLsbD 13))
  | 0x20 => tgt 4 2 (x.extractLsb' 0 47 == 0#47) (.pandef site h (x.extractLsb' 92 12) (x.extractLsb' 47 45))
  | 0x22 => tgt 4 1 (x.extractLsb' 0 92 == 0#92) (.pandrain site h (x.extractLsb' 92 12))
  | 0x21 =>
    let z := x.extractLsb' 0 56 == 0#56
    let p := x.extractLsb' 92 12
    let v := x.extractLsb' 56 32
    match (x.extractLsb' 88 4).toNat with
    | 0 => tgt 4 2 z (.panctlSetf site h p v)
    | 1 => tgt 4 2 z (.panctlSeta site h p v)
    | 2 => tgt 4 2 z (.panctlSetpri site h p v)
    | 3 => tgt 4 2 z (.panctlSetfb site h p v)
    | 4 => tgt 4 2 z (.panctlResume site h p v)
    | 5 => tgt 4 2 z (.panctlClear site h p v)
    | 6 => tgt 4 2 z (.panctlWindow site h p v)
    | 7 => tgt 4 2 z (.panctlEvict site h p v)
    | 8 => tgt 4 2 z (.panctlFree site h p v)
    | _ => .error .badCommand
  | _ => .error .reservedCode

/-- ISSUE: the prefix and the stream command (R32). -/
def decodeIssue (w w3 w2 w1 w0 : BitVec 32) : Decoded :=
  let gs0 := fD w
  let gs1 := fA w
  let gs2 := fB w
  if fFn w ≠ 0#11 then .error .reservedField
  else decodeCmd (.issue gs0 gs1 gs2) (fun n => subsOk n gs0 gs1 gs2) (w3 ++ w2 ++ w1 ++ w0)

/-- A one-word instruction (R35, R36). -/
def decodeOne (w : BitVec 32) : Decoded :=
  let d := fD w
  let a := fA w
  let imm := fImm w
  match (fMaj w).toNat with
  | 0x01 => decodeInt w
  | 0x02 => .ok (.addi d a imm)
  | 0x03 => .ok (.andi d a imm)
  | 0x04 => .ok (.ori d a imm)
  | 0x05 => .ok (.xori d a imm)
  | 0x06 => .ok (.slti d a imm)
  | 0x07 => .ok (.sltni d a imm)
  | 0x08 => decodeShi w
  | 0x09 => .ok (.li d (fImm21 w))
  | 0x0A => guardField (a.extractLsb' 2 3 == 0#3) (.insh d (a.extractLsb' 0 2) imm)
  | 0x0B => .ok (.pcadd d (fImm21 w))
  | 0x0c => .ok (.ldB d a imm)
  | 0x0d => .ok (.ldBn d a imm)
  | 0x0e => .ok (.ldH d a imm)
  | 0x0f => .ok (.ldHn d a imm)
  | 0x10 => .ok (.ldW d a imm)
  | 0x11 => .ok (.ldWn d a imm)
  | 0x12 => .ok (.ldD d a imm)
  | 0x13 => .ok (.stB d a imm)
  | 0x14 => .ok (.stH d a imm)
  | 0x15 => .ok (.stW d a imm)
  | 0x16 => .ok (.stD d a imm)
  | 0x17 => .ok (.beq d a imm)
  | 0x18 => .ok (.bne d a imm)
  | 0x19 => .ok (.blt d a imm)
  | 0x1a => .ok (.bge d a imm)
  | 0x1b => .ok (.bltn d a imm)
  | 0x1c => .ok (.bgen d a imm)
  | 0x1D => .ok (.jal d (fImm21 w))
  | 0x1E => .ok (.jalr d a imm)
  | 0x1F => guardField (a == 0#5) (.loop d imm)
  | 0x27 => decodeSync w
  | 0x28 => decodeAmo w
  | 0x29 => decodeCas w
  | 0x20 => decodeMove w
  | 0x22 => decodeThread w
  | 0x23 => decodeChannel w
  | 0x24 => decodeGroup w
  | 0x25 => decodeLaunch w
  | 0x26 => decodeScope w
  | 0x2a => decodeLock w
  | 0x2b => decodeFence w
  | 0x2c => decodeCrystal w
  | 0x2e => decodeSem w
  | 0x2f => decodeRing w
  | 0x30 => decodeSlot w
  | 0x31 => decodeSystem w
  | 0x32 => decodeContext w
  | _ => .error .reservedMajor

/-- The instruction that a list of words begins with (R25, R42). -/
def decode (ws : List (BitVec 32)) : Decoded :=
  match ws with
  | [] => .error .shortInput
  | w :: rest =>
    match (fMaj w).toNat, rest with
    | 0x21, hi :: lo :: _ => decodeVop w hi lo
    | 0x2D, w3 :: w2 :: w1 :: w0 :: _ => decodeIssue w w3 w2 w1 w0
    | 0x21, _ => .error .shortInput
    | 0x2D, _ => .error .shortInput
    | _, _ => decodeOne w

/-- The 32-bit words of `w`, first word in its low bits. -/
def wordsOfBits (n w : Nat) : List (BitVec 32) :=
  (List.range n).map (fun i => BitVec.ofNat 32 (w / 2 ^ (32 * i)))

/-- The instruction that the decoder reads from a word of the opcode table: bits above `nbits` are 0 up to the longest
instruction, five words. -/
def decodeTableWord (nbits w : Nat) : Option Instr :=
  match decode (wordsOfBits 5 (w % 2 ^ nbits)) with
  | .ok i => some i
  | .error _ => none

/-- The layouts of R28. -/
def encRR (maj : BitVec 6) (d a b : GReg) (fn : BitVec 11) : BitVec 32 := maj ++ d ++ a ++ b ++ fn
def encRI (maj : BitVec 6) (d a : GReg) (imm : BitVec 16) : BitVec 32 := maj ++ d ++ a ++ imm
def encJL (maj : BitVec 6) (d : GReg) (imm : BitVec 21) : BitVec 32 := maj ++ d ++ imm
def encSY (maj : BitVec 6) (sub a b : BitVec 5) (c : BitVec 11) : BitVec 32 := maj ++ sub ++ a ++ b ++ c

/-- A v or h register in a field of five bits (R29). -/
def fv (v : VNum) : BitVec 5 := v.setWidth 5

/-- The words of a VOP instruction (R25, R31). -/
def encLane (o : LOp) (site : LaneAt) (w : LaneW) : Option (List (BitVec 32)) :=
  match site with
  | .vop vd va vb vc =>
    let x := laneBits o w
    some [0x21#6 ++ vd ++ va ++ vb ++ vc ++ 0#10, x.extractLsb' 32 32, x.extractLsb' 0 32]
  | .fire _ _ => none

/-- The words of an ISSUE instruction: the header and the command's fields in bits [103:0] (R25, R32, R285). -/
def encCmd (site : CmdAt) (code : BitVec 8) (tgt : BitVec 4) (h : CmdHdr) (fields : BitVec 104) :
    Option (List (BitVec 32)) :=
  match site with
  | .issue gs0 gs1 gs2 =>
    let x : BitVec 128 := code ++ h.wait ++ BitVec.ofBool h.seten ++ h.setslot ++ tgt ++ fields
    some [0x2D#6 ++ gs0 ++ gs1 ++ gs2 ++ 0#11, x.extractLsb' 96 32, x.extractLsb' 64 32, x.extractLsb' 32 32,
      x.extractLsb' 0 32]
  | .start _ => none

/-- fn of an AMO or CAS (R40). -/
def amoFn (op : BitVec 4) (aq rl : Bool) (s : BitVec 3) (w : Bool) : BitVec 11 :=
  op ++ BitVec.ofBool aq ++ BitVec.ofBool rl ++ s ++ BitVec.ofBool w ++ 0#1

/-- The words of an instruction of the control stream; none for the machine's events. -/
def encode (i : Instr) : Option (List (BitVec 32)) :=
  match i with
  | .add d a b => some [encRR 0x01#6 d a b 0x00#11]
  | .sub d a b => some [encRR 0x01#6 d a b 0x01#11]
  | .and d a b => some [encRR 0x01#6 d a b 0x02#11]
  | .or d a b => some [encRR 0x01#6 d a b 0x03#11]
  | .xor d a b => some [encRR 0x01#6 d a b 0x04#11]
  | .andn d a b => some [encRR 0x01#6 d a b 0x05#11]
  | .sll d a b => some [encRR 0x01#6 d a b 0x06#11]
  | .srl d a b => some [encRR 0x01#6 d a b 0x07#11]
  | .sra d a b => some [encRR 0x01#6 d a b 0x08#11]
  | .mul d a b => some [encRR 0x01#6 d a b 0x09#11]
  | .mulh d a b => some [encRR 0x01#6 d a b 0x0a#11]
  | .mulhn d a b => some [encRR 0x01#6 d a b 0x0b#11]
  | .div d a b => some [encRR 0x01#6 d a b 0x0c#11]
  | .divn d a b => some [encRR 0x01#6 d a b 0x0d#11]
  | .rem d a b => some [encRR 0x01#6 d a b 0x0e#11]
  | .remn d a b => some [encRR 0x01#6 d a b 0x0f#11]
  | .min d a b => some [encRR 0x01#6 d a b 0x10#11]
  | .max d a b => some [encRR 0x01#6 d a b 0x11#11]
  | .minn d a b => some [encRR 0x01#6 d a b 0x12#11]
  | .maxn d a b => some [encRR 0x01#6 d a b 0x13#11]
  | .slt d a b => some [encRR 0x01#6 d a b 0x14#11]
  | .sltn d a b => some [encRR 0x01#6 d a b 0x15#11]
  | .clz d a => some [encRR 0x01#6 d a 0#5 0x16#11]
  | .ctz d a => some [encRR 0x01#6 d a 0#5 0x17#11]
  | .popc d a => some [encRR 0x01#6 d a 0#5 0x18#11]
  | .lea d a b s => some [encRR 0x01#6 d a b (0#3 ++ s ++ 0x19#6)]
  | .addi d a imm => some [encRI 0x02#6 d a imm]
  | .andi d a imm => some [encRI 0x03#6 d a imm]
  | .ori d a imm => some [encRI 0x04#6 d a imm]
  | .xori d a imm => some [encRI 0x05#6 d a imm]
  | .slti d a imm => some [encRI 0x06#6 d a imm]
  | .sltni d a imm => some [encRI 0x07#6 d a imm]
  | .slli d a n => some [encRI 0x08#6 d a (0#2 ++ 0#8 ++ n)]
  | .srli d a n => some [encRI 0x08#6 d a (1#2 ++ 0#8 ++ n)]
  | .srai d a n => some [encRI 0x08#6 d a (2#2 ++ 0#8 ++ n)]
  | .li d imm => some [encJL 0x09#6 d imm]
  | .insh d pos imm => some [encRI 0x0A#6 d (0#3 ++ pos) imm]
  | .pcadd d off => some [encJL 0x0B#6 d off]
  | .ldB d a off => some [encRI 0x0c#6 d a off]
  | .ldBn d a off => some [encRI 0x0d#6 d a off]
  | .ldH d a off => some [encRI 0x0e#6 d a off]
  | .ldHn d a off => some [encRI 0x0f#6 d a off]
  | .ldW d a off => some [encRI 0x10#6 d a off]
  | .ldWn d a off => some [encRI 0x11#6 d a off]
  | .ldD d a off => some [encRI 0x12#6 d a off]
  | .stB d a off => some [encRI 0x13#6 d a off]
  | .stH d a off => some [encRI 0x14#6 d a off]
  | .stW d a off => some [encRI 0x15#6 d a off]
  | .stD d a off => some [encRI 0x16#6 d a off]
  | .beq a b off => some [encRI 0x17#6 a b off]
  | .bne a b off => some [encRI 0x18#6 a b off]
  | .blt a b off => some [encRI 0x19#6 a b off]
  | .bge a b off => some [encRI 0x1a#6 a b off]
  | .bltn a b off => some [encRI 0x1b#6 a b off]
  | .bgen a b off => some [encRI 0x1c#6 a b off]
  | .jal d off => some [encJL 0x1D#6 d off]
  | .jalr d a off => some [encRI 0x1E#6 d a off]
  | .loop a off => some [encRI 0x1F#6 a 0#5 off]
  | .vget d a lane => some [encSY 0x20#6 1#5 d (fv a) (0#8 ++ lane)]
  | .vgetLm d a => some [encSY 0x20#6 1#5 d (fv a) 8#11]
  | .spawn d a b any core => some [encSY 0x22#6 0#5 d a (b ++ 0#3 ++ BitVec.ofBool any ++ core)]
  | .ldf d a s => some [encRR 0x27#6 d a 0#5 (0#2 ++ 0#4 ++ s ++ 0#2)]
  | .ldfe d a s => some [encRR 0x27#6 d a 0#5 (1#2 ++ 0#4 ++ s ++ 0#2)]
  | .stf a b s => some [encRR 0x27#6 0#5 a b (2#2 ++ 0#4 ++ s ++ 0#2)]
  | .amoAdd d a b aq rl s w => some [encRR 0x28#6 d a b (amoFn 0#4 aq rl s w)]
  | .amoAnd d a b aq rl s w => some [encRR 0x28#6 d a b (amoFn 1#4 aq rl s w)]
  | .amoOr d a b aq rl s w => some [encRR 0x28#6 d a b (amoFn 2#4 aq rl s w)]
  | .amoXor d a b aq rl s w => some [encRR 0x28#6 d a b (amoFn 3#4 aq rl s w)]
  | .amoMin d a b aq rl s w => some [encRR 0x28#6 d a b (amoFn 4#4 aq rl s w)]
  | .amoMax d a b aq rl s w => some [encRR 0x28#6 d a b (amoFn 5#4 aq rl s w)]
  | .amoMinn d a b aq rl s w => some [encRR 0x28#6 d a b (amoFn 6#4 aq rl s w)]
  | .amoMaxn d a b aq rl s w => some [encRR 0x28#6 d a b (amoFn 7#4 aq rl s w)]
  | .amoSwap d a b aq rl s w => some [encRR 0x28#6 d a b (amoFn 8#4 aq rl s w)]
  | .amoSadd d a b aq rl s w => some [encRR 0x28#6 d a b (amoFn 9#4 aq rl s w)]
  | .amoFadd d a b aq rl s w => some [encRR 0x28#6 d a b (amoFn 10#4 aq rl s w)]
  | .cas d a b aq rl s w => some [encRR 0x29#6 d a b (amoFn 0#4 aq rl s w)]
  | .vmov d a => some [encSY 0x20#6 0#5 (fv d) (fv a) 0#11]
  | .vld d a off => some [encSY 0x20#6 2#5 (fv d) a off]
  | .vst r a off => some [encSY 0x20#6 3#5 (fv r) a off]
  | .exit => some [encSY 0x22#6 1#5 0#5 0#5 0#11]
  | .yield => some [encSY 0x22#6 2#5 0#5 0#5 0#11]
  | .setpri p => some [encSY 0x22#6 3#5 0#5 0#5 (0#9 ++ p)]
  | .send c r n => some [encSY 0x23#6 0#5 c r (0#9 ++ n)]
  | .recv d ch => some [encSY 0x23#6 1#5 d 0#5 (0#5 ++ ch)]
  | .waitch d m => some [encSY 0x23#6 2#5 d m 0#11]
  | .gjoin a => some [encSY 0x24#6 0#5 0#5 a 0#11]
  | .gleave a => some [encSY 0x24#6 1#5 0#5 a 0#11]
  | .gbar a => some [encSY 0x24#6 2#5 0#5 a 0#11]
  | .launch d a => some [encSY 0x25#6 0#5 d a 0#11]
  | .scopeopen d a => some [encSY 0x26#6 0#5 d a 0#11]
  | .scopeclose a => some [encSY 0x26#6 1#5 0#5 a 0#11]
  | .scopewait a => some [encSY 0x26#6 2#5 0#5 a 0#11]
  | .scopeqry d a => some [encSY 0x26#6 3#5 d a 0#11]
  | .lock a scope => some [encSY 0x2a#6 0#5 0#5 a (0#8 ++ scope)]
  | .unlock a scope => some [encSY 0x2a#6 1#5 0#5 a (0#8 ++ scope)]
  | .fence scope => some [encSY 0x2b#6 0#5 0#5 0#5 (0#8 ++ scope)]
  | .gld v x r level => some [encSY 0x2c#6 0#5 (fv v) x (r ++ 0#2 ++ level)]
  | .gscat v x r level => some [encSY 0x2c#6 1#5 (fv v) x (r ++ 0#2 ++ level)]
  | .semacq n sem => some [encSY 0x2e#6 0#5 0#5 n (0#5 ++ sem)]
  | .semrel n sem => some [encSY 0x2e#6 1#5 0#5 n (0#5 ++ sem)]
  | .semtry d n sem => some [encSY 0x2e#6 2#5 d n (0#5 ++ sem)]
  | .semset n sem => some [encSY 0x2e#6 3#5 0#5 n (0#5 ++ sem)]
  | .semget d sem => some [encSY 0x2e#6 4#5 d 0#5 (0#5 ++ sem)]
  | .hset h a b => some [encSY 0x2f#6 0#5 (fv h) a (b ++ 0#6)]
  | .cbwf h n => some [encSY 0x2f#6 1#5 (fv h) 0#5 n]
  | .cbwe h n => some [encSY 0x2f#6 2#5 (fv h) 0#5 n]
  | .cbap h n => some [encSY 0x2f#6 3#5 (fv h) 0#5 n]
  | .cbac h n => some [encSY 0x2f#6 4#5 (fv h) 0#5 n]
  | .dswait mask => some [encSY 0x30#6 0#5 0#5 0#5 (0#3 ++ mask)]
  | .sysr d r => some [encSY 0x31#6 0#5 d 0#5 r]
  | .sysw a r => some [encSY 0x31#6 1#5 0#5 a r]
  | .trap imm => some [encSY 0x31#6 2#5 0#5 0#5 imm]
  | .eret => some [encSY 0x31#6 3#5 0#5 0#5 0#11]
  | .brk => some [encSY 0x31#6 4#5 0#5 0#5 0#11]
  | .halt => some [encSY 0x31#6 5#5 0#5 0#5 0#11]
  | .tladj a => some [encSY 0x31#6 6#5 0#5 a 0#11]
  | .ctxsave a ctx => some [encSY 0x32#6 0#5 0#5 a (0#8 ++ ctx)]
  | .ctxload a ctx => some [encSY 0x32#6 1#5 0#5 a (0#8 ++ ctx)]
  | .wstepStep d a => some [encSY 0x32#6 2#5 d a 0#11]
  | .wstepResume d a => some [encSY 0x32#6 2#5 d a 0#11]
  | .wstepMasked d a => some [encSY 0x32#6 2#5 d a 0#11]
  | .wstepEnd d a => some [encSY 0x32#6 2#5 d a 0#11]
  | .fadd site w => encLane .fadd site w
  | .fsub site w => encLane .fsub site w
  | .fmul site w => encLane .fmul site w
  | .fma site w => encLane .fma site w
  | .fnma site w => encLane .fnma site w
  | .fmin site w => encLane .fmin site w
  | .fmax site w => encLane .fmax site w
  | .fneg site w => encLane .fneg site w
  | .fabs site w => encLane .fabs site w
  | .fdiv site w => encLane .fdiv site w
  | .fsqrt site w => encLane .fsqrt site w
  | .frcp site w => encLane .frcp site w
  | .frsq site w => encLane .frsq site w
  | .fexp2 site w => encLane .fexp2 site w
  | .flog2 site w => encLane .flog2 site w
  | .ftanh site w => encLane .ftanh site w
  | .fsig site w => encLane .fsig site w
  | .dadd site w => encLane .dadd site w
  | .dsub site w => encLane .dsub site w
  | .dmul site w => encLane .dmul site w
  | .dfma site w => encLane .dfma site w
  | .dmin site w => encLane .dmin site w
  | .dmax site w => encLane .dmax site w
  | .ddiv site w => encLane .ddiv site w
  | .dsqrt site w => encLane .dsqrt site w
  | .fcmp site w => encLane .fcmp site w
  | .icmp site w => encLane .icmp site w
  | .sel site w => encLane .sel site w
  | .iadd site w => encLane .iadd site w
  | .isub site w => encLane .isub site w
  | .imul site w => encLane .imul site w
  | .imulh site w => encLane .imulh site w
  | .imad site w => encLane .imad site w
  | .iand site w => encLane .iand site w
  | .ior site w => encLane .ior site w
  | .ixor site w => encLane .ixor site w
  | .ishl site w => encLane .ishl site w
  | .ishr site w => encLane .ishr site w
  | .isar site w => encLane .isar site w
  | .imin site w => encLane .imin site w
  | .imax site w => encLane .imax site w
  | .iminn site w => encLane .iminn site w
  | .imaxn site w => encLane .imaxn site w
  | .isadd site w => encLane .isadd site w
  | .iabs site w => encLane .iabs site w
  | .lsum site w => encLane .lsum site w
  | .lmax site w => encLane .lmax site w
  | .lperm site w => encLane .lperm site w
  | .lbcast site w => encLane .lbcast site w
  | .lshift site w => encLane .lshift site w
  | .lins site w => encLane .lins site w
  | .lext site w => encLane .lext site w
  | .accf site w => encLane .accf site w
  | .accd site w => encLane .accd site w
  | .acci site w => encLane .acci site w
  | .accs site w => encLane .accs site w
  | .cvtin site w => encLane .cvtin site w
  | .cvtout site w => encLane .cvtout site w
  | .cvtfi site w => encLane .cvtfi site w
  | .cvtif site w => encLane .cvtif site w
  | .cvtfd site w => encLane .cvtfd site w
  | .cvtdf site w => encLane .cvtdf site w
  | .pass site w => encLane .pass site w
  | .zip site w => encLane .zip site w
  | .unzip site w => encLane .unzip site w
  | .cnt site w => encLane .cnt site w
  | .kmerge site w => encLane .kmerge site w
  | .lut site w => encLane .lut site w
  | .madd site w => encLane .madd site w
  | .msadd site w => encLane .msadd site w
  | .mfadd site w => encLane .mfadd site w
  | .mmin site w => encLane .mmin site w
  | .mmax site w => encLane .mmax site w
  | .mswap site w => encLane .mswap site w
  | .panq site w => encLane .panq site w
  | .patset site h raddr sel value => encCmd site 0x01#8 0#4 h (raddr ++ sel ++ 0#3 ++ value)
  | .bindld site h lid wp paddr => encCmd site 0x02#8 1#4 h (lid ++ wp ++ 0#14 ++ paddr ++ 0#6)
  | .bindst site h lid wp paddr => encCmd site 0x03#8 1#4 h (lid ++ wp ++ 0#14 ++ paddr ++ 0#6)
  | .gather site h xaddr => encCmd site 0x04#8 0#4 h (xaddr ++ 0#58)
  | .scatter site h xaddr => encCmd site 0x05#8 0#4 h (xaddr ++ 0#58)
  | .copy site h xaddr => encCmd site 0x06#8 0#4 h (xaddr ++ 0#58)
  | .rcopy site h xaddr => encCmd site 0x07#8 0#4 h (xaddr ++ 0#58)
  | .barrier site h isl mej tmask => encCmd site 0x08#8 2#4 h (isl ++ mej ++ tmask ++ 0#73)
  | .tiledef site h isl mej tile base size => encCmd site 0x09#8 2#4 h (isl ++ mej ++ tile ++ base ++ size ++ 0#62)
  | .tileset site h isl mej tile st => encCmd site 0x0a#8 2#4 h (isl ++ mej ++ tile ++ st ++ 0#83)
  | .signal site h dev rem core sem n => encCmd site 0x0b#8 0#4 h (dev ++ BitVec.ofBool rem ++ core ++ sem ++ n ++ 0#47)
  | .cfgload site h lid iaddr => encCmd site 0x0c#8 3#4 h (lid ++ iaddr ++ 0#26)
  | .cfgsw site h lid t => encCmd site 0x0d#8 3#4 h (lid ++ t ++ 0#8)
  | .mark site h lid => encCmd site 0x0e#8 3#4 h (lid ++ 0#72)
  | .probe site h lid x y vd => encCmd site 0x0f#8 3#4 h (lid ++ x ++ y ++ vd ++ 0#56)
  | .fetchw site h xaddr pan => encCmd site 0x10#8 0#4 h (xaddr ++ pan ++ 0#46)
  | .unbind site h lid wp => encCmd site 0x11#8 1#4 h (lid ++ wp ++ 0#66)
  | .griddef site h daddr saddr zero => encCmd site 0x12#8 0#4 h (daddr ++ saddr ++ BitVec.ofBool zero ++ 0#13)
  | .pandef site h pan daddr => encCmd site 0x20#8 4#4 h (pan ++ daddr ++ 0#47)
  | .pandrain site h pan => encCmd site 0x22#8 4#4 h (pan ++ 0#92)
  | .panctlSetf site h pan value => encCmd site 0x21#8 4#4 h (pan ++ 0#4 ++ value ++ 0#56)
  | .panctlSeta site h pan value => encCmd site 0x21#8 4#4 h (pan ++ 1#4 ++ value ++ 0#56)
  | .panctlSetpri site h pan value => encCmd site 0x21#8 4#4 h (pan ++ 2#4 ++ value ++ 0#56)
  | .panctlSetfb site h pan value => encCmd site 0x21#8 4#4 h (pan ++ 3#4 ++ value ++ 0#56)
  | .panctlResume site h pan value => encCmd site 0x21#8 4#4 h (pan ++ 4#4 ++ value ++ 0#56)
  | .panctlClear site h pan value => encCmd site 0x21#8 4#4 h (pan ++ 5#4 ++ value ++ 0#56)
  | .panctlWindow site h pan value => encCmd site 0x21#8 4#4 h (pan ++ 6#4 ++ value ++ 0#56)
  | .panctlEvict site h pan value => encCmd site 0x21#8 4#4 h (pan ++ 7#4 ++ value ++ 0#56)
  | .panctlFree site h pan value => encCmd site 0x21#8 4#4 h (pan ++ 8#4 ++ value ++ 0#56)
  | .instructionFetch _ => none
  | .contextBoost _ => none
  | .asyncTrapEntry _ => none
  | .messageDelivery _ => none
  | .ldfRetry _ => none
  | .lockWake _ _ => none
  | .tokenHop _ _ _ _ => none
  | .fanoutTake _ _ => none
  | .steer _ _ => none
  | .filter _ _ => none
  | .merge _ _ => none
  | .umerge _ _ => none
  | .carry _ _ => none
  | .cutOnlyWordTake _ _ _ => none
  | .reorderStoreWrite _ _ => none
  | .reorderStoreRead _ _ => none
  | .controllerGo _ _ => none
  | .controllerDone _ _ => none
  | .configurationStep _ => none
  | .cfgswTimeReached _ => none
  | .switchMarkerTake _ _ => none
  | .agStreamRead _ _ => none
  | .agStreamDeliver _ _ => none
  | .agStreamWrite _ _ => none
  | .agStreamAccessAnswer _ _ => none
  | .gridLookupQuery _ _ => none
  | .gridScatterQuery _ _ => none
  | .pageWalk _ => none
  | .remoteAccessPerform _ => none
  | .accessAnswer _ => none
  | .windowCommit _ => none
  | .rollback _ => none
  | .residencyPlace _ _ _ => none
  | .mdPlacementPass => none
  | .reservationTimeout => none
  | .residencyFinish _ => none
  | .preemptSave _ => none
  | .commandComplete _ => none
  | .panEntryArrival _ => none
  | .panAgeLimit _ => none
  | .panFire _ => none
  | .batchBufferWritten _ _ => none
  | .panRefill _ => none
  | .weightFetchComplete _ => none
  | .apertureMadd _ _ => none
  | .apertureMsaddI _ _ => none
  | .apertureMsaddN _ _ => none
  | .apertureMminI _ _ => none
  | .apertureMmaxI _ _ => none
  | .apertureMminN _ _ => none
  | .apertureMmaxN _ _ => none
  | .apertureMswap _ _ => none
  | .ringMessageArrival _ _ => none
  | .ringNoticeDelivery _ => none
  | .ringOverflowTimeout _ => none
  | .columnRepair _ _ => none
  | .mdFailover => none
  | .soundPortLaneLoss _ => none
  | .flitRd _ _ => none
  | .flitWr _ _ => none
  | .flitAmo _ _ => none
  | .flitCas _ _ => none
  | .flitResp _ _ => none
  | .flitAck _ _ => none
  | .flitSignal _ _ => none
  | .flitPanq _ _ => none
  | .flitPnack _ _ => none
  | .flitPresume _ _ => none
  | .requestTimeout _ => none
  | .hostAccess _ => none
  | .mailboxWrite _ => none
  | .hnote _ => none
  | .packageReset => none
  | .bootgo _ => none
  | .bootCheckDone => none
  | .functionReady _ => none
  | .ccmdStart _ _ => none
  | .ccmdRelease _ _ => none
  | .ccmdStop _ _ => none
  | .qgo => none
  | .qdataRead => none
  | .istopReq _ => none
  | .istopCont _ => none
  | .debugStop _ _ => none
  | .koroFilterRun _ => none
  | .swrec _ _ => none
  | .flenWrite _ _ => none
  | .statsClear _ _ _ => none
  | .throttleStep => none
  | .thermalEvent _ _ => none
  | .registerWrite _ _ _ => none
  | .softError _ => none
  | .flitCrcFailure _ => none
  | .flitReservedOp _ _ => none
  | .corePowerGated _ => none
  | .corePoweredUp _ => none
  | .spareCopyDone _ => none

end Sys2Proof
end

