-- ==== Sys2Proof/Machine/Map.lean ====
section
/-! DEFINITION. Sparse tables keyed by Nat, kept as lists sorted by key with no key twice. -/

namespace Sys2Proof

/-- A table that lists only the keys set so far, in rising order. -/
abbrev Map (α : Type) := List (Nat × α)

namespace Map

/-- The value listed at `k`, if any. -/
def find? {α : Type} : Map α → Nat → Option α
  | [], _ => none
  | (j, v) :: m, k => if k = j then some v else find? m k

/-- The value at `k`, or `d` where `k` is not listed. -/
def getD {α : Type} (m : Map α) (k : Nat) (d : α) : α := (m.find? k).getD d

/-- `m` with `v` at `k`. -/
def put {α : Type} : Map α → Nat → α → Map α
  | [], k, v => [(k, v)]
  | (j, w) :: m, k, v =>
    if k < j then (k, v) :: (j, w) :: m
    else if k = j then (k, v) :: m
    else (j, w) :: put m k v

/-- `m` with nothing listed at `k`. -/
def drop {α : Type} (m : Map α) (k : Nat) : Map α := m.filter (fun p => p.1 != k)

/-- The listed keys. -/
def keys {α : Type} (m : Map α) : List Nat := m.map (·.1)

/-- `m` with `f` applied to the value listed at `k`; unchanged where `k` is not listed. -/
def adjust {α : Type} (m : Map α) (k : Nat) (f : α → α) : Map α :=
  match m.find? k with
  | some v => m.put k (f v)
  | none => m

end Map

/-- The lowest number from `lo` on, below `lo + n`, for which `p` holds. -/
def firstFrom (p : Nat → Bool) (lo : Nat) : Nat → Option Nat
  | 0 => none
  | n + 1 => if p lo then some lo else firstFrom p (lo + 1) n

/-- `l` with `f` applied at position `i`. -/
def modifyAt {α : Type} (l : List α) (i : Nat) (f : α → α) : List α :=
  match l, i with
  | [], _ => []
  | x :: xs, 0 => f x :: xs
  | x :: xs, i + 1 => x :: modifyAt xs i f

end Sys2Proof
end

