-- ==== Sys2Proof/Machine/Num.lean ====
section
/-! DEFINITION. Numbers and rounding (R75 to R93): formats, exact values, round_to, overflow, NaNs, the floating
operations on exact values, and the conversions. -/

namespace Sys2Proof.Num

/-- Rounding modes of R17. -/
inductive RMode where
  | rne | rtz | rup | rdn | rna
  deriving DecidableEq, Repr

/-- The mode of code `n`; codes 0 to 4 are assigned (R17). -/
def RMode.ofCode (n : Nat) : RMode :=
  match n with
  | 1 => .rtz
  | 2 => .rup
  | 3 => .rdn
  | 4 => .rna
  | _ => .rne

def nv : Flags := 16#5
def dz : Flags := 8#5
def ov : Flags := 4#5
def uf : Flags := 2#5
def nx : Flags := 1#5

/-- A destination of round_to: `p` significand bits, the exponents of the lowest normal and of the top binade,
the largest significand in the top binade, and whether overflow always gives the largest finite value (R82). -/
structure Fmt where
  p    : Nat
  emin : Int
  emax : Int
  maxI : Nat
  sat  : Bool

def ff36 : Fmt := { p := 24, emin := -1022, emax := 1023, maxI := 2 ^ 24 - 1, sat := false }
def fd72 : Fmt := { p := 58, emin := -4094, emax := 4095, maxI := 2 ^ 58 - 1, sat := false }
def f64  : Fmt := { p := 53, emin := -1022, emax := 1023, maxI := 2 ^ 53 - 1, sat := false }
def f32  : Fmt := { p := 24, emin := -126, emax := 127, maxI := 2 ^ 24 - 1, sat := false }
def f16  : Fmt := { p := 11, emin := -14, emax := 15, maxI := 2 ^ 11 - 1, sat := false }
def bf16 : Fmt := { p := 8, emin := -126, emax := 127, maxI := 2 ^ 8 - 1, sat := false }
def f8e4 : Fmt := { p := 4, emin := -6, emax := 8, maxI := 14, sat := true }
def f8e5 : Fmt := { p := 3, emin := -14, emax := 15, maxI := 7, sat := false }
def f4e2 : Fmt := { p := 2, emin := 0, emax := 2, maxI := 3, sat := true }

/-- A floating operand or result: `fin s m e` is (-1)^s * m * 2^e with m > 0; a NaN carries its fraction, scaled to 57
bits whose top bit is the quiet bit (R77, R78, R83). -/
inductive FV where
  | zero (s : Bool)
  | fin  (s : Bool) (m : Nat) (e : Int)
  | inf  (s : Bool)
  | nan  (s : Bool) (frac : Nat)
  deriving DecidableEq, Repr

/-- The quiet bit of a 57-bit fraction. -/
def quietBit : Nat := 2 ^ 56

def FV.sign : FV → Bool
  | .zero s => s
  | .fin s _ _ => s
  | .inf s => s
  | .nan s _ => s

def FV.isNaN : FV → Bool
  | .nan _ _ => true
  | _ => false

def FV.isSignalling : FV → Bool
  | .nan _ f => f / quietBit % 2 = 0
  | _ => false

/-- The canonical NaN of R80. -/
def FV.canon : FV := .nan false quietBit

def FV.quiet : FV → FV
  | .nan s f => .nan s (if f / quietBit % 2 = 0 then f + quietBit else f)
  | x => x

/-- A magnitude with its exponent, zero where m = 0. -/
def FV.mk (s : Bool) (m : Nat) (e : Int) : FV := if m = 0 then .zero s else .fin s m e

def FV.neg : FV → FV
  | .zero s => .zero (!s)
  | .fin s m e => .fin (!s) m e
  | .inf s => .inf (!s)
  | .nan s f => .nan (!s) f

/-- Whether the magnitude i + d, of sign s, rounds up: `half` compares d with 1/2, `rest` says d > 0 (R81). -/
def roundsUp (rm : RMode) (s : Bool) (i : Nat) (half : Ordering) (rest : Bool) : Bool :=
  match rm with
  | .rne => half == .gt || (half == .eq && i % 2 == 1)
  | .rna => half != .lt
  | .rtz => false
  | .rup => rest && !s
  | .rdn => rest && s

/-- The kept integer part, the exponent of its unit and the discarded part of m * 2^e, where `st` says that the exact
value lies strictly between m * 2^e and (m + 1) * 2^e. -/
def cutAt (f : Fmt) (m : Nat) (e : Int) : Nat × Int × Nat × Nat :=
  let top : Int := Nat.log2 m + e
  let u : Int := (if top < f.emin then f.emin else top) - f.p + 1
  if e < u then
    let sh := (u - e).toNat
    (m >>> sh, u, m % 2 ^ sh, sh)
  else (m <<< (e - u).toNat, u, 0, 0)

/-- overflow(fmt, s, rm) of R82. -/
def overflow (f : Fmt) (s : Bool) (rm : RMode) : FV × Flags :=
  let big : FV := .fin s f.maxI (f.emax - f.p + 1)
  let r : FV :=
    if f.sat then big
    else match rm with
      | .rne | .rna => .inf s
      | .rtz => big
      | .rup => if s then big else .inf s
      | .rdn => if s then .inf s else big
  (r, ov ||| nx)

/-- The result whose magnitude is i * 2^u after rounding, checked against the largest finite value, with NX where it is
inexact and UF where the exact value was below the normal range (R81). -/
def finish (f : Fmt) (s : Bool) (rm : RMode) (i : Nat) (u : Int) (inexact tiny : Bool) : FV × Flags :=
  let topU : Int := f.emax - f.p + 1
  if u > topU ∨ (u = topU ∧ i > f.maxI) then overflow f s rm
  else (FV.mk s i u, (if inexact then nx else 0#5) ||| (if inexact && tiny then uf else 0#5))

/-- round_to(fmt, x, rm) for x = (-1)^s * m * 2^e, m > 0, with `st` as in cutAt (R81). A caller that sets `st` gives m
more significant bits than the format keeps. -/
def roundTo (f : Fmt) (rm : RMode) (s : Bool) (m : Nat) (e : Int) (st : Bool) : FV × Flags :=
  let (i, u, d, sh) := cutAt f m e
  let inexact := d != 0 || st
  let half : Ordering :=
    if sh = 0 then .lt
    else if d < 2 ^ (sh - 1) then .lt
    else if d > 2 ^ (sh - 1) || st then .gt
    else .eq
  let up := roundsUp rm s i half inexact
  finish f s rm (if up then i + 1 else i) u inexact (decide ((Nat.log2 m : Int) + e < f.emin))

/-- An FV rounded into a format; zeros, infinities and NaNs pass. -/
def roundFV (f : Fmt) (rm : RMode) : FV → FV × Flags
  | .fin s m e => roundTo f rm s m e false
  | x => (x, 0#5)

/-- Stochastic rounding with k random bits r (R89); an overflow takes the RNE column of R82. -/
def roundSR (f : Fmt) (k : Nat) (r : Nat) : FV → FV × Flags
  | .fin s m e =>
    let (i, u, d, n) := cutAt f m e
    let up := if k ≥ n then d + r / 2 ^ (k - n) ≥ 2 ^ n else d / 2 ^ (n - k) + r ≥ 2 ^ k
    finish f s .rne (if up && d != 0 then i + 1 else i) u (d != 0) (decide ((Nat.log2 m : Int) + e < f.emin))
  | x => (x, 0#5)

/-! ### NaNs (R83) -/

/-- The flag of signalling operands. -/
def snan (xs : List FV) : Flags := if xs.any FV.isSignalling then nv else 0#5

/-- The NaN that a NaN operand gives, in operand order, if any operand is one. -/
def nanResult (xs : List FV) : Option (FV × Flags) :=
  (xs.find? FV.isNaN).map (fun x => (x.quiet, snan xs))

/-- A NaN that the operation creates. -/
def created : FV × Flags := (FV.canon, nv)

/-! ### Exact sums, products and quotients, rounded once -/

/-- A signed integer scaled by 2^e as a value; `z` is the sign of an exact zero. -/
def ofInt (z : Bool) (n : Int) (e : Int) : FV :=
  if n = 0 then .zero z else .fin (decide (n < 0)) n.natAbs e

def toIntAt (e0 : Int) : FV → Int
  | .fin s m e => let v : Int := (m <<< (e - e0).toNat : Nat); if s then -v else v
  | _ => 0

/-- a + b of two values that are not NaN, exact, with the zero sign of R84; none where infinities cancel. -/
def exactAdd (rm : RMode) (a b : FV) : Option FV :=
  match a, b with
  | .inf s, .inf t => if s = t then some (.inf s) else none
  | .inf s, _ => some (.inf s)
  | _, .inf t => some (.inf t)
  | .zero s, .zero t => some (.zero (if s = t then s else rm == .rdn))
  | .zero _, y => some y
  | x, .zero _ => some x
  | .fin s m e, .fin t n d =>
    let e0 := if e < d then e else d
    some (ofInt (rm == .rdn) (toIntAt e0 (.fin s m e) + toIntAt e0 (.fin t n d)) e0)
  | .nan _ _, _ => none
  | _, .nan _ _ => none

/-- a * b of two values that are not NaN, exact; none for 0 * infinity. -/
def exactMul (a b : FV) : Option FV :=
  let s := a.sign != b.sign
  match a, b with
  | .zero _, .inf _ => none
  | .inf _, .zero _ => none
  | .inf _, _ => some (.inf s)
  | _, .inf _ => some (.inf s)
  | .zero _, _ => some (.zero s)
  | _, .zero _ => some (.zero s)
  | .fin _ m e, .fin _ n d => some (.fin s (m * n) (e + d))
  | .nan _ _, _ => none
  | _, .nan _ _ => none

def addR (f : Fmt) (rm : RMode) (a b : FV) : FV × Flags :=
  match nanResult [a, b] with
  | some r => r
  | none =>
    match exactAdd rm a b with
    | some x => roundFV f rm x
    | none => created

def subR (f : Fmt) (rm : RMode) (a b : FV) : FV × Flags :=
  match nanResult [a, b] with
  | some r => r
  | none => addR f rm a b.neg

def mulR (f : Fmt) (rm : RMode) (a b : FV) : FV × Flags :=
  match nanResult [a, b] with
  | some r => r
  | none =>
    match exactMul a b with
    | some x => roundFV f rm x
    | none => created

/-- Whether a * b is 0 * infinity. -/
def zeroTimesInf (a b : FV) : Bool :=
  match a, b with
  | .zero _, .inf _ => true
  | .inf _, .zero _ => true
  | _, _ => false

/-- A * B + C, or -(A * B) + C, rounded once (R105). -/
def fmaR (f : Fmt) (rm : RMode) (negate : Bool) (a b c : FV) : FV × Flags :=
  match nanResult [a, b, c] with
  | some (r, fl) => (r, if zeroTimesInf a b then fl ||| nv else fl)
  | none =>
    match exactMul a b with
    | none => created
    | some x =>
      match exactAdd rm (if negate then x.neg else x) c with
      | some y => roundFV f rm y
      | none => created

def divR (f : Fmt) (rm : RMode) (a b : FV) : FV × Flags :=
  match nanResult [a, b] with
  | some r => r
  | none =>
    let s := a.sign != b.sign
    match a, b with
    | .zero _, .zero _ => created
    | .inf _, .inf _ => created
    | .inf _, _ => (.inf s, 0#5)
    | _, .inf _ => (.zero s, 0#5)
    | .zero _, _ => (.zero s, 0#5)
    | _, .zero _ => (.inf s, dz)
    | .fin _ m e, .fin _ n d =>
      let k := f.p + 4 + Nat.log2 n - Nat.log2 m
      roundTo f rm s ((m <<< k) / n) (e - d - k) ((m <<< k) % n != 0)
    | _, _ => created

/-- The integer square root, one bit for each unit of `fuel`. -/
def isqrtAux (n : Nat) : Nat → Nat → Nat
  | 0, r => r
  | fuel + 1, r =>
    let t := r + 2 ^ fuel
    isqrtAux n fuel (if t * t ≤ n then t else r)

def isqrt (n : Nat) : Nat := isqrtAux n (Nat.log2 n / 2 + 1) 0

/-- m * 2^e with e even, the value unchanged. -/
def evenExp (m : Nat) (e : Int) : Nat × Int := if e % 2 = 0 then (m, e) else (2 * m, e - 1)

def sqrtR (f : Fmt) (rm : RMode) (a : FV) : FV × Flags :=
  match a with
  | .nan _ _ => (a.quiet, snan [a])
  | .zero s => (.zero s, 0#5)
  | .inf s => if s then created else (.inf false, 0#5)
  | .fin s m e =>
    if s then created
    else
      let (m, e) := evenExp m e
      let k := f.p + 4
      let n := m <<< (2 * k)
      let r := isqrt n
      roundTo f rm false r (e / 2 - k) (r * r != n)

def rsqrtR (f : Fmt) (rm : RMode) (a : FV) : FV × Flags :=
  match a with
  | .nan _ _ => (a.quiet, snan [a])
  | .zero s => (.inf s, dz)
  | .inf s => if s then created else (.zero false, 0#5)
  | .fin s m e =>
    if s then created
    else
      let (m, e) := evenExp m e
      let k := f.p + 4 + Nat.log2 m
      let r := isqrt (2 ^ (2 * k) / m)
      roundTo f rm false r (-(e / 2) - k) (r * r * m != 2 ^ (2 * k))

/-- 1 / A (R107). -/
def rcpR (f : Fmt) (rm : RMode) (a : FV) : FV × Flags := divR f rm (.fin false 1 0) a

/-! ### Order of values -/

/-- a < b for values that are not NaN, with -0 below +0 only where `zeros` holds. -/
def lt (zeros : Bool) (a b : FV) : Bool :=
  match a, b with
  | .zero s, .zero t => zeros && s && !t
  | .inf s, .inf t => s && !t
  | .inf s, _ => s
  | _, .inf t => !t
  | _, _ =>
    let ea := match a with | .fin _ _ e => e | _ => 0
    let eb := match b with | .fin _ _ e => e | _ => 0
    let e0 := if ea < eb then ea else eb
    decide (toIntAt e0 a < toIntAt e0 b)

/-- FMIN and FMAX (R106). -/
def minMaxR (isMax : Bool) (a b : FV) : FV × Flags :=
  if a.isNaN && b.isNaN then (a.quiet, snan [a, b])
  else if a.isNaN then (b, snan [a, b])
  else if b.isNaN then (a, snan [a, b])
  else if isMax then (if lt true a b then b else a, 0#5)
  else (if lt true b a then b else a, 0#5)

/-- FCMP (R109): the condition of code `c` and NV. -/
def fcmp (c : Nat) (a b : FV) : Bool × Flags :=
  let un := a.isNaN || b.isNaN
  let lt' := !un && lt false a b
  let gt' := !un && lt false b a
  let eq' := !un && !lt' && !gt'
  let r := match c with
    | 0 => eq'
    | 1 => !eq'
    | 2 => lt'
    | 3 => lt' || eq'
    | 4 => gt'
    | 5 => gt' || eq'
    | 6 => un
    | _ => !un
  (r, if un && decide (2 ≤ c ∧ c ≤ 5) then nv else snan [a, b])

/-! ### Encodings -/

/-- A 57-bit fraction from a field of w bits placed at the top. -/
def fracIn (w : Nat) (f : Nat) : Nat := f <<< (57 - w)

/-- The top w bits of a 57-bit fraction. -/
def fracOut (w : Nat) (f : Nat) : Nat := f >>> (57 - w)

/-- A lane format with an explicit integer bit (R77, R78): `w` fraction bits, `ew` exponent bits. -/
def unpackLane (w ew : Nat) (bias : Int) (n : Nat) : FV :=
  let sig := n % 2 ^ (w + 1)
  let ex := n / 2 ^ (w + 1) % 2 ^ ew
  let s := n / 2 ^ (w + 1 + ew) % 2 = 1
  if ex = 2 ^ ew - 1 then
    if sig % 2 ^ w = 0 then .inf s else .nan s (fracIn w (sig % 2 ^ w))
  else FV.mk s sig ((if ex = 0 then 1 else (ex : Int)) - bias - w)

/-- The normalized encoding of a value that the format holds exactly (R80). -/
def packLane (w ew : Nat) (bias : Int) (x : FV) : Nat :=
  let sgn := if x.sign then 2 ^ (w + 1 + ew) else 0
  let top := (2 ^ ew - 1) <<< (w + 1)
  match x with
  | .zero _ => sgn
  | .inf _ => sgn + top + 2 ^ w
  | .nan _ f => sgn + top + 2 ^ w + fracOut w f
  | .fin _ m e =>
    -- the place of the value's top bit decides between a normal and a subnormal encoding
    let t : Int := Nat.log2 m + e
    let ex : Int := t + bias
    if ex < 1 then
      let sh : Int := e - (1 - bias - w)
      sgn + (if sh < 0 then m >>> (-sh).toNat else m <<< sh.toNat)
    else
      let sh : Int := e - (t - w)
      sgn + (ex.toNat <<< (w + 1)) + (if sh < 0 then m >>> (-sh).toNat else m <<< sh.toNat)

def unpackFF (l : Lane) : FV := unpackLane 23 11 1023 l.toNat
def packFF (x : FV) : Lane := BitVec.ofNat 36 (packLane 23 11 1023 x)
def unpackFD (n : BitVec 72) : FV := unpackLane 57 13 4095 n.toNat
def packFD (x : FV) : BitVec 72 := BitVec.ofNat 72 (packLane 57 13 4095 x)

/-- A storage format of R75 without F8E4 and F4E2: `w` fraction bits and `ew` exponent bits. -/
def unpackIeee (w ew : Nat) (bias : Int) (n : Nat) : FV :=
  let fr := n % 2 ^ w
  let ex := n / 2 ^ w % 2 ^ ew
  let s := n / 2 ^ (w + ew) % 2 = 1
  if ex = 2 ^ ew - 1 then
    if fr = 0 then .inf s else .nan s (fracIn w fr)
  else if ex = 0 then FV.mk s fr (1 - bias - w)
  else .fin s (2 ^ w + fr) ((ex : Int) - bias - w)

def packIeee (w ew : Nat) (bias : Int) (x : FV) : Nat :=
  let sgn := if x.sign then 2 ^ (w + ew) else 0
  let top := (2 ^ ew - 1) <<< w
  match x with
  | .zero _ => sgn
  | .inf _ => sgn + top
  | .nan _ f => sgn + top + fracOut w f
  | .fin _ m e =>
    let t : Int := Nat.log2 m + e
    let ex : Int := t + bias
    if ex < 1 then
      let sh : Int := e - (1 - bias - w)
      sgn + (if sh < 0 then m >>> (-sh).toNat else m <<< sh.toNat)
    else
      let sh : Int := e - (t - w)
      sgn + (ex.toNat <<< w) + (if sh < 0 then m >>> (-sh).toNat else m <<< sh.toNat) % 2 ^ w

/-- The floating storage formats (R75). -/
inductive SFloat where
  | f64 | f32 | f16 | bf16 | f8e4 | f8e5 | f4e2
  deriving DecidableEq, Repr

def SFloat.fmt : SFloat → Fmt
  | .f64 => Num.f64
  | .f32 => Num.f32
  | .f16 => Num.f16
  | .bf16 => Num.bf16
  | .f8e4 => Num.f8e4
  | .f8e5 => Num.f8e5
  | .f4e2 => Num.f4e2

/-- The exact value of a storage pattern (R75, R88 inward: F8E4's NaN is quiet with payload 0). -/
def SFloat.unpack (t : SFloat) (n : Nat) : FV :=
  match t with
  | .f64 => unpackIeee 52 11 1023 n
  | .f32 => unpackIeee 23 8 127 n
  | .f16 => unpackIeee 10 5 15 n
  | .bf16 => unpackIeee 7 8 127 n
  | .f8e5 => unpackIeee 2 5 15 n
  | .f8e4 =>
    let s := n / 128 % 2 = 1
    let ex := n / 8 % 16
    let fr := n % 8
    if ex = 15 ∧ fr = 7 then .nan s quietBit
    else if ex = 0 then FV.mk s fr (-9) else .fin s (8 + fr) ((ex : Int) - 10)
  | .f4e2 =>
    let s := n / 8 % 2 = 1
    let ex := n / 2 % 4
    let fr := n % 2
    if ex = 0 then FV.mk s fr (-1) else .fin s (2 + fr) ((ex : Int) - 2)

/-- The pattern of a rounded value, with the specials of R88: an infinity has no F8E4 or F4E2 form, a NaN no F4E2 form. -/
def SFloat.pack (t : SFloat) (x : FV) : Nat × Flags :=
  let x := x.quiet
  match t with
  | .f64 => (packIeee 52 11 1023 x, 0#5)
  | .f32 => (packIeee 23 8 127 x, 0#5)
  | .f16 => (packIeee 10 5 15 x, 0#5)
  | .bf16 => (packIeee 7 8 127 x, 0#5)
  | .f8e5 => (packIeee 2 5 15 x, 0#5)
  | .f8e4 =>
    match x with
    | .nan s _ => ((if s then 128 else 0) + 127, 0#5)
    | .inf s => ((if s then 128 else 0) + 127, nv)
    | x => (packIeee 3 4 7 x, 0#5)
  | .f4e2 =>
    match x with
    | .nan _ _ => (0, nv)
    | .inf s => ((if s then 8 else 0) + 7, nv)
    | x => (packIeee 1 2 1 x, 0#5)

/-- The value scaled by 2^k, exact. -/
def FV.scale (k : Int) : FV → FV
  | .fin s m e => .fin s m (e + k)
  | x => x

/-- Inward conversion under a block scale E8 (R87, R88): exact. -/
def convIn (t : SFloat) (e8 : Nat) (n : Nat) : FV × Flags :=
  if e8 = 255 then created
  else
    let x := t.unpack n
    ((x.quiet).scale ((e8 : Int) - 127), snan [x])

/-- How an outward conversion rounds: in a mode, or by k random bits. -/
inductive OutRound where
  | mode (rm : RMode)
  | sr (k r : Nat)

/-- Outward conversion of a value to storage under a block scale (R86 to R89). -/
def convOut (t : SFloat) (e8 : Nat) (how : OutRound) (x : FV) : Nat × Flags :=
  if e8 = 255 then
    let (n, fl) := t.pack FV.canon
    (n, fl ||| nv)
  else
    let y := x.scale (127 - (e8 : Int))
    let (r, fl) := match how with
      | .mode rm => roundFV t.fmt rm y
      | .sr k b => roundSR t.fmt k b y
    let (n, fp) := t.pack r
    (n, fl ||| fp ||| snan [x])

/-- The value rounded to an integer in mode rm, and whether it was one already. -/
def toInteger (rm : RMode) (s : Bool) (m : Nat) (e : Int) : Int × Bool :=
  if e ≥ 0 then
    let v : Int := (m <<< e.toNat : Nat)
    (if s then -v else v, true)
  else
    let sh := (-e).toNat
    let i := m >>> sh
    let d := m % 2 ^ sh
    let half : Ordering := if d < 2 ^ (sh - 1) then .lt else if d > 2 ^ (sh - 1) then .gt else .eq
    let v : Int := (if roundsUp rm s i half (d != 0) then i + 1 else i : Nat)
    (if s then -v else v, d == 0)

/-- CVTFI (R86): to the range lo to hi. -/
def toIntSat (rm : RMode) (lo hi : Int) (x : FV) : Int × Flags :=
  match x with
  | .nan _ _ => (0, nv)
  | .zero _ => (0, 0#5)
  | .inf s => (if s then lo else hi, nv)
  | .fin s m e =>
    let (v, exact) := toInteger rm s m e
    if v < lo then (lo, nv) else if v > hi then (hi, nv) else (v, if exact then 0#5 else nx)

/-- The BF16 immediate of R91 as a value, its NaN quiet. -/
def immValue (imm : BitVec 16) : FV := (SFloat.bf16.unpack imm.toNat).quiet

end Sys2Proof.Num
end

