-- ==== Sys2Proof/Machine/Operands.lean ====
section
/-! DEFINITION. Lanes, lane masks and the operands of a lane operation (R63, R78, R79, R91, R95, R99). -/

namespace Sys2Proof

/-- Lane `i` (R63). -/
def VReg.lane (v : VReg) (i : Nat) : Lane := v.lanes.extractLsb' (36 * i) 36

/-- Pair `p`: lane 2p+1 above lane 2p (R78). -/
def VReg.pair (v : VReg) (p : Nat) : BitVec 72 := v.lanes.extractLsb' (72 * p) 72

/-- A register from its lanes. -/
def VReg.build (f : Nat → Lane) (lm : BitVec 8) : VReg :=
  { lanes := (List.range 8).foldl (fun acc i => acc ||| ((f i).setWidth 288 <<< (36 * i))) 0#288, lm := lm }

/-- A lane mask from its bits. -/
def mask8 (f : Nat → Bool) : BitVec 8 :=
  (List.range 8).foldl (fun acc i => if f i then acc ||| (1#8 <<< i) else acc) 0#8

/-- Every lane 0, all lanes active. -/
def VReg.zeros : VReg := { lanes := 0#288, lm := 0xFF#8 }

/-- The I32 value of a lane (R79). -/
def i32 (l : Lane) : BitVec 32 := l.setWidth 32

/-- The lane of an I32 value (R79). -/
def ofI32 (x : BitVec 32) : Lane := x.signExtend 36

/-- How an immediate expands into lanes (R91). -/
inductive LaneKind where
  | ff | fd | int
  deriving DecidableEq, Repr

def LaneKind.ofFmt : Nat → LaneKind
  | 0 => .ff
  | 1 => .fd
  | _ => .int

/-- The lane kind in which an operation reads operand `pos` (0 A, 1 B, 2 C), for R91 and the type rules of R189. -/
def operandKind (o : LOp) (w : LaneW) (pos : Nat) : LaneKind :=
  match o with
  | .fadd | .fsub | .fmul | .fma | .fnma | .fmin | .fmax | .fneg | .fabs | .fdiv | .fsqrt | .frcp | .frsq | .fexp2
  | .flog2 | .ftanh | .fsig | .accf | .cvtfi | .cvtfd | .panq => .ff
  | .dadd | .dsub | .dmul | .dfma | .dmin | .dmax | .ddiv | .dsqrt | .accd | .cvtdf => .fd
  | .fcmp | .lsum | .lmax | .lperm | .lbcast | .lshift | .lins | .lext | .pass => LaneKind.ofFmt w.fmt.toNat
  | .sel => if pos = 2 then .int else LaneKind.ofFmt w.fmt.toNat
  | .cvtout =>
    if pos = 0 then
      (if w.fmt == 0 then (if w.param.getLsbD 6 then .fd else .ff) else if w.fmt ≤ 6 then .ff else .int)
    else .int
  | .mfadd => if pos = 1 then .ff else .int
  | _ => .int

/-- IMM expanded into every lane or pair (R91). -/
def immToken (k : LaneKind) (imm : BitVec 16) : VReg :=
  match k with
  | .ff => VReg.build (fun _ => Num.packFF (Num.immValue imm)) 0xFF#8
  | .fd =>
    let d := Num.packFD (Num.immValue imm)
    VReg.build (fun i => if i % 2 = 0 then d.setWidth 36 else (d >>> 36).setWidth 36) 0xFF#8
  | .int => VReg.build (fun _ => ofI32 (imm.signExtend 32)) 0xFF#8

/-- An operand: its lanes and mask, and whether it counts as all-active (R99). -/
structure Opd where
  v   : VReg
  all : Bool

/-- An operand from its select (R95): `prefixReg` gives the registers or input tokens a, b, c, `own` the operand's own
position, and `st` the state read as ST. -/
def operand (o : LOp) (w : LaneW) (pos : Nat) (s : BitVec 3) (prefixReg : Nat → VReg) (st : VReg) : Opd :=
  match s.toNat with
  | 1 => { v := prefixReg 0, all := false }
  | 2 => { v := prefixReg 1, all := false }
  | 3 => { v := prefixReg 2, all := false }
  | 4 => { v := immToken (operandKind o w pos) w.imm, all := true }
  | 5 => { v := st, all := true }
  | 6 => { v := prefixReg pos, all := false }
  | _ => { v := VReg.zeros, all := true }

/-- The lanes active in an operand. -/
def Opd.act (x : Opd) : BitVec 8 := if x.all then 0xFF#8 else x.v.lm

/-- The active lanes of a firing (R99). -/
def activeSet (o : LOp) (w : LaneW) (a b c : Opd) : BitVec 8 :=
  let (ra, rb, rc) := o.reads w
  (if ra then a.act else 0xFF#8) &&& (if rb then b.act else 0xFF#8) &&& (if rc then c.act else 0xFF#8)

/-- The lane mask of the pairs whose even bit is set in `act` (R78). -/
def pairMask (act : BitVec 8) : BitVec 8 := mask8 (fun i => act.getLsbD (i - i % 2))

end Sys2Proof
end

