-- ==== Sys2Proof/Machine/Types.lean ====
section
/-! DEFINITION. The state of the control cores, of requests in flight and of walks, as plain data (R7, R8, R9, R54, R138,
R141, R144, R227, R316, R317). -/

namespace Sys2Proof.Machine

/-- The four states of a context (R9). -/
inductive CtxState where
  | free | runnable | waiting | halted
  deriving DecidableEq, Repr

/-- A circular-buffer handle (R317). -/
structure Handle where
  base  : Word
  slot  : BitVec 16
  count : BitVec 13
  p     : BitVec 32
  c     : BitVec 32
  valid : Bool
  deriving DecidableEq, Repr

/-- A dependency slot (R290). -/
structure Slot where
  count : BitVec 6
  err   : Bool
  deriving DecidableEq, Repr

/-- An entry of a translation cache: one page and its rights (R54, R226). -/
structure TlbEntry where
  va : Nat
  pa : Nat
  size : Nat
  r : Bool
  w : Bool
  a : Bool
  deriving DecidableEq, Repr

/-- The barrier flag BF (R141). -/
inductive BFlag where
  | none
  | arrived  (g : Nat)
  | released (g : Nat)
  deriving DecidableEq, Repr

/-- A condition that a context waits for and tests by executing its instruction again once it holds. -/
inductive Poll where
  /-- EXIT and CTXSAVE: every slot of the context is 0 and, for CTXSAVE, no PROBE of it is incomplete (R133, R378). -/
  | idleSlots (tid : Nat) (probes : Bool)
  /-- DSWAIT (R292). -/
  | slots (mask : BitVec 8)
  /-- ISSUE waits for room in its slot (R288). -/
  | slotRoom (d : Nat)
  /-- CBWF and CBWE (R318). -/
  | filled (h : VNum) (n : Nat)
  | room (h : VNum) (n : Nat)
  /-- HSET waits until no command names the handle (R317). -/
  | ringFree (h : VNum)
  /-- FENCE: every command issued before is accepted (R266). -/
  | accepted
  /-- The master distributor is ready (R415). -/
  | mdReady
  /-- The context's earlier message has been placed (R144). -/
  | netEmpty
  /-- SCOPEWAIT waits for the scope of a handle (R215). -/
  | scopeDone (h : Nat)
  /-- CTXSAVE waits until its target is at a boundary (R378). -/
  | stopped (tid : Nat)
  deriving DecidableEq, Repr

/-- How the answer of a request completes a context's instruction. -/
inductive Finish where
  /-- A load of `n` bytes into `d` (R52). -/
  | load (d : GReg) (n : Nat) (sx : Bool)
  | store
  /-- AMO and CAS: the old value, of 4 or 8 bytes, sign-extended or not, and flags (R260, R261). -/
  | old (d : GReg) (wide sx : Bool)
  /-- VLD (R65). -/
  | vld (d : VNum)
  /-- LOCK at its first or second test, and UNLOCK, on the word at physical address `key` (R264, R265). -/
  | lock (again : Bool) (key : Nat)
  | unlock (key : Nat)
  /-- GLD (or GSCAT where `scat`) reads its descriptor: the doublewords still to be read and the bytes read (R273). -/
  | gridDesc (scat : Bool) (v : VNum) (x : Word) (level : Nat) (todo : List Nat) (got : List Byte)
  /-- CTXSAVE writes its area, and CTXLOAD reads it, doubleword by doubleword, where a part of it lies at a peer (R376,
  R405): the other context, the doublewords left (physical and virtual address and what is written) and the bytes read. -/
  | saveArea (x : Nat) (todo : List (Nat × Nat × Nat))
  | loadArea (x : Nat) (todo : List (Nat × Nat)) (got : List Byte)
  /-- LAUNCH reads its record (R206). -/
  | launch (d : GReg) (todo : List Nat) (got : List Byte)
  /-- GLD reads its entries, in any order: format, features, weights, flags so far, the place of the word being read, the words still to
  be read (place, physical and virtual address) and those read (R274). -/
  | gridRead (d : VNum) (ef f : Nat) (ws : List Lane) (fl : Flags) (now : Nat) (todo : List (Nat × Nat × Nat)) (got : Map Nat)
  /-- GSCAT makes its adds: format, flags so far, the place of the add under way, the adds still to be sent (place, physical and virtual
  address, amount) and the first, with its address, that met an uncorrectable word (R275, R276, R432). -/
  | gridAdd (ef : Nat) (fl : Flags) (now : Nat) (todo : List (Nat × Nat × Nat × Lane)) (bad : Option (Nat × Nat))
  /-- WSTEP's read for a source at a peer (R356, R405). -/
  | peek
  deriving DecidableEq, Repr

/-- What a context waits for (R9, R55, R129). -/
inductive Wait where
  | none
  /-- A translation walk (R54). -/
  | walk
  /-- The answer of a request (R55). -/
  | answer (req : Nat) (fin : Finish)
  | poll (p : Poll)
  /-- RECV on a channel of the own core (R145). -/
  | recv (ch : Nat)
  /-- WAITCH (R146). -/
  | waitch (mask : Word)
  /-- SEND in its delivery stage (R144). -/
  | send (msg : Nat)
  /-- SEMACQ (R315). -/
  | sem (sem : Nat)
  /-- GBAR (R141). -/
  | gbar (g : Nat)
  /-- LOCK with its record made (R264). -/
  | lock (key : Nat)
  /-- ISSUE until its dispatcher has accepted the command (R288). -/
  | accept (cmd : Nat)
  deriving DecidableEq, Repr

/-- A hardware context (R7). -/
structure Ctx where
  g      : Vector Word 32
  v      : Vector VReg 16
  h      : Vector Handle 16
  d      : Vector Slot 8
  pc     : Word
  /-- sy.status: SEN, IT, PPRV, PRV in bits 3 to 0 (R16). -/
  status : BitVec 4
  pri    : BitVec 2
  fpctl  : BitVec 3
  fflags : Flags
  tvec   : Word
  epc    : Word
  tcause : Word
  taddr  : Word
  /-- Pending causes: bit i for CAUSE i (R22, R377). -/
  pend   : BitVec 15
  /-- Of them, those that a record has raised while the context was FREE (R131, R344). -/
  recPend : BitVec 15
  /-- sy.taddr of each pending cause (R20). -/
  pendAddr : Map Word
  st     : CtxState
  wait   : Wait
  /-- The instruction under way: fetched, not completed. -/
  held   : Option Instr
  tlb    : List TlbEntry
  /-- Pages walked for the instruction under way, which may touch more of them than the cache holds (R54, log 20). -/
  pages  : List TlbEntry
  /-- What the WSTEP under way goes on with: an address of a stream that it steps, WHY and a value. WHY is 0 for the value that a peer
  has answered, and 5 while the address is walked. -/
  peeked : Option (Nat × Nat × Nat)
  bf     : BFlag
  rn     : Option Nat
  /-- The wait counter and boost (R136). -/
  waited  : Nat
  boosted : Bool
  /-- A stop at the next boundary is asked for (R417, R378, R385). -/
  stop   : Bool
  /-- A RELEASE waits for the context's slots (R133, R417). -/
  leaving : Bool
  /-- Halted by the debug block (R384, R385). -/
  broke  : Bool
  /-- Stopped while it ran by a CTXSAVE that has not written its area yet (R378). -/
  ran    : Bool
  deriving DecidableEq, Repr

/-- A message in a network interface (R144). -/
structure Msg where
  src   : Nat
  core  : Nat
  ch    : Nat
  words : List Word
  deriving DecidableEq, Repr

/-- A core's shared state (R8, R135, R336, R342, R368, R417). -/
structure CoreSt where
  /-- Semaphore counts that are not 0. -/
  sems   : Map (BitVec 32)
  /-- The wait queue of each semaphore: thread and n, first waiter first (R316). -/
  semq   : Map (List (Nat × BitVec 32))
  /-- The messages of each channel, oldest first. -/
  chans  : Map (List (List Word))
  /-- The waiting RECVs of each channel, first waiter first (R145). -/
  recvq  : Map (List Nat)
  /-- The last context that issued at each effective priority (R135). -/
  last   : Vector (BitVec 3) 4
  /-- The control block (R417). -/
  cpc    : Word
  carg   : Word
  ctvec  : Word
  cprv   : Bool
  /-- The window of sy.pancnt: pan and counter (R326, R336). -/
  window : Option (Nat × Nat)
  /-- The next record number (R343). -/
  recSeq  : Nat
  gated  : Bool
  deriving DecidableEq, Repr

/-- An entry of a sync table (R138, R264). -/
inductive SyncEntry where
  | group (id : Nat) (members arrived : BitVec 32)
  | lock  (key : Nat) (waiting : BitVec 32)
  deriving DecidableEq, Repr

/-- What an access does at its home. -/
inductive AccOp where
  | read (n : Nat)
  | write (n : Nat) (v : Word)
  /-- A stream's write of the low or high half of a byte at a peer: its read; the write of the byte follows (R236). -/
  | half (odd : Bool) (v : Nat)
  /-- A peer's read or write of `n` bytes that is no access of a word: the bytes done, and their values (R401). -/
  | blockRead (n done : Nat) (v : Nat)
  | blockWrite (n done : Nat) (v : Nat)
  /-- VLD and VST: the word next to be moved and the bytes of the image (R65, R244). -/
  | vread (next : Nat) (img : Nat)
  | vwrite (next : Nat) (img : Nat)
  /-- `fn` is the instruction's fn field (R40). -/
  | amo (fn : BitVec 11) (b : Word)
  | cas (fn : BitVec 11) (expect new : Word)
  /-- The test of LOCK and UNLOCK, which a peer refuses (R263). -/
  | lockCas (expect new : Word)
  /-- LDF, or LDFE where `empty` (R256). -/
  | ldf (empty : Bool)
  | stf (v : Word)
  /-- The add of a crystal region's feature (R275). -/
  | gridAdd (ef : Nat) (t : Lane)
  deriving DecidableEq, Repr

/-- What a home answers. -/
inductive Answer where
  | value (v : Nat) (fl : Flags)
  /-- Refused by the home or by its access table (R53, R224, R420). -/
  | denied (ea : Nat)
  /-- An uncorrectable word (R57, R432). -/
  | uncorrectable (ea : Nat)
  /-- No translation, at a peer (R404). -/
  | unmapped (ea : Nat)
  deriving DecidableEq, Repr

/-- Who made a request. -/
inductive Owner where
  | ctx (tid : Nat)
  /-- A stream's element or scale access: its place in the stream's order (R238, R240). -/
  | stream (rid s k : Nat)
  /-- Access number `k` of a command (R248). -/
  | cmd (id k : Nat)
  /-- A peer's request of a class, answered by a flit with its sequence number (R401, R403). -/
  | peer (dev cls seq : Nat)
  /-- A walk that reads an entry at a peer (R227). -/
  | walk (id : Nat)
  /-- The host's access to a peer's window (R409). -/
  | host
  deriving DecidableEq, Repr

/-- Where a request is on its way (R257, R404, R434). -/
inductive ReqState where
  | sent
  /-- A peer's request whose address is being translated here (R399). -/
  | walking
  /-- In the wait list of its ME, as arrival number `n` (R257). -/
  | listed (n : Nat)
  /-- Refused by a full wait list: to be sent again (R257). -/
  | refused
  /-- Sent to a peer at cycle `since`, whose answer is outstanding (R401, R404). -/
  | remote (dev seq since : Nat)
  | answered (a : Answer)
  deriving DecidableEq, Repr

/-- A request to a home other than the requester's own (R434). -/
structure Req where
  master : Nat
  owner  : Owner
  op     : AccOp
  pa     : Nat
  /-- An image that crosses a page: the bytes in the first page and where the rest lies (R65). -/
  split  : Nat
  pa2    : Nat
  ea     : Nat
  st     : ReqState
  deriving DecidableEq, Repr

/-- The kind of access that a page or access table must permit (R227, R420). -/
inductive Acc where
  | read | write | fetch | atomic
  /-- R and W of the page, for LDFE (R256). -/
  | readWrite
  deriving DecidableEq, Repr

/-- Who asked for a walk. -/
inductive Walker where
  | ctx (tid : Nat)
  | stream (rid s : Nat)
  | cmd (id k : Nat)
  /-- A peer's request, which came in at a port. -/
  | req (id port : Nat)
  deriving DecidableEq, Repr

/-- A walk, waiting or in flight (R227, R228). -/
structure Walk where
  island : Nat
  who    : Walker
  va     : Nat
  kind   : Acc
  lvl    : Nat
  base   : Nat
  /-- The entry of this level has been asked of a peer. -/
  asked  : Bool
  deriving DecidableEq, Repr

end Sys2Proof.Machine
end

