-- ==== Sys2Proof/Machine/Hash.lean ====
section
/-! DEFINITION. SHA-256 (FIPS 180-4), which R170 and R413 name, and the signature check of RFC 8017 that R413 names. -/

namespace Sys2Proof.Machine.Hash

/-- The `n` 32-bit words of a number, most significant first. -/
def wordsOf (x : Nat) : Nat → List (BitVec 32)
  | 0 => []
  | n + 1 => BitVec.ofNat 32 (x >>> (32 * n)) :: wordsOf x n

/-- The round constants of FIPS 180-4: the fractional bits of the cube roots of the first primes, sixteen words to a number. -/
def roundConst : List (BitVec 32) :=
  [0x428a2f9871374491b5c0fbcfe9b5dba53956c25b59f111f1923f82a4ab1c5ed5d807aa9812835b01243185be550c7dc372be5d7480deb1fe9bdc06a7c19bf174,
   0xe49b69c1efbe47860fc19dc6240ca1cc2de92c6f4a7484aa5cb0a9dc76f988da983e5152a831c66db00327c8bf597fc7c6e00bf3d5a7914706ca635114292967,
   0x27b70a852e1b21384d2c6dfc53380d13650a7354766a0abb81c2c92e92722c85a2bfe8a1a81a664bc24b8b70c76c51a3d192e819d6990624f40e3585106aa070,
   0x19a4c1161e376c082748774c34b0bcb5391c0cb34ed8aa4a5b9cca4f682e6ff3748f82ee78a5636f84c878148cc7020890befffaa4506cebbef9a3f7c67178f2].flatMap
    (fun x => wordsOf x 16)

/-- The initial hash value as one number: the fractional bits of the square roots of the first primes. -/
def initial : BitVec 256 := 0x6a09e667bb67ae853c6ef372a54ff53a510e527f9b05688c1f83d9ab5be0cd19

/-- The exclusive or of some right rotations of a word. -/
def turned (ns : List Nat) (x : BitVec 32) : BitVec 32 := (ns.map x.rotateRight).foldl (· ^^^ ·) 0

/-- Word `i` of the schedule window of sixteen, the earliest first, and of the eight working variables a to h. -/
def wordAt {n : Nat} (x : BitVec n) (i : Nat) : BitVec 32 := x.extractLsb' (n - 32 * (i + 1)) 32

/-- The window moves on by one word of the message schedule. -/
def slide (w : BitVec 512) : BitVec 512 :=
  let early := turned [7, 18] (wordAt w 1) ^^^ (wordAt w 1 >>> 3)
  let late := turned [17, 19] (wordAt w 14) ^^^ (wordAt w 14 >>> 10)
  w.extractLsb' 0 480 ++ (early + late + wordAt w 0 + wordAt w 9)

/-- Bits of `y` where `x` has a one, else of `z`; and the majority of three. -/
def choose (x y z : BitVec 32) : BitVec 32 := z ^^^ (x &&& (y ^^^ z))
def majority (x y z : BitVec 32) : BitVec 32 := (x &&& y) ||| (z &&& (x ||| y))

/-- One round with constant `k` on the working variables, as one number with a on top, and on the schedule window. -/
def round (st : BitVec 256 × BitVec 512) (k : BitVec 32) : BitVec 256 × BitVec 512 :=
  let v := wordAt st.1
  let t := turned [6, 11, 25] (v 4) + choose (v 4) (v 5) (v 6) + v 7 + wordAt st.2 0 + k
  let top := t + turned [2, 13, 22] (v 0) + majority (v 0) (v 1) (v 2)
  (top ++ st.1.extractLsb' 160 96 ++ (v 3 + t) ++ st.1.extractLsb' 32 96, slide st.2)

/-- The number that bytes give, most significant first. -/
def beNat (bs : List Byte) : Nat := bs.foldl (fun a b => a * 256 + b.toNat) 0

/-- Big-endian bytes of a number. -/
def beBytes (n : Nat) : Nat → List Byte
  | 0 => []
  | k + 1 => BitVec.ofNat 8 (n / 256 ^ k) :: beBytes n k

/-- One block of 64 bytes: the words of the hash value each advance by those of the working variables. -/
def block (h : BitVec 256) (bs : List Byte) : BitVec 256 :=
  let r := (roundConst.foldl round (h, BitVec.ofNat 512 (beNat bs))).1
  (List.range 8).foldl (fun acc i => (acc <<< 32) ||| (wordAt h i + wordAt r i).setWidth 256) 0

def blocks (h : BitVec 256) : Nat → List Byte → BitVec 256
  | 0, _ => h
  | n + 1, bs => blocks (block h (bs.take 64)) n (bs.drop 64)

/-- A message with its padding: a one bit, zeros, and its length in bits. -/
def padded (bs : List Byte) : List Byte :=
  bs ++ beBytes (2 ^ 7 * 256 ^ ((119 - bs.length % 64) % 64)) ((119 - bs.length % 64) % 64 + 1) ++ beBytes (8 * bs.length) 8

/-- SHA-256 as 32 bytes. -/
def sha256 (bs : List Byte) : List Byte :=
  beBytes (blocks initial ((bs.length + 72) / 64) (padded bs)).toNat 32

/-- b ^ e mod m by squaring over `k` bits of e. -/
def powMod (b e m : Nat) : Nat → Nat
  | 0 => 1 % m
  | k + 1 =>
    let h := powMod (b * b % m) (e / 2) m k
    if e % 2 = 1 then h * b % m else h

/-- The DigestInfo prefix of SHA-256 (RFC 8017, 9.2). -/
def digestInfo : List Byte := beBytes 0x3031300d060960864801650304020105000420 19

/-- RSASSA-PKCS1-v1_5 verification with SHA-256, exponent 65 537 and a modulus of 384 bytes (R413): the number to which the
signature opens is that of the bytes 0, 1, 330 of all ones, 0, the prefix and the digest. -/
def rsaVerify (modulus sig msg : List Byte) : Bool :=
  let n := beNat modulus
  let s := beNat sig
  let digest := beNat (digestInfo ++ sha256 msg)
  s < n && powMod s 65537 n 17 == 256 ^ 382 + (256 ^ 330 - 1) * 256 ^ 52 + digest

end Sys2Proof.Machine.Hash
end

