-- ==== Sys2Proof/Machine/Order.lean ====
section
/-! DEFINITION. Order descriptors, the connection check and the size of a reorder store (R182 to R187, R194 to R197). -/

namespace Sys2Proof.Machine

/-- Bits [hi:lo] of a record read as a number. -/
def bitsOf (r hi lo : Nat) : Nat := r / 2 ^ lo % 2 ^ (hi + 1 - lo)

/-- The connection-fault codes (R195). -/
inductive CF where
  | type | dim | ext | ragged | size | place
  deriving DecidableEq, Repr

def CF.number : CF → Nat
  | .type => 1
  | .dim => 2
  | .ext => 3
  | .ragged => 4
  | .size => 5
  | .place => 6

/-- A level of an order descriptor (R183). -/
structure Level where
  dim  : Nat
  lane : Bool
  rag  : Bool
  ext  : Nat
  deriving DecidableEq, Repr

/-- An order descriptor: TYPE, rank, lanes per token and levels, innermost first (R182). -/
structure OD where
  ty    : Nat
  rank  : Nat
  lanes : Nat
  lv    : List Level
  deriving DecidableEq, Repr

/-- Level field n (R183). -/
def levelOf (f : Nat) : Level :=
  { dim := bitsOf f 15 14, lane := bitsOf f 13 13 = 1, rag := bitsOf f 12 12 = 1, ext := bitsOf f 11 0 + 1 }

/-- The descriptor of a 128-bit field (R182). -/
def odOf (r : Nat) : OD :=
  { ty := bitsOf r 127 124, rank := bitsOf r 123 122 + 1, lanes := bitsOf r 118 116 + 1,
    lv := (List.range (bitsOf r 121 119)).map (fun n => levelOf (bitsOf r (16 * n + 31) (16 * n + 16))) }

def prod (l : List Nat) : Nat := l.foldl (· * ·) 1

def OD.cycles (t : OD) : List Level := t.lv.filter (fun l => !l.lane)
def OD.laneLv (t : OD) : List Level := t.lv.filter (fun l => l.lane)

/-- The number of lanes (or pairs) that carry elements (R185). -/
def OD.laneCount (t : OD) : Nat := prod (t.laneLv.map (·.ext))

/-- The number of elements of one instance (R237). -/
def OD.size (t : OD) : Nat := prod (t.lv.map (·.ext))

/-- A lane level stands outside a cycle level. -/
def laneOutside (l : List Level) : Bool := laneAfterCycle false l
where
  laneAfterCycle (seen : Bool) : List Level → Bool
    | [] => false
    | l :: ls => (l.lane && seen) || laneAfterCycle (seen || !l.lane) ls

/-- Reserved fields and values of a descriptor (R182, R183). -/
def odCodesOk (r : Nat) : Bool :=
  let nlv := bitsOf r 121 119
  bitsOf r 127 124 ≤ 2 && 1 ≤ nlv && nlv ≤ 6 && bitsOf r 115 112 = 0 && bitsOf r 15 0 = 0
    && (List.range 6).all (fun n => n < nlv || bitsOf r (16 * n + 31) (16 * n + 16) = 0)

/-- The other rules of R184 that do not depend on the port. -/
def OD.ok (t : OD) : Bool :=
  !laneOutside t.lv && t.lv.all (fun l => l.dim < t.rank) && t.laneCount ≤ t.lanes && (t.ty ≠ 1 || t.lanes ≤ 4)

/-- The dimensions named, and the product of the extents of dimension d. -/
def dimsOf (l : List Level) : List Bool := (List.range 4).map (fun d => l.any (fun x => x.dim = d))
def extOf (l : List Level) (d : Nat) : Nat := prod ((l.filter (fun x => x.dim = d)).map (·.ext))

/-- The cycle or lane index of an element from the coordinates that its block gives it (R185). -/
def position (lane : Bool) (lv : List Level) (co : List Nat) : Nat :=
  go lv co 0 1
where
  go : List Level → List Nat → Nat → Nat → Nat
    | [], _, acc, _ => acc
    | l :: ls, co, acc, m =>
      let c := co.getD l.dim 0
      let co' := co.set l.dim (c / l.ext)
      if l.lane = lane then go ls co' (acc + c % l.ext * m) (m * l.ext) else go ls co' acc m

/-- The coordinates of the elements of a block, dimension 0 varying fastest. -/
def blockCoords (lv : List Level) : List (List Nat) :=
  let n := (List.range 4).map (extOf lv)
  (List.range (prod n)).map (fun k =>
    let n0 := n.getD 0 1
    let n1 := n.getD 1 1
    let n2 := n.getD 2 1
    [k % n0, k / n0 % n1, k / (n0 * n1) % n2, k / (n0 * n1 * n2)])

/-- The outcome of the connection check (R194). -/
inductive Link where
  | direct
  /-- A store is needed: the shared cycle levels and the two blocks, innermost level first. -/
  | store (shared bp bc : List Level)
  | refused (c : CF)
  deriving DecidableEq, Repr

/-- The longest common prefix, of level lists written outermost first. -/
def commonLen : List Level → List Level → Nat
  | a :: as, b :: bs => if a = b then commonLen as bs + 1 else 0
  | _, _ => 0

/-- A ragged level that is not the outermost of its block (R194 step 6). -/
def raggedInside (b : List Level) : Bool := b.dropLast.any (·.rag)

/-- The connection check of R194, steps 1 to 6. -/
def connect (p c : OD) : Link :=
  if p.ty ≠ c.ty then .refused .type
  else if p.rank ≠ c.rank ∨ dimsOf p.lv ≠ dimsOf c.lv then .refused .dim
  else if (List.range 4).any (fun d => extOf p.lv d ≠ extOf c.lv d) then .refused .ext
  else if p.lv = c.lv then .direct
  else
    let k := commonLen p.lv.reverse c.lv.reverse
    let shared := ((p.lv.reverse.take k).takeWhile (fun l => !l.lane)).length
    let bp := p.lv.take (p.lv.length - shared)
    let bc := c.lv.take (c.lv.length - shared)
    if raggedInside bp || raggedInside bc then .refused .ragged
    else .store (p.lv.drop (p.lv.length - shared)) bp bc

/-- The schedule of R196: the cycles in which consumer tokens of block `b` are read. -/
def readTimes (es : List (Nat × Nat)) (np nc b last : Nat) : List Nat × Nat :=
  (List.range nc).foldl (fun (acc : List Nat × Nat) j =>
    let ready := 1 + (es.foldl (fun m e => if e.2 = j then max m (b * np + e.1) else m) 0)
    let t := max ready (acc.2 + 1)
    (acc.1 ++ [t], t)) ([], last)

/-- store_size of R196, in lane slots. -/
def storeSize (ty : Nat) (bp bc : List Level) : Nat :=
  let es := (blockCoords bp).map (fun co => (position false bp co, position false bc co))
  let np := prod ((bp.filter (fun l => !l.lane)).map (·.ext))
  let nc := prod ((bc.filter (fun l => !l.lane)).map (·.ext))
  let (r0, l0) := readTimes es np nc 0 0
  let (r1, l1) := readTimes es np nc 1 l0
  let live (t : Nat) : Nat :=
    (es.filter (fun e => e.1 ≤ t ∧ r0.getD e.2 0 > t)).length
      + (es.filter (fun e => np + e.1 ≤ t ∧ r1.getD e.2 0 > t)).length
  (List.range (l1 + 1)).foldl (fun m t => max m (live t)) 0 * (if ty = 1 then 2 else 1)

/-- The END rank of the token at cycle index `k` of a run of the given cycle levels, innermost first: the largest rank
it completes (R186). -/
def endRank (exts : List Nat) (k : Nat) : Nat :=
  go exts k 0
where
  go : List Nat → Nat → Nat → Nat
    | [], _, r => r
    | n :: ns, k, r => if k % n + 1 = n then go ns (k / n) (r + 1) else r

end Sys2Proof.Machine
end

