-- ==== Sys2Proof/Machine/Image.lean ====
section
/-! DEFINITION. Configuration images: their records, and the loader's checks up to the cycle check and the tracks
(R148, R156, R164, R167, R168, R170 to R179). -/

namespace Sys2Proof.Machine

/-- Bytes as a little-endian number. -/
def leNat (bs : List Byte) : Nat := bs.foldr (fun b acc => b.toNat + 256 * acc) 0

/-- The number in bytes [off, off + n). -/
def fieldAt (bs : List Byte) (off n : Nat) : Nat := leNat ((bs.drop off).take n)

/-- The element kind of a site (R148): 0 CE, 1 ME, 2 AG, 3 BE. -/
def siteKind (x y : Nat) : Nat :=
  if x = 0 ∨ x = 39 then (if y % 4 = 0 then 3 else 2)
  else if x ∈ [5, 10, 15, 24, 29, 34] then 1 else 0

/-- The number of an ME within its island, from its site (R148). -/
def meIndex (x y : Nat) : Nat := ([5, 10, 15, 24, 29, 34].findIdx (· = x)) * 64 + y

/-- The site of ME j (R148). -/
def meSite (j : Nat) : Nat × Nat := ([5, 10, 15, 24, 29, 34].getD (j / 64) 5, j % 64)

/-- The size of a shape (R167). -/
def shapeSize : Nat → Nat × Nat
  | 0 => (8, 8)
  | 1 => (8, 16)
  | 2 => (16, 16)
  | 3 => (20, 32)
  | 4 => (40, 32)
  | _ => (40, 64)

/-- The x origins of a shape's regions (R167). -/
def originsX (shape : Nat) : List Nat :=
  match shape with
  | 0 | 1 => [0, 8, 16, 24, 32]
  | 2 => [0, 8, 16, 24]
  | 3 => [0, 20]
  | _ => [0]

/-- The origins of a shape's regions, by y and then by x (R167). -/
def origins (shape : Nat) : List (Nat × Nat) :=
  let h := (shapeSize shape).2
  (List.range (64 / h)).flatMap (fun j => (originsX shape).map (fun x => (x, j * h)))

/-- An element record (R172). -/
structure ElemRec where
  x    : Nat
  y    : Nat
  kind : Nat
  word : BitVec 64
  ii   : Nat
  oqx  : Nat
  sce  : Bool
  ldir : Bool
  deriving DecidableEq, Repr

/-- A port declaration (R173). -/
structure PortDecl where
  wp     : Nat
  out    : Bool
  sfmt   : Nat
  bs     : Bool
  burst  : Nat
  rnd    : Nat
  seed   : Nat
  stream : Nat
  deriving DecidableEq, Repr

def portDecl (w : BitVec 64) : PortDecl :=
  let n := w.toNat
  { wp := bitsOf n 63 58, out := bitsOf n 57 57 = 1, sfmt := bitsOf n 56 53, bs := bitsOf n 52 52 = 1,
    burst := bitsOf n 51 46 + 1, rnd := bitsOf n 45 43, seed := bitsOf n 42 11, stream := bitsOf n 10 9 }

/-- A branch of a route record (R174). -/
structure Branch where
  dx    : Nat
  dy    : Nat
  dport : Nat
  slack : Nat
  dstr  : Nat
  deriving DecidableEq, Repr

structure RouteRec where
  sx    : Nat
  sy    : Nat
  sport : Nat
  sstr  : Nat
  br    : List Branch
  deriving DecidableEq, Repr

/-- A router-operator record (R175): 0 STEER, 1 FILTER, 2 MERGE, 3 CARRY. -/
structure RopRec where
  x    : Nat
  y    : Nat
  op   : Nat
  mode : Nat
  rank : Nat
  deriving DecidableEq, Repr

/-- An order-descriptor entry (R176). -/
structure OrdRec where
  x    : Nat
  y    : Nat
  port : Nat
  str  : Nat
  od   : OD
  deriving DecidableEq, Repr

/-- A controller record (R177): 0 SEQ, 1 PIPE, 2 STRM, 3 LEAF. -/
structure CtlRec where
  node   : Nat
  type   : Nat
  parent : Nat
  iter   : Nat
  lx     : Nat
  ly     : Nat
  lstr   : Nat
  deriving DecidableEq, Repr

/-- An ME data block (R178). -/
structure MeBlock where
  x    : Nat
  y    : Nat
  off  : Nat
  data : List Byte
  deriving DecidableEq, Repr

/-- A configuration image (R170, R171). -/
structure Image where
  shape  : Nat
  prank  : Nat
  mper   : Nat
  elems  : List ElemRec
  routes : List RouteRec
  rops   : List RopRec
  ords   : List OrdRec
  ctls   : List CtlRec
  mes    : List MeBlock
  deriving DecidableEq, Repr

/-- A refusal: the connection-fault code and the failing record (R179, R195, R345). -/
structure Refuse where
  code : CF
  sect : Nat
  idx  : Nat
  deriving DecidableEq, Repr

/-- The first record that failed, in section order (R179). -/
def firstFail (l : List Refuse) : Option Refuse :=
  l.foldl (fun (acc : Option Refuse) r =>
    match acc with
    | none => some r
    | some a => if r.sect < a.sect ∨ (r.sect = a.sect ∧ r.idx < a.idx) then some r else some a) none

/-- The failures of one section: `bad` gives each record's code, if it fails. -/
def failures {α : Type} (sect : Nat) (l : List α) (bad : α → Option CF) : List Refuse :=
  (l.zipIdx).filterMap (fun p => (bad p.1).map (fun c => { code := c, sect := sect, idx := p.2 }))

def align16 (n : Nat) : Nat := (n + 15) / 16 * 16

/-- The 64-byte header up to HASH is sound and the image is whole (R179 step 1). -/
def headerOk (bs : List Byte) : Bool :=
  fieldAt bs 0 4 = 0x56584346 && fieldAt bs 4 2 = 1 && fieldAt bs 24 4 = bs.length && fieldAt bs 24 4 % 16 = 0
    && 64 ≤ bs.length && bs.length ≤ 64 * 2 ^ 20
    && Hash.sha256 (bs.take 32 ++ List.replicate 32 0#8 ++ bs.drop 64) = (bs.drop 32).take 32

def elemOf (r : Nat) : ElemRec :=
  { x := bitsOf r 127 122, y := bitsOf r 121 116, kind := bitsOf r 115 114, word := BitVec.ofNat 64 (bitsOf r 113 50),
    ii := bitsOf r 49 46 + 1, oqx := bitsOf r 45 42, sce := bitsOf r 41 41 = 1, ldir := bitsOf r 40 40 = 1 }

/-- Reserved fields and codes of an element record (R172, R173). -/
def elemBad (r : Nat) : Option CF :=
  let e := elemOf r
  let p := portDecl e.word
  if bitsOf r 39 0 ≠ 0 ∨ (e.kind ≠ 3 ∧ e.ldir) then some .type
  else if e.kind = 2 ∧ (p.sfmt = 15 ∨ p.rnd = 6 ∨ (p.rnd = 5 ∧ !p.out) ∨ bitsOf e.word.toNat 8 0 ≠ 0) then some .type
  else none

def branchOf (f : Nat) : Branch :=
  { dx := bitsOf f 26 21, dy := bitsOf f 20 15, dport := bitsOf f 14 12, slack := bitsOf f 11 8, dstr := bitsOf f 7 6 }

def routeOf (r : Nat) : RouteRec :=
  { sx := bitsOf r 255 250, sy := bitsOf r 249 244, sport := bitsOf r 243 241, sstr := bitsOf r 237 236,
    br := (List.range (bitsOf r 240 238 + 1)).map (fun n => branchOf (bitsOf r (27 * n + 26) (27 * n))) }

/-- Reserved fields and codes of a route record (R174). -/
def routeBad (r : Nat) : Option CF :=
  let nb := bitsOf r 240 238 + 1
  if bitsOf r 235 216 ≠ 0 ∨ 2 < bitsOf r 243 241
      ∨ (List.range 8).any (fun n =>
          let f := bitsOf r (27 * n + 26) (27 * n)
          if n < nb then 5 < bitsOf f 14 12 || bitsOf f 5 0 ≠ 0 else f ≠ 0) then some .type
  else none

def ropOf (r : Nat) : RopRec :=
  { x := bitsOf r 127 122, y := bitsOf r 121 116, op := bitsOf r 115 114, mode := bitsOf r 113 113,
    rank := bitsOf r 112 110 }

def ropBad (r : Nat) : Option CF :=
  let o := ropOf r
  if bitsOf r 109 0 ≠ 0 ∨ (o.op ≠ 2 ∧ o.mode ≠ 0) ∨ (o.op = 3 ∧ o.rank = 0) ∨ (o.op ≠ 3 ∧ o.rank ≠ 0) then some .type
  else none

/-- The port word stands first in memory, the descriptor follows it (R170, R176). -/
def ordOf (r : Nat) : OrdRec :=
  let p := bitsOf r 127 0
  { x := bitsOf p 127 122, y := bitsOf p 121 116, port := bitsOf p 115 113, str := bitsOf p 112 111,
    od := odOf (bitsOf r 255 128) }

def ordBad (r : Nat) : Option CF :=
  let p := bitsOf r 127 0
  if bitsOf p 110 0 ≠ 0 ∨ 3 < bitsOf p 115 113 ∨ !odCodesOk (bitsOf r 255 128) then some .type else none

def ctlOf (r : Nat) : CtlRec :=
  { node := bitsOf r 127 123, type := bitsOf r 122 121, parent := bitsOf r 120 116,
    iter := bitsOf r 115 92 + 1, lx := bitsOf r 91 86, ly := bitsOf r 85 80, lstr := bitsOf r 79 78 }

/-- Reserved fields of a controller record (R177). LX, LY and LSTR of a record that is no LEAF count as reserved. DESIGN CHOICE:
assumption 86. -/
def ctlBad (r : Nat) : Option CF :=
  let c := ctlOf r
  if bitsOf r 77 0 ≠ 0 ∨ (c.type = 3 ∧ c.iter ≠ 1) ∨ (c.type ≠ 3 ∧ bitsOf r 91 78 ≠ 0) then some .type else none

def meBad (r : Nat) : Option CF :=
  let off := bitsOf r 112 96
  let len := bitsOf r 80 64
  if bitsOf r 115 113 ≠ 0 ∨ bitsOf r 95 81 ≠ 0 ∨ bitsOf r 63 0 ≠ 0 ∨ off % 8 ≠ 0 ∨ len % 8 ≠ 0 ∨ 131072 < off + len
  then some .type else none

/-- `n` records of `w` bytes from byte `off`. -/
def recordsAt (bs : List Byte) (off w n : Nat) : List Nat :=
  (List.range n).map (fun i => fieldAt bs (off + w * i) w)

/-- The ME data blocks: header, data, padding to 16 bytes (R178). Answers the headers, the blocks and the end. -/
def meBlocks (bs : List Byte) (off : Nat) : Nat → List (Nat × MeBlock) × Nat
  | 0 => ([], off)
  | n + 1 =>
    let r := fieldAt bs off 16
    let len := bitsOf r 80 64
    let b : MeBlock := { x := bitsOf r 127 122, y := bitsOf r 121 116, off := bitsOf r 112 96,
                         data := (bs.drop (off + 16)).take len }
    let (l, e) := meBlocks bs (off + 16 + align16 len) n
    ((r, b) :: l, e)

/-- The image of its bytes, with R179 steps 1 and 2. A second element record at a site, or a second record of one AG stream (R172), is
refused with CF_TYPE and named. DESIGN CHOICE: log 88. -/
def parseImage (bs : List Byte) : Except Refuse Image :=
  let f := fieldAt bs
  if !headerOk bs then .error { code := .type, sect := 0, idx := 0 }
  else
    let ne := f 8 2
    let nr := f 10 2
    let np := f 12 2
    let no := f 14 2
    let nc := f 16 1
    let e0 := 64
    let r0 := e0 + 16 * ne
    let p0 := r0 + 32 * nr
    let o0 := p0 + 16 * np
    let c0 := o0 + 32 * no
    let m0 := c0 + 16 * nc
    let es := recordsAt bs e0 16 ne
    let rs := recordsAt bs r0 32 nr
    let ps := recordsAt bs p0 16 np
    let os := recordsAt bs o0 32 no
    let cs := recordsAt bs c0 16 nc
    let (ms, fin) := meBlocks bs m0 (f 18 2)
    let head := 5 < f 6 1 || 7 < f 7 1 || f 17 1 ≠ 0 || f 28 4 ≠ 0 || nc = 0 || 32 < nc || f 20 4 < 256
      || 65536 < f 20 4 || fin ≠ bs.length
    let elems := es.map elemOf
    let twice (i : Nat) (e : ElemRec) : Bool :=
      (elems.take i).any (fun d => d.x = e.x && d.y = e.y
        && (d.kind ≠ 2 || e.kind ≠ 2 || (portDecl d.word).stream = (portDecl e.word).stream))
    let dup := (elems.zipIdx.filter (fun p => twice p.2 p.1)).map
      (fun p => ({ code := .type, sect := 1, idx := p.2 } : Refuse))
    let bad := (if head then [({ code := .type, sect := 0, idx := 0 } : Refuse)] else []) ++ failures 1 es elemBad ++ dup
      ++ failures 2 rs routeBad ++ failures 3 ps ropBad ++ failures 4 os ordBad ++ failures 5 cs ctlBad
      ++ failures 6 (ms.map (·.1)) meBad
    match firstFail bad with
    | some r => .error r
    | none =>
      .ok { shape := f 6 1, prank := f 7 1, mper := f 20 4, elems := elems, routes := rs.map routeOf,
            rops := ps.map ropOf, ords := os.map ordOf, ctls := cs.map ctlOf, mes := ms.map (·.2) }

/-- R179 step 3 against the region at (ox, oy) of an island (R168, R172, R178). -/
def misplaced (im : Image) (ox oy : Nat) : List Refuse :=
  let (w, h) := shapeSize im.shape
  let inside (x y : Nat) : Bool := x < w && y < h
  let k (x y : Nat) : Nat := siteKind (ox + x) (oy + y)
  let pl (b : Bool) : Option CF := if b then none else some .place
  failures 1 im.elems (fun e => pl (inside e.x e.y && k e.x e.y = e.kind))
    ++ failures 2 im.routes (fun r => pl (inside r.sx r.sy && r.br.all (fun b => inside b.dx b.dy)))
    ++ failures 3 im.rops (fun o => pl (inside o.x o.y))
    ++ failures 4 im.ords (fun o => pl (inside o.x o.y))
    ++ failures 5 im.ctls (fun c => pl (c.type ≠ 3 || inside c.lx c.ly))
    ++ failures 6 im.mes (fun m => pl (inside m.x m.y && k m.x m.y = 1))

/-- The image fits the region (R168). -/
def Image.fits (im : Image) (o : Nat × Nat) : Bool := (misplaced im o.1 o.2).isEmpty

/-! ### Units and circuits -/

/-- A unit: an element or AG-stream record, or an operator record after them. -/
inductive Unit' where
  | elem (e : ElemRec)
  | rop  (o : RopRec)
  deriving DecidableEq, Repr

def Image.units (im : Image) : List Unit' := im.elems.map .elem ++ im.rops.map .rop

def Unit'.site : Unit' → Nat × Nat
  | .elem e => (e.x, e.y)
  | .rop o => (o.x, o.y)

/-- The lane operation of a CE, ME or BE record, if its word is legal in an element (R96, R97). -/
def ElemRec.op (e : ElemRec) : Option (LOp × LaneW) := laneWord false e.word

/-- The kinds on which an operation stands (R104). -/
def lopOnKind (o : LOp) (kind : Nat) : Bool :=
  match o with
  | .pass => kind = 0 || kind = 3
  | .lut | .madd | .msadd | .mfadd | .mmin | .mmax | .mswap => kind = 1
  | _ => kind = 0

/-- The inputs that the operands of a word name: pairs of operand position and input (R95, R151). -/
def inputSels (o : LOp) (w : LaneW) : List (Nat × Nat) :=
  let (ra, rb, rc) := o.reads w
  let one (read : Bool) (pos : Nat) (s : BitVec 3) : List (Nat × Nat) :=
    if read && (s == 1 || s == 2 || s == 3) then [(pos, s.toNat - 1)] else []
  one ra 0 w.asel ++ one rb 1 w.bsel ++ one rc 2 w.csel

/-- The inputs that the word of a CE, ME or BE record names. -/
def ElemRec.named (e : ElemRec) : List Nat :=
  match e.op with
  | some (o, w) => ((inputSels o w).map (·.2)).eraseDups
  | none => []

/-- The inputs that circuits must feed. A BE that sends reads what its PASS names, and its input a where that names none; one that
receives reads its link in place of input a (R149, R151, R152; log 99). -/
def Unit'.inputs : Unit' → List Nat
  | .elem e =>
    if e.kind = 2 then (if (portDecl e.word).out then [0] else [])
    else if e.kind = 3 then (if e.ldir then (if e.named.isEmpty then [0] else e.named) else e.named.filter (· ≠ 0))
    else e.named
  | .rop o =>
    match o.op with
    | 0 => [0, 1]
    | 1 => [0, 1]
    | 2 => if o.mode = 0 then [0, 1, 2] else [0, 2]
    | _ => [0, 2]

/-- Whether a unit can be the source of a circuit, at output 0 (o, T or the only one) or 1 (F). -/
def Unit'.hasOut (u : Unit') (f : Bool) : Bool :=
  match u with
  | .elem e =>
    !f && (if e.kind = 2 then !(portDecl e.word).out
           else if e.kind = 3 then !e.ldir
           else match e.op with
             | some (o, w) => o ≠ .panq && !(o.isAcc && w.emit == 0)
             | none => false)
  | .rop o => !f || o.op = 0

/-- One branch of a circuit, from unit to unit (R156). Inputs of an operator are 0 for d, x0 or i, 1 for p, 2 for x1 or
f; `fout` is output F of a STEER. -/
structure Conn where
  route : Nat
  br    : Nat
  src   : Nat
  fout  : Bool
  dst   : Nat
  dport : Nat
  slack : Nat
  hops  : Nat
  deriving DecidableEq, Repr

def dist (a b : Nat × Nat) : Nat := (a.1 - b.1) + (b.1 - a.1) + ((a.2 - b.2) + (b.2 - a.2))

/-- The unit at a site: an element, or the AG stream with a number. -/
def Image.elemAt (im : Image) (x y str : Nat) : Option Nat :=
  im.elems.findIdx? (fun e => e.x = x && e.y = y && (if e.kind = 2 then (portDecl e.word).stream = str else str = 0))

def Image.ropAt (im : Image) (x y : Nat) : Option Nat :=
  (im.rops.findIdx? (fun o => o.x = x && o.y = y)).map (· + im.elems.length)

def Image.routeSrc (im : Image) (r : RouteRec) : Option Nat :=
  if r.sport = 0 then im.elemAt r.sx r.sy r.sstr else if r.sstr = 0 then im.ropAt r.sx r.sy else none

def Image.branchDst (im : Image) (b : Branch) : Option (Nat × Nat) :=
  if b.dport < 3 then (im.elemAt b.dx b.dy b.dstr).map (fun u => (u, b.dport))
  else if b.dstr = 0 then (im.ropAt b.dx b.dy).map (fun u => (u, b.dport - 3))
  else none

/-- The circuits' branches whose ends exist, in section order. -/
def Image.conns (im : Image) : List Conn :=
  im.routes.zipIdx.flatMap (fun p =>
    p.1.br.zipIdx.filterMap (fun q =>
      match im.routeSrc p.1, im.branchDst q.1 with
      | some s, some (d, port) =>
        some { route := p.2, br := q.2, src := s, fout := decide (p.1.sport = 2), dst := d, dport := port,
               slack := q.1.slack, hops := dist (p.1.sx, p.1.sy) (q.1.dx, q.1.dy) }
      | _, _ => none))

/-- An AG-stream record with DIR 0 that a circuit feeds is a lookup stream: nothing in an image marks one otherwise (R174, R279).
DEDUCED: assumption 87. Only a grid may be bound to it. -/
def Image.isLookup (im : Image) (u : Nat) : Bool :=
  match im.units[u]? with
  | some (.elem e) => e.kind = 2 && !(portDecl e.word).out && im.conns.any (fun c => c.dst = u)
  | _ => false

/-- The inputs that unit `u` of the image reads, a lookup stream's query input among them. -/
def Image.reads (im : Image) (u : Nat) : List Nat :=
  match im.units[u]? with
  | some x => if im.isLookup u then [0] else x.inputs
  | none => []

/-- The input of unit `u` is one that the operator there does not read (R175). -/
def Image.unread (im : Image) (u port : Nat) : Bool :=
  match im.units[u]? with
  | some (.rop o) => !((Unit'.rop o).inputs.contains port)
  | _ => false

/-- Route `i` brings an input its second circuit (R151). -/
def Image.feedsTwice (im : Image) (i : Nat) : Bool :=
  im.conns.zipIdx.any (fun c => c.1.route = i && !im.unread c.1.dst c.1.dport
    && (im.conns.take c.2).any (fun d => d.dst = c.1.dst && d.dport = c.1.dport))

/-- A route's ends are not what R174 asks. -/
def routeEndsBad (im : Image) (r : RouteRec) : Bool :=
  (match im.routeSrc r with
   | some s => match im.units[s]? with
     | some u => !u.hasOut (decide (r.sport = 2))
     | none => true
   | none => true)
  || r.br.any (fun b => match im.branchDst b with
      | some (d, port) => match im.units[d]? with
        | some (.elem e) => (e.kind = 2 && port ≠ 0) || (e.kind = 3 && !e.ldir)
        | some (.rop _) => false
        | none => true
      | none => true)

/-- The words, IIs, operators, circuits and inputs of R179 step 4, and the tree of R177. A second operator at one site (R159), a second
order entry for one port or one that names no element (R176), and a node number used twice or a tree without node 0 (R177) are
refused with CF_TYPE and named, cases for which the spec gives no code. DESIGN CHOICE: log 88. -/
def structureFails (im : Image) : List Refuse :=
  let ty (b : Bool) : Option CF := if b then some .type else none
  let cs := im.conns
  let feeds (u port : Nat) : Nat := (cs.filter (fun c => c.dst = u && c.dport = port)).length
  let off := im.elems.length
  let words := failures 1 im.elems (fun e => ty (
      if e.kind = 2 then false
      else if e.kind = 1 ∧ e.word = 0 then false
      else match e.op with
        | some (o, w) => !lopOnKind o e.kind || e.ii < (o.timing w).2
        | none => true))
  let fedE := im.elems.zipIdx.filter (fun p => (Unit'.elem p.1).inputs.any (fun i => feeds p.2 i = 0))
  let fedR := im.rops.zipIdx.filter (fun p => (Unit'.rop p.1).inputs.any (fun i => feeds (off + p.2) i = 0)
      || [0, 1, 2].any (fun i => im.unread (off + p.2) i && 0 < feeds (off + p.2) i))
  let twice := im.routes.zipIdx.filter (fun p => im.feedsTwice p.2)
  let twiceR := im.rops.zipIdx.filter (fun p => (im.rops.take p.2).any (fun o => o.x = p.1.x && o.y = p.1.y))
  let mk (sect : Nat) (i : Nat) : Refuse := { code := .type, sect := sect, idx := i }
  let kids (n : Nat) : List CtlRec := im.ctls.filter (fun c => c.parent = n && c.node ≠ 0)
  let leafOk (c : CtlRec) : Bool := match im.elemAt c.lx c.ly c.lstr with
    | some u => match im.elems[u]? with
      | some e => e.kind = 2 || (match e.op with | some (o, _) => o = .cnt | none => false)
      | none => false
    | none => false
  let climbs (c : CtlRec) : Bool :=
    (List.range 32).foldl (fun n _ => match im.ctls.find? (fun d => d.node = n) with
      | some d => d.parent
      | none => n) c.node = 0
  let tree := im.ctls.zipIdx.filter (fun p =>
    (im.ctls.take p.2).any (fun d => d.node = p.1.node)
      || (p.1.node = 0 && p.1.parent ≠ 0)
      || (p.1.type = 3 && (!(kids p.1.node).isEmpty || !leafOk p.1))
      || (p.1.type ≠ 3 && (kids p.1.node).isEmpty)
      || (im.ctls.find? (fun d => d.node = p.1.parent)).isNone || !climbs p.1)
  let root := if (im.ctls.find? (fun d => d.node = 0)).isNone then [mk 5 0] else []
  let ords := im.ords.zipIdx.filter (fun p =>
    (im.elemAt p.1.x p.1.y p.1.str).isNone
      || (im.ords.take p.2).any (fun d => d.x = p.1.x && d.y = p.1.y && d.port = p.1.port && d.str = p.1.str))
  words ++ fedE.map (fun p => mk 1 p.2) ++ failures 2 im.routes (fun r => ty (routeEndsBad im r))
    ++ twice.map (fun p => mk 2 p.2) ++ (fedR ++ twiceR).map (fun p => mk 3 p.2) ++ ords.map (fun p => mk 4 p.2)
    ++ tree.map (fun p => mk 5 p.2) ++ root

/-! ### Cycles and tracks -/

/-- The edges of the cycle check: every circuit but those into a CARRY's f (R164). -/
def Image.edges (im : Image) : List (Nat × Nat) :=
  let feedback (c : Conn) : Bool := match im.units[c.dst]? with
    | some (.rop o) => o.op = 3 && c.dport = 2
    | _ => false
  (im.conns.filter (fun c => !feedback c)).map (fun c => (c.src, c.dst))

/-- The units in topological order, ties in section order; units on a cycle or behind one are left out (R164, R188,
R356). -/
def topoOrder (n : Nat) (edges : List (Nat × Nat)) : List Nat :=
  (List.range n).foldl (fun done _ =>
    match (List.range n).find? (fun u => !done.contains u
        && edges.all (fun e => e.2 ≠ u || done.contains e.1)) with
    | some u => done ++ [u]
    | none => done) []

def Image.topo (im : Image) : List Nat := topoOrder im.units.length im.edges

/-- The units that circuits reach from unit `u` in one step or more. -/
def reachable (n : Nat) (edges : List (Nat × Nat)) (u : Nat) : List Nat :=
  (List.range n).foldl (fun (l : List Nat) _ =>
    ((edges.filter (fun e => l.contains e.1)).map (·.2)).foldl (fun l v => if l.contains v then l else l ++ [v]) l)
    (((edges.filter (fun e => e.1 = u)).map (·.2)).eraseDups)

/-- The cycle check (R164, R179 step 5): a record on a cycle, an element's where the first cycle has one. -/
def cycleFails (im : Image) : List Refuse :=
  let n := im.units.length
  let topo := im.topo
  let left := (List.range n).filter (fun u => !topo.contains u)
  let edges := im.edges.filter (fun e => left.contains e.1 && left.contains e.2)
  match left.find? (fun u => (reachable left.length edges u).contains u) with
  | none => []
  | some u => [if u < im.elems.length then { code := .type, sect := 1, idx := u }
               else { code := .type, sect := 3, idx := u - im.elems.length }]

/-- The sides that a branch crosses, first in x and then in y (R156). -/
def path (a b : Nat × Nat) : List (Nat × Nat × Nat) :=
  let dx := (a.1 - b.1) + (b.1 - a.1)
  let dy := (a.2 - b.2) + (b.2 - a.2)
  let x (i : Nat) : Nat := if a.1 ≤ b.1 then a.1 + i else a.1 - i
  let y (i : Nat) : Nat := if a.2 ≤ b.2 then a.2 + i else a.2 - i
  (List.range dx).map (fun i => (x i, a.2, if a.1 ≤ b.1 then 0 else 1))
    ++ (List.range dy).map (fun i => (b.1, y i, if a.2 ≤ b.2 then 2 else 3))

/-- Each side carries at most four tracks in each direction (R156). -/
def overTracks (used : List (Nat × Nat × Nat)) : Bool := used.any (fun s => 4 < used.count s)

/-- R179 step 6. -/
def trackFails (im : Image) : List Refuse :=
  let step (acc : List (Nat × Nat × Nat) × List Refuse) (p : RouteRec × Nat) :=
    let used := acc.1 ++ p.1.br.flatMap (fun b => path (p.1.sx, p.1.sy) (b.dx, b.dy))
    if overTracks used then (acc.1, acc.2 ++ [({ code := .place, sect := 2, idx := p.2 } : Refuse)]) else (used, acc.2)
  (im.routes.zipIdx.foldl step ([], [])).2

end Sys2Proof.Machine
end

