-- ==== Sys2Proof/Machine/Flags.lean ====
section
/-! DEFINITION. Collecting flags over lanes (R85) and the lane-wise frames of R99. -/

namespace Sys2Proof

/-- The flags of the lanes for which `on` holds, ORed (R85). -/
def orFlags (n : Nat) (on : Nat → Bool) (f : Nat → Flags) : Flags :=
  (List.range n).foldl (fun acc i => if on i then acc ||| f i else acc) 0#5

/-- A lane-wise result: computed in active lanes, A's lane in the others, LM the active set (R99). -/
def lanewise (act : BitVec 8) (a : VReg) (f : Nat → Lane × Flags) : VReg × Flags :=
  (VReg.build (fun i => if act.getLsbD i then (f i).1 else a.lane i) act,
   orFlags 8 (fun i => act.getLsbD i) (fun i => (f i).2))

/-- The same over pairs, active by their even bit (R78, R99). -/
def pairwise (act : BitVec 8) (a : VReg) (f : Nat → BitVec 72 × Flags) : VReg × Flags :=
  (VReg.build (fun i =>
      if act.getLsbD (i - i % 2) then (((f (i / 2)).1) >>> (36 * (i % 2))).setWidth 36 else a.lane i) (pairMask act),
   orFlags 4 (fun p => act.getLsbD (2 * p)) (fun p => (f p).2))

/-- The flags of an operation whose enable is set in XEN (R85, R102). -/
def trapped (w : LaneW) (fl : Flags) : Flags := fl &&& w.xen

end Sys2Proof
end

