-- ==== Sys2Proof/Machine/Trans.lean ====
section
/-! DEFINITION. The correctly rounded transcendental functions of R105 and R107. Each is enclosed between two neighbouring
fixed-point numbers at a working precision, and the precision is raised until both ends round alike (log 9). Every result
that is not one of the exact cases of R107 is irrational, so the enclosure's ends are never reached. -/

namespace Sys2Proof.Num

/-- An enclosure: the magnitude lies strictly between lo * 2^e and hi * 2^e. -/
structure Encl where
  lo : Nat
  hi : Nat
  e  : Int

/-- Fixed-point numbers with g fraction bits below; guard bits of the series. -/
def guard : Nat := 64

/-- The sum over k of 1/(k 2^k), with w fraction bits: ln 2. -/
def ln2Sum (w : Nat) : Nat → Nat → Nat → Nat
  | 0, _, acc => acc
  | fuel + 1, k, acc => ln2Sum w fuel (k + 1) (acc + 2 ^ w / (k * 2 ^ k))

def ln2 (w : Nat) : Nat := ln2Sum w w 1 0

/-- The sum of t^k / k! with w fraction bits, for t in [0, 1). -/
def expSum (w t : Nat) : Nat → Nat → Nat → Nat → Nat
  | 0, _, _, acc => acc
  | fuel + 1, k, term, acc =>
    if term = 0 then acc else expSum w t fuel (k + 1) (term * t / 2 ^ w / k) (acc + term)

/-- 2^f with w fraction bits, for f in [0, 1) given with w fraction bits. -/
def exp2Frac (w f : Nat) : Nat := expSum w (f * ln2 w / 2 ^ w) w 1 (2 ^ w) 0

/-- The sum of z^(2k+1) / (2k+1) with w fraction bits: the inverse hyperbolic tangent. -/
def atanhSum (w z2 : Nat) : Nat → Nat → Nat → Nat → Nat
  | 0, _, _, acc => acc
  | fuel + 1, k, term, acc =>
    if term = 0 then acc else atanhSum w z2 fuel (k + 2) (term * z2 / 2 ^ w) (acc + term / k)

/-- log2 of y in [1, 2), y = m / 2^b, with w fraction bits. -/
def log2Frac (w m b : Nat) : Nat :=
  let z := (m - 2 ^ b) * 2 ^ w / (m + 2 ^ b)
  let l := 2 * atanhSum w (z * z / 2 ^ w) w 1 z 0
  l * 2 ^ w / ln2 w

/-- |x| = m * 2^e as a fixed-point number with w fraction bits. -/
def fixed (w m : Nat) (e : Int) : Nat :=
  let sh : Int := e + w
  if sh < 0 then m >>> (-sh).toNat else m <<< sh.toNat

/-- The enclosure of a value known with w fraction bits to within 2^-(w - guard/2), scaled by 2^n. -/
def around (w v : Nat) (n : Int) : Encl :=
  let v := v >>> (guard / 2)
  { lo := v - 1, hi := v + 1, e := n - w + (guard / 2 : Nat) }

/-- The precisions tried, in turn. -/
def precisions : List Nat := [128, 256, 512, 1024, 2048, 4096]

/-- The rounding of a value strictly between lo and lo + 1, or between the ends where both round alike. -/
def decideAt (f : Fmt) (rm : RMode) (s : Bool) (c : Encl) : Option (FV × Flags) :=
  let a := roundTo f rm s c.lo c.e true
  let b := roundTo f rm s (c.hi - 1) c.e true
  if a = b then some a else none

def ziv (f : Fmt) (rm : RMode) (s : Bool) (g : Nat → Encl) : List Nat → FV × Flags
  | [] => let c := g 128; roundTo f rm s c.lo c.e true
  | p :: ps =>
    match decideAt f rm s (g p) with
    | some r => r
    | none => ziv f rm s g ps

/-- A magnitude a little below 2^0, and one a little above. -/
def justBelowOne (f : Fmt) (rm : RMode) (s : Bool) : FV × Flags := roundTo f rm s (2 ^ 80 - 1) (-80) true
def justAboveOne (f : Fmt) (rm : RMode) (s : Bool) : FV × Flags := roundTo f rm s (2 ^ 80) (-80) true

/-- The exponent of the top bit of m * 2^e. -/
def topBit (m : Nat) (e : Int) : Int := Nat.log2 m + e

/-- 2^A (R107). -/
def exp2R (f : Fmt) (rm : RMode) (a : FV) : FV × Flags :=
  match a with
  | .nan _ _ => (a.quiet, snan [a])
  | .zero _ => (.fin false 1 0, 0#5)
  | .inf s => (if s then .zero false else .inf false, 0#5)
  | .fin s m e =>
    if topBit m e ≥ 13 then
      roundTo f rm false (2 ^ 80) (if s then -10080 else 9920) true
    else if topBit m e < -90 then (if s then justBelowOne f rm false else justAboveOne f rm false)
    else if e ≥ 0 ∨ m % 2 ^ (-e).toNat = 0 then
      let n : Int := fixed 0 m e
      roundTo f rm false 1 (if s then -n else n) false
    else
      ziv f rm false (fun p =>
        let w := p + guard
        let x := fixed w m e
        let n : Int := x / 2 ^ w
        let fr := x % 2 ^ w
        if s then around w (exp2Frac w (2 ^ w - fr)) (-n - 1) else around w (exp2Frac w fr) n) precisions

/-- log2 A (R107). -/
def log2R (f : Fmt) (rm : RMode) (a : FV) : FV × Flags :=
  match a with
  | .nan _ _ => (a.quiet, snan [a])
  | .zero _ => (.inf true, dz)
  | .inf s => if s then created else (.inf false, 0#5)
  | .fin s m e =>
    if s then created
    else
      let b := Nat.log2 m
      let t := topBit m e
      if m = 2 ^ b then roundFV f rm (ofInt false t 0)
      else
        let neg := decide (t < 0)
        ziv f rm neg (fun p =>
          let w := p + guard
          let l := log2Frac w m b
          if neg then around w ((-t).toNat * 2 ^ w - l) 0 else around w (t.toNat * 2 ^ w + l) 0) precisions

/-- e^-x for x > 0 as a fraction in (1/2, 1] with w fraction bits and the power of two below it. -/
def expNeg (w m : Nat) (e : Int) : Nat × Nat :=
  let y := fixed w m e * 2 ^ w / ln2 w
  let n := y / 2 ^ w
  (exp2Frac w (2 ^ w - y % 2 ^ w) / 2, n)

/-- tanh A (R107). -/
def tanhR (f : Fmt) (rm : RMode) (a : FV) : FV × Flags :=
  match a with
  | .nan _ _ => (a.quiet, snan [a])
  | .zero s => (.zero s, 0#5)
  | .inf s => (.fin s 1 0, 0#5)
  | .fin s m e =>
    if topBit m e ≥ 6 then justBelowOne f rm s
    else if topBit m e < -50 then roundTo f rm s (m * 2 ^ 40 - 1) (e - 40) true
    else
      ziv f rm s (fun p =>
        let w := p + guard
        let (q, n) := expNeg w (2 * m) e
        let q := q >>> n
        around w ((2 ^ w - q) * 2 ^ w / (2 ^ w + q)) 0) precisions

/-- 1 / (1 + e^-A) (R107). -/
def sigR (f : Fmt) (rm : RMode) (a : FV) : FV × Flags :=
  match a with
  | .nan _ _ => (a.quiet, snan [a])
  | .zero _ => (.fin false 1 (-1), 0#5)
  | .inf s => (if s then .zero false else .fin false 1 0, 0#5)
  | .fin s m e =>
    if topBit m e ≥ 13 then (if s then roundTo f rm false (2 ^ 80) (-10080) true else justBelowOne f rm false)
    else if topBit m e < -100 then
      (if s then roundTo f rm false (2 ^ 81 - 1) (-82) true else roundTo f rm false (2 ^ 80) (-81) true)
    else if !s && topBit m e ≥ 7 then justBelowOne f rm false
    else
      ziv f rm false (fun p =>
        let w := p + guard
        let (q, n) := expNeg w m e
        if s then around w (q * 2 ^ w / (2 ^ w + (q >>> n))) (-(n : Int))
        else around w (2 ^ w * 2 ^ w / (2 ^ w + (q >>> n))) 0) precisions

end Sys2Proof.Num
end

