-- ==== Sys2Proof/Machine/Lane.lean ====
section
/-! DEFINITION. The lane operations as functions of their operands (R105 to R123). What an element does besides, with
its markers, state and memory element, is in the fabric's files. -/

namespace Sys2Proof
open Sys2Proof.Num

def ffLane (r : FV × Flags) : Lane × Flags := (packFF r.1, r.2)
def fdPair (r : FV × Flags) : BitVec 72 × Flags := (packFD r.1, r.2)

def ff1 (act : BitVec 8) (a : Opd) (f : FV → FV × Flags) : VReg × Flags :=
  lanewise act a.v (fun i => ffLane (f (unpackFF (a.v.lane i))))

def ff2 (act : BitVec 8) (a b : Opd) (f : FV → FV → FV × Flags) : VReg × Flags :=
  lanewise act a.v (fun i => ffLane (f (unpackFF (a.v.lane i)) (unpackFF (b.v.lane i))))

def ff3 (act : BitVec 8) (a b c : Opd) (f : FV → FV → FV → FV × Flags) : VReg × Flags :=
  lanewise act a.v (fun i => ffLane (f (unpackFF (a.v.lane i)) (unpackFF (b.v.lane i)) (unpackFF (c.v.lane i))))

def fd1 (act : BitVec 8) (a : Opd) (f : FV → FV × Flags) : VReg × Flags :=
  pairwise act a.v (fun p => fdPair (f (unpackFD (a.v.pair p))))

def fd2 (act : BitVec 8) (a b : Opd) (f : FV → FV → FV × Flags) : VReg × Flags :=
  pairwise act a.v (fun p => fdPair (f (unpackFD (a.v.pair p)) (unpackFD (b.v.pair p))))

def fd3 (act : BitVec 8) (a b c : Opd) (f : FV → FV → FV → FV × Flags) : VReg × Flags :=
  pairwise act a.v (fun p => fdPair (f (unpackFD (a.v.pair p)) (unpackFD (b.v.pair p)) (unpackFD (c.v.pair p))))

def int2 (act : BitVec 8) (a b : Opd) (f : BitVec 32 → BitVec 32 → BitVec 32) : VReg × Flags :=
  lanewise act a.v (fun i => (ofI32 (f (i32 (a.v.lane i)) (i32 (b.v.lane i))), 0#5))

/-- x clamped to lo and hi. -/
def clampInt (lo hi x : Int) : Int := if x < lo then lo else if x > hi then hi else x

/-- a + b clamped to the signed range, or to the unsigned range where `n` holds (ISADD, R111). -/
def satAdd32 (n : Bool) (a b : BitVec 32) : BitVec 32 :=
  if n then BitVec.ofInt 32 (clampInt 0 (2 ^ 32 - 1) (a.toNat + b.toNat))
  else BitVec.ofInt 32 (clampInt (-(2 ^ 31)) (2 ^ 31 - 1) (a.toInt + b.toInt))

/-- Bits [63:32] of the product (IMULH). -/
def mulHigh32 (n : Bool) (a b : BitVec 32) : BitVec 32 :=
  if n then (BitVec.ofNat 64 (a.toNat * b.toNat) >>> 32).setWidth 32
  else (BitVec.ofInt 64 (a.toInt * b.toInt) >>> 32).setWidth 32

/-- The condition of ICMP (R109). -/
def icmp (c : Nat) (a b : BitVec 32) : Bool :=
  match c with
  | 0 => a == b
  | 1 => a != b
  | 2 => a.slt b
  | 3 => a.sle b
  | 4 => b.slt a
  | 5 => b.sle a
  | 6 => a.ult b
  | 7 => a.ule b
  | 8 => b.ult a
  | _ => b.ule a

/-- A 0/1 predicate lane (R109). -/
def boolLane (b : Bool) : Lane := if b then 1#36 else 0#36

/-- Compares of R109: `cond` and flags per lane or pair. -/
def compareLanes (pairs : Bool) (act : BitVec 8) (masked : Bool) (a : VReg) (cond : Nat → Bool × Flags) : VReg × Flags :=
  let on (i : Nat) : Bool := if pairs then act.getLsbD (i - i % 2) else act.getLsbD i
  let at' (i : Nat) : Nat := if pairs then i / 2 else i
  (VReg.build (fun i => if on i then boolLane (cond (at' i)).1 else a.lane i)
     (mask8 (fun i => on i && (!masked || (cond (at' i)).1))),
   if pairs then orFlags 4 (fun p => act.getLsbD (2 * p)) (fun p => (cond p).2)
   else orFlags 8 (fun i => act.getLsbD i) (fun i => (cond i).2))

/-- A sum of two results that carries the flags of both (LSUM, R112). -/
def addFl (f : Fmt) (rm : RMode) (x y : FV × Flags) : FV × Flags :=
  let (r, fl) := addR f rm x.1 y.1
  (r, fl ||| x.2 ||| y.2)

/-- The result of a reduction: in lane 0 or pair 0, A's lanes elsewhere; a bubble where no lane is active (R112). -/
def reduced (act : BitVec 8) (kind : LaneKind) (a : VReg) (r : Nat × Flags) : VReg × Flags :=
  let empty := match kind with
    | .fd => (List.range 4).all (fun p => !act.getLsbD (2 * p))
    | _ => act == 0
  if empty then ({ a with lm := 0#8 }, 0#5)
  else
    match kind with
    | .fd => (VReg.build (fun i => if i < 2 then BitVec.ofNat 36 (r.1 >>> (36 * i)) else a.lane i) 0x03#8, r.2)
    | _ => (VReg.build (fun i => if i = 0 then BitVec.ofNat 36 r.1 else a.lane i) 0x01#8, r.2)

def lsum (kind : LaneKind) (rm : RMode) (act : BitVec 8) (a : VReg) : VReg × Flags :=
  match kind with
  | .ff =>
    let x (i : Nat) : FV × Flags := (if act.getLsbD i then unpackFF (a.lane i) else .zero false, 0#5)
    let add := addFl ff36 rm
    let r := add (add (add (x 0) (x 1)) (add (x 2) (x 3))) (add (add (x 4) (x 5)) (add (x 6) (x 7)))
    reduced act .ff a ((packFF r.1).toNat, r.2)
  | .fd =>
    let x (p : Nat) : FV × Flags := (if act.getLsbD (2 * p) then unpackFD (a.pair p) else .zero false, 0#5)
    let add := addFl fd72 rm
    let r := add (add (x 0) (x 1)) (add (x 2) (x 3))
    reduced act .fd a ((packFD r.1).toNat, r.2)
  | .int =>
    let s := (List.range 8).foldl (fun acc i => if act.getLsbD i then acc + i32 (a.lane i) else acc) 0#32
    reduced act .int a ((ofI32 s).toNat, 0#5)

/-- The larger of the active values, by R106; a single active NaN is returned quiet. -/
def maxOf : List FV → FV × Flags
  | [] => (.zero false, 0#5)
  | x :: xs =>
    let r := xs.foldl (fun acc y => let (m, fl) := minMaxR true acc.1 y; (m, acc.2 ||| fl)) (x, snan [x])
    (r.1.quiet, r.2)

def lmax (kind : LaneKind) (act : BitVec 8) (a : VReg) : VReg × Flags :=
  match kind with
  | .ff =>
    let r := maxOf (((List.range 8).filter (fun i => act.getLsbD i)).map (fun i => unpackFF (a.lane i)))
    reduced act .ff a ((packFF r.1).toNat, r.2)
  | .fd =>
    let r := maxOf (((List.range 4).filter (fun p => act.getLsbD (2 * p))).map (fun p => unpackFD (a.pair p)))
    reduced act .fd a ((packFD r.1).toNat, r.2)
  | .int =>
    let xs := ((List.range 8).filter (fun i => act.getLsbD i)).map (fun i => i32 (a.lane i))
    let m := match xs with
      | [] => 0#32
      | x :: t => t.foldl (fun acc y => if acc.slt y then y else acc) x
    reduced act .int a ((ofI32 m).toNat, 0#5)

/-- A token each of whose lanes comes, with its LM bit, from the lane `src` names, or is a masked zero (R99). -/
def travel (src : Nat → Option (VReg × Nat)) : VReg :=
  VReg.build (fun i => match src i with | some (v, j) => v.lane j | none => 0#36)
    (mask8 (fun i => match src i with | some (v, j) => v.lm.getLsbD j | none => false))

/-- LSHIFT: lane i is w[8 + i - s] of B, A, B in a row (R113). -/
def lshiftSrc (a b : VReg) (s : Int) (i : Nat) : Option (VReg × Nat) :=
  let k := (8 + (i : Int) - s).toNat
  if k < 8 then some (b, k) else if k < 16 then some (a, k - 8) else some (b, k - 16)

/-- The signed value of PARAM[3:0]. -/
def shiftCount (p : BitVec 16) : Int := (p.setWidth 4).toInt

/-- The lane map of LPERM: P[3i+2:3i] (R113). -/
def permSrc (w : LaneW) (i : Nat) : Nat :=
  ((w.imm.toNat % 256 * 65536 + w.param.toNat) >>> (3 * i)) % 8

/-- SEL (R110). For FD72 lane 2p of C decides the pair, and the LM bits of both its lanes follow bit 2p of C's LM, where R110's
rule for LM names bit i. DESIGN CHOICE: assumption 85. -/
def selLanes (pairs : Bool) (a b c : VReg) : VReg :=
  let pick (i : Nat) : Nat := if pairs then i - i % 2 else i
  let src (i : Nat) : VReg := if i32 (c.lane (pick i)) != 0 then a else b
  VReg.build (fun i => (src i).lane i) (mask8 (fun i => (src i).lm.getLsbD i && c.lm.getLsbD (pick i)))

/-- The storage float of a CVT FMT code below 7 (R118). -/
def sfloat : Nat → SFloat
  | 0 => .f64
  | 1 => .f32
  | 2 => .f16
  | 3 => .bf16
  | 4 => .f8e4
  | 5 => .f8e5
  | _ => .f4e2

/-- The width in bits of the storage format of code `f` (R118). -/
def storageBits (f : Nat) : Nat :=
  match f with
  | 0 | 10 | 14 => 64
  | 1 | 9 | 13 => 32
  | 2 | 3 | 8 | 12 => 16
  | 4 | 5 | 7 | 11 => 8
  | 6 => 4
  | _ => 0

/-- A 64-bit storage value in a pair: [31:0] in the low lane, [63:32] in the high lane (R118). -/
def pairOf64 (n : Nat) : BitVec 72 :=
  (BitVec.ofNat 72 (n / 2 ^ 32 % 2 ^ 32) <<< 36) ||| BitVec.ofNat 72 (n % 2 ^ 32)

def pairTo64 (p : BitVec 72) : Nat := (p.toNat >>> 36) % 2 ^ 32 * 2 ^ 32 + p.toNat % 2 ^ 32

/-- Two I32 lanes of a pair. -/
def pairOfI32 (lo hi : BitVec 32) : BitVec 72 := (ofI32 hi ++ ofI32 lo : BitVec 72)

/-- An integer storage value as an I32 lane (R86). -/
def intIn (f n : Nat) : Lane :=
  match f with
  | 7 => ofI32 ((BitVec.ofNat 8 n).signExtend 32)
  | 8 => ofI32 ((BitVec.ofNat 16 n).signExtend 32)
  | 11 => ofI32 ((BitVec.ofNat 8 n).setWidth 32)
  | 12 => ofI32 ((BitVec.ofNat 16 n).setWidth 32)
  | _ => ofI32 (BitVec.ofNat 32 n)

/-- An I32 lane as an integer storage value, saturated (R86). -/
def intOut (f : Nat) (l : Lane) : Nat :=
  let x := (i32 l).toInt
  let enc (w : Nat) (v : Int) : Nat := (BitVec.ofInt w v).toNat
  match f with
  | 7 => enc 8 (clampInt (-128) 127 x)
  | 8 => enc 16 (clampInt (-32768) 32767 x)
  | 11 => enc 8 (clampInt 0 255 x)
  | 12 => enc 16 (clampInt 0 65535 x)
  | _ => (i32 l).toNat

/-- The block scale of CVTIN and CVTOUT: bits [7:0] of C's lane 0 where PARAM asks for it, else 127 (R119). -/
def scaleOf (use : Bool) (c : VReg) : Nat := if use then (c.lane 0).toNat % 256 else 127

def cvtin (w : LaneW) (act : BitVec 8) (a c : Opd) : VReg × Flags :=
  let f := w.fmt.toNat
  if f = 0 then
    pairwise act a.v (fun p => fdPair (convIn .f64 127 (pairTo64 (a.v.pair p))))
  else if f ≤ 6 then
    lanewise act a.v (fun i =>
      ffLane (convIn (sfloat f) (scaleOf (w.param.getLsbD 0) c.v) ((a.v.lane i).toNat % 2 ^ storageBits f)))
  else if storageBits f = 64 then
    pairwise act a.v (fun p =>
      let n := pairTo64 (a.v.pair p)
      (pairOfI32 (BitVec.ofNat 32 n) (BitVec.ofNat 32 (n / 2 ^ 32)), 0#5))
  else lanewise act a.v (fun i => (intIn f ((a.v.lane i).toNat % 2 ^ storageBits f), 0#5))

/-- How CVTOUT rounds lane `i`: in mode rm, or with k bits of lane i of B (R119). -/
def outRound (w : LaneW) (rm : RMode) (b : VReg) (i : Nat) : OutRound :=
  if w.rnd == 5 then
    let k := w.param.toNat % 32 + 1
    .sr k ((b.lane i).toNat % 2 ^ k)
  else .mode rm

def cvtout (w : LaneW) (rm : RMode) (act : BitVec 8) (a b c : Opd) : VReg × Flags :=
  let f := w.fmt.toNat
  if f = 0 then
    pairwise act a.v (fun p =>
      let (n, fl) :=
        if w.param.getLsbD 6 then convOut .f64 127 (.mode rm) (unpackFD (a.v.pair p))
        else convOut .f64 127 (.mode .rne) (unpackFF (a.v.lane (2 * p)))
      (pairOf64 n, fl))
  else if f ≤ 6 then
    lanewise act a.v (fun i =>
      let (n, fl) := convOut (sfloat f) (scaleOf (w.param.getLsbD 5) c.v) (outRound w rm b.v i) (unpackFF (a.v.lane i))
      (BitVec.ofNat 36 n, fl))
  else if storageBits f = 64 then
    pairwise act a.v (fun p =>
      (pairOf64 ((i32 (a.v.lane (2 * p + 1))).toNat * 2 ^ 32 + (i32 (a.v.lane (2 * p))).toNat), 0#5))
  else lanewise act a.v (fun i => (BitVec.ofNat 36 (intOut f (a.v.lane i)), 0#5))

/-- CVTFI: the signed or the unsigned range (R86, R120). -/
def cvtfi (n : Bool) (rm : RMode) (x : FV) : Lane × Flags :=
  let (v, fl) := if n then toIntSat rm 0 (2 ^ 32 - 1) x else toIntSat rm (-(2 ^ 31)) (2 ^ 31 - 1) x
  (ofI32 (BitVec.ofInt 32 v), fl)

def cvtif (n : Bool) (rm : RMode) (x : BitVec 32) : Lane × Flags :=
  ffLane (roundFV ff36 rm (ofInt false (if n then (x.toNat : Int) else x.toInt) 0))

/-- CVTFD: exact, NaN quiet (R86, R83). -/
def cvtfd (x : FV) : BitVec 72 × Flags := (packFD x.quiet, snan [x])

def cvtdf (rm : RMode) (x : FV) : FV × Flags :=
  match x with
  | .nan _ _ => (x.quiet, snan [x])
  | x => roundFV ff36 rm x

/-- The extents of CNT (R122). -/
def cntExtent (w : LaneW) (n : Nat) : Nat :=
  match n with
  | 0 => w.param.toNat % 4096 + 1
  | 1 => w.imm.toNat % 4096 + 1
  | _ => w.param.toNat / 4096 * 16 + w.imm.toNat / 4096 + 1

/-- cnt_next of R122 on the indices from level n on; the highest level that wrapped is the number of leading zeros. -/
def cntNext (ext : Nat → Nat) : Nat → List Nat → List Nat
  | _, [] => []
  | n, i :: is => if i + 1 < ext n then (i + 1) :: is else 0 :: cntNext ext (n + 1) is

/-- The token of CNT's indices: lanes 0 to L - 1, LM those bits (R122). -/
def cntToken (idx : List Nat) : VReg :=
  VReg.build (fun i => match idx[i]? with | some n => ofI32 (BitVec.ofNat 32 n) | none => 0#36)
    (mask8 (fun i => decide (i < idx.length)))

def cntVop (w : LaneW) (va : VReg) : VReg :=
  cntToken (cntNext (cntExtent w) 0 ((List.range w.fmt.toNat).map (fun i => (i32 (va.lane i)).toNat)))

/-- Whether B's key comes before A's: A wins ties, a bubble is larger than any key (R123). -/
def kmergeTakesB (n : Bool) (a b : VReg) : Bool :=
  if b.lm == 0 then false
  else if a.lm == 0 then true
  else
    let ka := i32 (a.lane 0)
    let kb := i32 (b.lane 0)
    if n then kb.ult ka else kb.slt ka

/-- One accumulation (R114) onto the state `s`, which stands before the operand in R83's order of NaNs. DESIGN CHOICE: log 96. -/
def accumulate (o : LOp) (rm : RMode) (act : BitVec 8) (s a : VReg) : VReg × Flags :=
  match o with
  | .accd =>
    let (r, fl) := pairwise act s (fun p => fdPair (addR fd72 rm (unpackFD (s.pair p)) (unpackFD (a.pair p))))
    ({ r with lm := pairMask act }, fl)
  | .acci => lanewise act s (fun i => (ofI32 (i32 (s.lane i) + i32 (a.lane i)), 0#5))
  | .accs => lanewise act s (fun i => (ofI32 (satAdd32 false (i32 (s.lane i)) (i32 (a.lane i))), 0#5))
  | _ => lanewise act s (fun i => ffLane (addR ff36 rm (unpackFF (s.lane i)) (unpackFF (a.lane i))))

/-- operation(w, A, B, C, rm) (R102) for every operation that computes a token from its operands alone; `st` is the
accumulator state under VOP (R117) and `va` the register CNT reads (R122). -/
def laneOp (o : LOp) (w : LaneW) (rm : RMode) (a b c : Opd) (st va : VReg) : VReg × Flags :=
  let act := activeSet o w a b c
  let n := w.fmt == 3
  let kind := LaneKind.ofFmt w.fmt.toNat
  match o with
  | .fadd => ff2 act a b (addR ff36 rm)
  | .fsub => ff2 act a b (subR ff36 rm)
  | .fmul => ff2 act a b (mulR ff36 rm)
  | .fma => ff3 act a b c (fmaR ff36 rm false)
  | .fnma => ff3 act a b c (fmaR ff36 rm true)
  | .fmin => ff2 act a b (minMaxR false)
  | .fmax => ff2 act a b (minMaxR true)
  | .fneg => ff1 act a (fun x => (x.neg, 0#5))
  | .fabs => ff1 act a (fun x => (if x.sign then x.neg else x, 0#5))
  | .fdiv => ff2 act a b (divR ff36 rm)
  | .fsqrt => ff1 act a (sqrtR ff36 rm)
  | .frcp => ff1 act a (rcpR ff36 rm)
  | .frsq => ff1 act a (rsqrtR ff36 rm)
  | .fexp2 => ff1 act a (exp2R ff36 rm)
  | .flog2 => ff1 act a (log2R ff36 rm)
  | .ftanh => ff1 act a (tanhR ff36 rm)
  | .fsig => ff1 act a (sigR ff36 rm)
  | .dadd => fd2 act a b (addR fd72 rm)
  | .dsub => fd2 act a b (subR fd72 rm)
  | .dmul => fd2 act a b (mulR fd72 rm)
  | .dfma => fd3 act a b c (fmaR fd72 rm false)
  | .dmin => fd2 act a b (minMaxR false)
  | .dmax => fd2 act a b (minMaxR true)
  | .ddiv => fd2 act a b (divR fd72 rm)
  | .dsqrt => fd1 act a (sqrtR fd72 rm)
  | .fcmp =>
    let cc := w.param.toNat % 16
    compareLanes (kind == .fd) act (w.param.getLsbD 4) a.v (fun i =>
      if kind == .fd then fcmp cc (unpackFD (a.v.pair i)) (unpackFD (b.v.pair i))
      else fcmp cc (unpackFF (a.v.lane i)) (unpackFF (b.v.lane i)))
  | .icmp =>
    compareLanes false act (w.param.getLsbD 4) a.v (fun i =>
      (icmp (w.param.toNat % 16) (i32 (a.v.lane i)) (i32 (b.v.lane i)), 0#5))
  | .sel => (selLanes (kind == .fd) a.v b.v c.v, 0#5)
  | .iadd => int2 act a b (· + ·)
  | .isub => int2 act a b (· - ·)
  | .imul => int2 act a b (· * ·)
  | .imulh => int2 act a b (mulHigh32 n)
  | .imad =>
    lanewise act a.v (fun i => (ofI32 (i32 (a.v.lane i) * i32 (b.v.lane i) + i32 (c.v.lane i)), 0#5))
  | .iand => int2 act a b (· &&& ·)
  | .ior => int2 act a b (· ||| ·)
  | .ixor => int2 act a b (· ^^^ ·)
  | .ishl => int2 act a b (fun x y => x <<< (y.toNat % 32))
  | .ishr => int2 act a b (fun x y => x >>> (y.toNat % 32))
  | .isar => int2 act a b (fun x y => x.sshiftRight (y.toNat % 32))
  | .imin => int2 act a b (fun x y => if y.slt x then y else x)
  | .imax => int2 act a b (fun x y => if x.slt y then y else x)
  | .iminn => int2 act a b (fun x y => if y.ult x then y else x)
  | .imaxn => int2 act a b (fun x y => if x.ult y then y else x)
  | .isadd => int2 act a b (satAdd32 n)
  | .iabs => lanewise act a.v (fun i => (ofI32 (let x := i32 (a.v.lane i); if x.msb then -x else x), 0#5))
  | .lsum => lsum kind rm act a.v
  | .lmax => lmax kind act a.v
  | .lperm => (travel (fun i => some (a.v, permSrc w i)), 0#5)
  | .lbcast => (travel (fun _ => some (a.v, w.param.toNat % 8)), 0#5)
  | .lshift => (travel (lshiftSrc a.v b.v (shiftCount w.param)), 0#5)
  | .lins => (travel (fun i => if i = w.param.toNat % 8 then some (b.v, 0) else some (a.v, i)), 0#5)
  | .lext => (travel (fun i => if i = 0 then some (a.v, w.param.toNat % 8) else none), 0#5)
  | .accf | .accd | .acci | .accs =>
    let act := a.act
    let (r, fl) := accumulate o rm act st a.v
    ({ r with lm := st.lm ||| (if o == .accd then pairMask act else act) }, fl)
  | .cvtin => cvtin w act a c
  | .cvtout => cvtout w rm act a b c
  | .cvtfi => lanewise act a.v (fun i => cvtfi n rm (unpackFF (a.v.lane i)))
  | .cvtif => lanewise act a.v (fun i => cvtif n rm (i32 (a.v.lane i)))
  | .cvtfd => pairwise act a.v (fun p => cvtfd (unpackFF (a.v.lane (2 * p))))
  | .cvtdf =>
    let (r, fl) := pairwise act a.v (fun p =>
      let (l, fl) := ffLane (cvtdf rm (unpackFD (a.v.pair p)))
      (l.setWidth 72, fl))
    ({ r with lm := r.lm &&& 0x55#8 }, fl)
  | .pass => (a.v, 0#5)
  | .zip =>
    (travel (fun i =>
      if w.fmt == 0 then some (if i % 2 = 0 then a.v else b.v, i / 2)
      else if i < 4 then some (a.v, i) else some (b.v, i - 4)), 0#5)
  | .unzip =>
    let h := w.param.toNat % 2
    (travel (fun i => if 4 ≤ i then none else some (a.v, if w.fmt == 0 then 2 * i + h else i + 4 * h)), 0#5)
  | .cnt => (cntVop w va, 0#5)
  | .kmerge => (if kmergeTakesB n a.v b.v then b.v else a.v, 0#5)
  | .lut | .madd | .msadd | .mfadd | .mmin | .mmax | .mswap | .panq => (a.v, 0#5)

end Sys2Proof
end

