-- ==== Sys2Proof/Machine/Typing.lean ====
section
/-! DEFINITION. The order types of an image, its reorder stores and window buffers (R188 to R193, R202, R241, R349), and
the plan that the loader makes of an image that passes R179. -/

namespace Sys2Proof.Machine

/-- The TYPE code of a lane kind (R182). -/
def kindType : LaneKind → Nat
  | .ff => 0
  | .fd => 1
  | .int => 2

/-- The TYPE that an operation reads at operand `pos`; none where it reads any (R189, R191). -/
def readType (o : LOp) (w : LaneW) (pos : Nat) : Option Nat :=
  let wide := decide (w.fmt = 0 ∨ w.fmt = 10 ∨ w.fmt = 14)
  match o with
  | .zip | .unzip => none
  | .cvtin => if pos = 0 ∧ wide then some 1 else some 2
  | .cvtout =>
    if pos ≠ 0 then some 2
    else if w.fmt = 0 then (if w.param.getLsbD 6 then some 1 else some 0)
    else if w.fmt ≤ 6 then some 0
    else if wide then some 1 else some 2
  | _ => some (kindType (operandKind o w pos))

/-- The TYPE of the result; none where it is the input's (R189). -/
def resultType (o : LOp) (w : LaneW) : Option Nat :=
  match o with
  | .zip | .unzip => none
  | .fcmp | .icmp | .cvtfi | .cnt | .lut | .kmerge => some 2
  | .cvtfd => some 1
  | .cvtdf | .cvtif | .mfadd => some 0
  | .cvtin => if w.fmt = 0 ∨ w.fmt = 10 ∨ w.fmt = 14 then some 1 else if w.fmt ≤ 6 then some 0 else some 2
  | .cvtout => if w.fmt = 0 ∨ w.fmt = 10 ∨ w.fmt = 14 then some 1 else some 2
  | .madd | .msadd | .mmin | .mmax | .mswap => some 2
  | _ => some (kindType (operandKind o w 0))

/-- The TYPE at a port of an AG stream (R118, R173). -/
def portType (sfmt : Nat) : Nat := if sfmt = 0 ∨ sfmt = 10 ∨ sfmt = 14 then 1 else if sfmt ≤ 6 then 0 else 2

/-- The types as R193 compares them: without LANES. -/
def OD.same (a b : OD) : Bool := a.ty = b.ty && a.rank = b.rank && a.lv = b.lv

/-- Cycle level 1 made ragged (R193). -/
def raggedFirst : List Level → List Level
  | [] => []
  | l :: ls => if l.lane then l :: raggedFirst ls else { l with rag := true } :: ls

/-- For each level, the product of the extents of the levels inside it that name its dimension (R185). -/
def weights (lv : List Level) : List (Level × Nat) :=
  lv.zipIdx.map (fun p => (p.1, extOf (lv.take p.2) p.1.dim))

/-- What lane `k` adds to the coordinates of its element. -/
def laneDigits (lv : List Level) (k : Nat) : List Nat :=
  go (weights lv) k [0, 0, 0, 0]
where
  go : List (Level × Nat) → Nat → List Nat → List Nat
    | [], _, acc => acc
    | (l, w) :: ls, k, acc =>
      if l.lane then go ls (k / l.ext) (acc.set l.dim (acc.getD l.dim 0 + k % l.ext * w)) else go ls k acc

/-- LPERM's check of a declared output (R190). -/
def permMatches (w : LaneW) (t d : OD) : Bool :=
  t.ty = d.ty && t.rank = d.rank && t.laneCount = d.laneCount
    && (weights t.lv).filter (fun p => !p.1.lane) = (weights d.lv).filter (fun p => !p.1.lane)
    && (List.range t.laneCount).all (fun i => laneDigits d.lv i = laneDigits t.lv (permSrc w i))

/-- The first cycle level of a list, if it has one, with the others. -/
def firstCycle : List Level → Option (List Level × Level × List Level)
  | [] => none
  | l :: ls => if l.lane then (firstCycle ls).map (fun r => (l :: r.1, r.2.1, r.2.2)) else some ([], l, ls)

/-- The output type that R189 to R192 derive, from the types at the inputs read; `decl` is the declared output. -/
def outType (o : LOp) (w : LaneW) (t : OD) (other : Option OD) (decl : Option OD) : Except CF (Option OD) :=
  let ty := (resultType o w).getD t.ty
  match o with
  | .panq => .ok none
  | .lbcast | .lshift | .lins | .lext =>
    match decl with
    | some d => .ok (some d)
    | none => .error .type
  | .lperm =>
    let n := t.laneCount
    let p := (List.range n).map (permSrc w)
    if !((List.range n).all (fun i => p.contains i)) then .error .dim
    else match decl with
      | some d => if d.ty ≠ ty then .error .type else if permMatches w t d then .ok (some d) else .error .dim
      | none => if p = List.range n then .ok (some t) else .error .dim
  | .zip =>
    match other, decl with
    | some u, some d =>
      let pos := if w.fmt = 0 then 0 else t.laneLv.length
      if w.fmt = 0 ∧ t.ty = 1 then .error .type
      else if u.same t ∧ t.laneCount ≤ (if t.ty = 1 then 2 else 4) ∧ !t.laneLv.any (·.rag)
          ∧ d.lv.eraseIdx pos = t.lv ∧ d.lv.length = t.lv.length + 1
          ∧ (d.lv[pos]?.map (fun l => l.lane && !l.rag && l.ext == 2)) = some true then
        .ok (some { t with lanes := d.lanes, lv := d.lv })
      else .error .dim
    | _, _ => .error .dim
  | .unzip =>
    let pos := if w.fmt = 0 then 0 else t.laneLv.length - 1
    if w.fmt = 0 ∧ t.ty = 1 then .error .type
    else if t.laneLv ≠ [] ∧ (t.lv[pos]?.map (fun l => l.lane && !l.rag && l.ext == 2)) = some true then
      .ok (some { t with lanes := max 1 (t.lanes / 2), lv := t.lv.eraseIdx pos })
    else .error .dim
  | .kmerge =>
    match firstCycle t.lv, other.bind (fun u => firstCycle u.lv), other with
    | some (a, l, b), some (a', l', b'), some u =>
      if a ≠ a' ∨ b ≠ b' ∨ l.dim ≠ l'.dim ∨ t.rank ≠ u.rank then .error .dim
      else if 4096 < l.ext + l'.ext then .error .ext
      else .ok (some { t with lanes := max t.lanes u.lanes,
                              lv := a ++ { l with rag := true, ext := l.ext + l'.ext } :: b })
    | _, _, _ => .error .dim
  | .accf | .accd | .acci | .accs =>
    let e := w.emit.toNat
    if e = 0 then .ok none
    else .ok (some { t with lv := t.laneLv ++ (if e = 7 then [] else t.cycles.drop e) })
  | .lsum | .lmax => .ok (some { t with lanes := 1, lv := t.cycles })
  | .cvtfd | .cvtdf => if t.laneLv = [] then .ok (some { t with ty := ty, lanes := 1 }) else .error .dim
  | .cvtout =>
    if w.fmt = 0 ∧ !w.param.getLsbD 6 then
      (if t.laneLv = [] then .ok (some { t with ty := ty, lanes := 1 }) else .error .dim)
    else .ok (some { t with ty := ty })
  | _ => .ok (some { t with ty := ty })

/-- The extents of a CNT element (R122, R188). -/
def cntExtents (w : LaneW) : List Nat := (List.range w.fmt.toNat).map (cntExtent w)

def cntType (w : LaneW) (decl : Option OD) : Except CF OD :=
  let ext := cntExtents w
  match decl with
  | none =>
    .ok { ty := 2, rank := ext.length, lanes := ext.length,
          lv := ext.zipIdx.map (fun p => { dim := p.2, lane := false, rag := false, ext := p.1 }) }
  | some d =>
    if d.ty ≠ 2 then .error .type
    else if d.laneLv ≠ [] ∨ d.lv.map (·.ext) ≠ ext then .error .ext
    else .ok d

/-- A derived output against its declaration (R188). -/
def checkDecl (t d : OD) : Except CF OD :=
  match connect t d with
  | .direct => .ok d
  | .refused .type => .error .type
  | .refused .ext => .error .ext
  | _ => .error .dim

/-- A connection that needs a store. -/
structure Pending where
  dst    : Nat
  dport  : Nat
  p      : OD
  c      : OD
  shared : List Level
  bp     : List Level
  bc     : List Level
  sect   : Nat
  idx    : Nat
  deriving DecidableEq, Repr

/-- The typing state: each unit's output and first-input type, the stores wanted and the failures. -/
structure Typed where
  outs  : Map OD
  ins   : Map OD
  pend  : List Pending
  fails : List Refuse
  deriving DecidableEq, Repr

def Image.declOf (im : Image) (e : ElemRec) (port : Nat) : Option (OD × Nat) :=
  let str := if e.kind = 2 then (portDecl e.word).stream else 0
  (im.ords.zipIdx.find? (fun p => p.1.x = e.x && p.1.y = e.y && p.1.port = port && p.1.str = str)).map
    (fun p => (p.1.od, p.2))

/-- The type that arrives at an input. -/
def arriving (im : Image) (t : Typed) (u port : Nat) : Option OD :=
  (im.conns.find? (fun c => c.dst = u && c.dport = port)).bind (fun c => t.outs.find? c.src)

def Typed.fail (t : Typed) (c : CF) (sect idx : Nat) : Typed :=
  { t with fails := t.fails ++ [{ code := c, sect := sect, idx := idx }] }

/-- Check the connection into an input against consumer type `c` (R194). -/
def linkTo (im : Image) (t : Typed) (u port : Nat) (c : OD) (sect idx : Nat) : Typed :=
  match arriving im t u port with
  | none => t
  | some p =>
    match connect p c with
    | .direct => t
    | .refused e => t.fail e sect idx
    | .store sh bp bc =>
      { t with pend := t.pend ++ [{ dst := u, dport := port, p := p, c := c, shared := sh, bp := bp, bc := bc,
                                    sect := sect, idx := idx }] }

/-- The record that names a port: its declaration, or its element. -/
def naming (d : Option (OD × Nat)) (u : Nat) : Nat × Nat :=
  match d with
  | some (_, i) => (4, i)
  | none => (1, u)

/-- Type an AG stream (R188, R279). -/
def typeAg (im : Image) (t : Typed) (u : Nat) (e : ElemRec) : Typed :=
  let p := portDecl e.word
  match im.declOf e (if p.out then 0 else 3) with
  | none => t.fail .type 1 u
  | some (d, i) =>
    if d.ty ≠ portType p.sfmt then t.fail .type 4 i
    else if p.out then { linkTo im t u 0 d 4 i with ins := t.ins.put u d }
    else
      let t := { t with outs := t.outs.put u d }
      match arriving im t u 0 with
      | some q => if q.ty ≠ 0 then t.fail .type 1 u else { t with ins := t.ins.put u q }
      | none => t

/-- Type a router operator (R193); `back` gives the LANES that arrive at the f of each CARRY. Where a producer has no type, its own
failure is reported. -/
def typeRop (im : Image) (back : Map Nat) (t : Typed) (u : Nat) (o : RopRec) : Typed :=
  let i := u - im.elems.length
  let set (d : OD) (t : Typed) : Typed := { t with ins := t.ins.put u d, outs := t.outs.put u d }
  let predOk (d : OD) : Bool := match arriving im t u 1 with
    | some p => p.ty = 2 && p.rank = d.rank && p.cycles = d.cycles
    | none => true
  match o.op, arriving im t u 0 with
  | 2, some d =>
    match arriving im t u 2 with
    | some x => if d.same x ∧ (o.mode = 1 ∨ predOk d) then set { d with lanes := max d.lanes x.lanes } t
                else t.fail .dim 3 i
    | none => t
  | 3, some d => set { d with lanes := max d.lanes (back.getD u 0) } t
  | _, some d =>
    if predOk d then { t with ins := t.ins.put u d, outs := t.outs.put u { d with lv := raggedFirst d.lv } }
    else t.fail .dim 3 i
  | _, none => t

/-- Type the inputs of an element: the first sets the input type, the others follow it (R189). PANQ's input takes TYPE 0 at any
levels (R337). -/
def typeInputs (im : Image) (u : Nat) (e : ElemRec) (o : LOp) (w : LaneW) :
    List Nat → Typed → Option OD → Option OD → Typed × Option OD × Option OD
  | [], t, first, other => (t, first, other)
  | port :: ports, t, first, other =>
    let d := im.declOf e port
    let n := naming d u
    let wants := ((inputSels o w).filter (fun s => s.2 = port)).map (fun s => readType o w s.1)
    let free := o = .panq
    let ty? : Option OD := match d, first with
      | some (x, _), _ => some x
      | none, some f =>
        if o = .kmerge ∨ o = .zip then arriving im t u port
        else some { f with ty := (wants.head?.join).getD f.ty }
      | none, none => arriving im t u port
    match ty? with
    | none => (t, none, none)
    | some ty =>
      let t := if !free then linkTo im t u port ty n.1 n.2
        else if (arriving im t u port).any (fun p => p.ty ≠ 0) then t.fail .type n.1 n.2 else t
      let t := if wants.any (fun x => x.isSome && x ≠ some ty.ty) then t.fail .type n.1 n.2 else t
      let t := match first with
        | some f => if o ≠ .kmerge ∧ o ≠ .zip ∧ (f.lv ≠ ty.lv ∨ f.rank ≠ ty.rank) then t.fail .dim n.1 n.2 else t
        | none => t
      match first with
      | none => typeInputs im u e o w ports t (some ty) other
      | some f => typeInputs im u e o w ports t (some f) (some ty)

/-- Type an element (R188, R189). A BE that receives has the type that its record declares, which must match the lane type of its PASS
(R184); one that declares none is refused. DESIGN CHOICE: log 49. -/
def typeElem (im : Image) (t : Typed) (u : Nat) (e : ElemRec) : Typed :=
  match e.op with
  | none => t
  | some (o, w) =>
    let d := im.declOf e 3
    let n := naming d u
    if o = .cnt then
      match cntType w (d.map (·.1)) with
      | .ok ty => { t with outs := t.outs.put u ty }
      | .error c => t.fail c n.1 n.2
    else if e.kind = 3 ∧ !e.ldir then
      match d with
      | some (ty, i) => if resultType o w = some ty.ty then { t with outs := t.outs.put u ty } else t.fail .type 4 i
      | none => t.fail .type 1 u
    else
      let (t, first, other) := typeInputs im u e o w ([0, 1, 2].filter (Unit'.elem e).inputs.contains) t none none
      match first with
      | none => t
      | some f =>
        let t := { t with ins := t.ins.put u f }
        -- a ZIP or KMERGE may name one input twice (R95)
        let other := if (inputSels o w).length = 2 then other.orElse (fun _ => first) else other
        match outType o w f other (d.map (·.1)) with
        | .error c => t.fail c n.1 n.2
        | .ok none => t
        | .ok (some ty) =>
          match d with
          | none => { t with outs := t.outs.put u ty }
          | some (x, i) =>
            match checkDecl ty x with
            | .ok x => { t with outs := t.outs.put u x }
            | .error c => t.fail c 4 i

/-- The descriptors that R184 refuses by themselves. -/
def orderFails (im : Image) : List Refuse := failures 4 im.ords (fun o => if o.od.ok then none else some .type)

/-- The types of a whole image but for CARRY's feedback (R188). -/
def typePass (im : Image) (back : Map Nat) : Typed :=
  let t0 : Typed := { outs := [], ins := [], pend := [], fails := [] }
  im.topo.foldl (fun (t : Typed) (u : Nat) => match im.units[u]? with
    | some (.elem e) => if e.kind = 2 then typeAg im t u e else typeElem im t u e
    | some (.rop o) => typeRop im back t u o
    | none => t) t0

/-- The CARRYs of an image, by unit. -/
def Image.carries (im : Image) : List Nat :=
  (im.rops.zipIdx.filter (fun p => p.1.op = 3)).map (fun p => im.elems.length + p.2)

/-- The types of a whole image, and CARRY's feedback (R164, R188, R193). The LANES of a CARRY's output, the larger of i's and f's,
follow from a pass for each CARRY. -/
def typeImage (im : Image) : Typed :=
  let carries := im.carries
  let back := carries.foldl (fun back _ =>
    let t := typePass im back
    carries.foldl (fun m u => m.put u (((arriving im t u 2).map (·.lanes)).getD 0)) back) []
  let t := typePass im back
  carries.foldl (fun t u =>
    match t.outs.find? u, arriving im t u 2 with
    | some d, some f => if d.same f then t else t.fail .dim 3 (u - im.elems.length)
    | _, _ => t) t

/-! ### Stores, buffers and the plan -/

/-- A reorder store of the plan, on input `dport` of unit `dst` (R196, R202). -/
structure StorePlan where
  dst    : Nat
  dport  : Nat
  ty     : Nat
  shared : List Level
  bp     : List Level
  bc     : List Level
  slots  : Nat
  mes    : List (Nat × Nat)
  deriving DecidableEq, Repr

/-- What the loader makes of an image for one region: the circuits, stores, window buffers (unit and ME site) and
types. -/
structure Plan where
  img    : Image
  conns  : List Conn
  stores : List StorePlan
  bufs   : List (Nat × (Nat × Nat))
  ins    : Map OD
  outs   : Map OD
  topo   : List Nat
  deriving DecidableEq, Repr

/-- Insertion into a list kept in rising order of a key. -/
def insertBy {α : Type} (key : α → Nat) (x : α) : List α → List α
  | [] => [x]
  | y :: ys => if key x < key y then x :: y :: ys else y :: insertBy key x ys

def sortBy {α : Type} (key : α → Nat) (l : List α) : List α := l.foldl (fun acc x => insertBy key x acc) []

/-- The MEs of the region at (ox, oy), as relative sites. -/
def regionMes (shape ox oy : Nat) : List (Nat × Nat) :=
  let (w, h) := shapeSize shape
  (List.range h).flatMap (fun y => ((List.range w).filter (fun x => siteKind (ox + x) (oy + y) = 1)).map (fun x => (x, y)))

/-- The MEs that no element record names and no data block writes. -/
def Image.freeMes (im : Image) (ox oy : Nat) : List (Nat × Nat) :=
  (regionMes im.shape ox oy).filter (fun m =>
    !im.elems.any (fun e => (e.x, e.y) = m) && !im.mes.any (fun b => (b.x, b.y) = m))

/-- Order by router distance to a site, then by lower y, then by lower x (R202, R349). -/
def byDistance (site : Nat × Nat) (l : List (Nat × Nat)) : List (Nat × Nat) :=
  sortBy (fun m => (dist m site * 64 + m.2) * 64 + m.1) l

/-- Place the stores in the order of the connections (R202). -/
def placeStores (im : Image) (ox oy : Nat) : List Pending → List StorePlan → List (Nat × Nat × Nat) →
    Except Refuse (List StorePlan)
  | [], acc, _ => .ok acc
  | p :: ps, acc, tracks =>
    let size := storeSize p.p.ty p.bp p.bc
    let no (c : CF) : Except Refuse (List StorePlan) := .error { code := c, sect := p.sect, idx := p.idx }
    if 4 * 28672 < size then no .size
    else
      let n := max 1 ((size + 28671) / 28672)
      let site := ((im.units[p.dst]?).map Unit'.site).getD (0, 0)
      let used := acc.flatMap (·.mes)
      let cand := byDistance site ((im.freeMes ox oy).filter (fun m => !used.contains m && dist m site ≤ 2))
      if cand.length < n then no .place
      else
        let mes := cand.take n
        let src := ((im.conns.find? (fun c => c.dst = p.dst && c.dport = p.dport)).bind
          (fun c => (im.units[c.src]?).map Unit'.site)).getD (0, 0)
        let m := mes.headD (0, 0)
        let tr := (path src site).foldl (fun l s => l.erase s) tracks ++ path src m ++ path m site
        if overTracks tr then no .place
        else
          let st : StorePlan := { dst := p.dst, dport := p.dport, ty := p.p.ty, shared := p.shared, bp := p.bp,
                                  bc := p.bc, slots := size, mes := mes }
          placeStores im ox oy ps (acc ++ [st]) tr

/-- The window-buffer entries that one input token of a sink can take; none where the unit makes no buffered write
(R349). -/
def bufferNeed (im : Image) (ins : Map OD) (u : Nat) : Option Nat :=
  let lanes := ((ins.find? u).map OD.laneCount).getD 8
  match im.units[u]? with
  | some (.elem e) =>
    if e.kind = 2 then (if (portDecl e.word).out then some (lanes + (if (portDecl e.word).bs then 1 else 0)) else none)
    else match e.op with
      | some (o, _) => if o.isRmw then some (2 * lanes) else none
      | none => none
  | _ => none

/-- Place the window buffers of the sinks, in section order (R241, R349). -/
def placeBufs (im : Image) (ins : Map OD) (free : List (Nat × Nat)) : List Nat → List (Nat × (Nat × Nat)) →
    Except Refuse (List (Nat × (Nat × Nat)))
  | [], acc => .ok acc
  | u :: us, acc =>
    match bufferNeed im ins u with
    | none => placeBufs im ins free us acc
    | some n =>
      let e := im.elems[u]?
      let p := e.map (fun e => portDecl e.word)
      let big := (e.map (·.kind)) = some 2 ∧ (p.map (fun p => p.bs && decide (63 < p.burst))) = some true
      if big ∨ 4096 < im.mper * n then .error { code := .size, sect := 1, idx := u }
      else
        let site := (e.map (fun e => (e.x, e.y))).getD (0, 0)
        match (byDistance site free).find? (fun m => (acc.filter (fun b => b.2 = m)).length < 4) with
        | some m => placeBufs im ins free us (acc ++ [(u, m)])
        | none => .error { code := .place, sect := 1, idx := u }

/-- R179 steps 4 to 7 for an image on the region at (ox, oy). -/
def planOn (im : Image) (ox oy : Nat) : Except Refuse Plan :=
  let now (l : List Refuse) (k : Except Refuse Plan) : Except Refuse Plan := match firstFail l with
    | some r => .error r
    | none => k
  now (structureFails im) (now (cycleFails im) (now (trackFails im) (now (orderFails im) (
    let t := typeImage im
    now t.fails (
      let tracks := im.routes.flatMap (fun r => r.br.flatMap (fun b => path (r.sx, r.sy) (b.dx, b.dy)))
      match placeStores im ox oy t.pend [] tracks with
      | .error r => .error r
      | .ok stores =>
        let held := stores.flatMap (·.mes)
        let free := (im.freeMes ox oy).filter (fun m => !held.contains m)
        match placeBufs im t.ins free (List.range im.elems.length) [] with
        | .error r => .error r
        | .ok bufs =>
          .ok { img := im, conns := im.conns, stores := stores, bufs := bufs, ins := t.ins, outs := t.outs,
                topo := im.topo })))))

/-- Every check of R179 from step 3 on. -/
def checkImage (im : Image) (ox oy : Nat) : Except Refuse Plan :=
  match firstFail (misplaced im ox oy) with
  | some r => .error r
  | none => planOn im ox oy

end Sys2Proof.Machine
end

