-- ==== Sys2Proof/Machine/FabricTypes.lean ====
section
/-! DEFINITION. The state of placed residencies (R90, R150 to R166, R180, R196 to R201, R236 to R242, R346 to R353) and of
the master distributor's tables (R210, R213), as plain data. -/

namespace Sys2Proof.Machine

/-- A word of a channel: a token, a cut-only word or a switch marker (R150, R181, R431). -/
inductive ChWord where
  | tok (t : Token)
  | cutOnly
  | switch
  deriving DecidableEq, Repr

/-- The stall counters and the II-excess log of an element with FIRES (R155, R387). -/
structure Stalls where
  empty  : BitVec 32
  full   : BitVec 32
  blame  : BitVec 2
  excess : List (BitVec 32)
  /-- The cycles of the interval under way charged to a, b, c and o so far; its firing adds them to `excess`. -/
  extra  : List Nat
  worst  : BitVec 32
  wfir   : BitVec 32
  fires  : BitVec 32
  deriving DecidableEq, Repr

/-- What a cut saves of an element or operator, beside its logged tokens (R348). -/
structure UnitCore where
  /-- Results in the pipeline and the output queue, oldest first (R154), and the words that have entered it since the
  configuration started. -/
  out    : List ChWord
  words  : Nat
  /-- The last emitted token, read as ST (R95). -/
  st     : VReg
  /-- An accumulator's state, with its touched mask as LM, and whether its next firing opens a run (R114). -/
  acc    : VReg
  fresh  : Bool
  /-- KMERGE's open flags and recorded ENDs (R123). -/
  openA  : Bool
  openB  : Bool
  endA   : Nat
  endB   : Nat
  /-- CNT's position in the pass under way, whether a pass is under way (R122), and the gos that a leaf has taken up
  (R165). -/
  cnt    : Nat
  pass   : Bool
  begun  : Nat
  sticky : Flags
  stalls : Stalls
  /-- CARRY's phase LOOP, MERGE's last-taken x1 and the predicate it has consumed (R162, R163). -/
  loop   : Bool
  last1  : Bool
  pred   : Option Bool
  /-- The cuts that a router operator has passed on each output (R347). -/
  outCuts : List Nat
  /-- Firings and results since the configuration started, and the cycles since the last firing (R152, R348). -/
  fires  : Nat
  age    : Option Nat
  outOrd : Nat
  /-- Cuts delivered at each input, and inputs that have delivered EOS (R346, R347). -/
  cuts   : List Nat
  eos    : List Bool
  /-- Inputs that have delivered an EOS at some time since the configuration started (R155). -/
  endedAt : List Bool
  /-- An EOS has been consumed since the configuration started (R218). -/
  ended  : Bool
  /-- The last cut saved. -/
  cut    : Nat
  /-- A source's tokens since its last cut (R346), and whether that cut stands on a boundary (R369). -/
  since  : Nat
  bound  : Bool
  deriving DecidableEq, Repr

/-- A saved cut of a unit: its number, its state and the tokens logged at each input (R347). -/
structure Save where
  k    : Nat
  core : UnitCore
  logs : List (List ChWord)
  deriving DecidableEq, Repr

/-- An entry of a window buffer (R349): a write of `n` bytes, of a half byte, a crystal add or an aperture write, with
the window it belongs to, its address and the element it is of. -/
inductive BufOp where
  | write (n : Nat) (v : Nat)
  | half  (odd : Bool) (v : Nat)
  | add   (fmt : Nat) (v : Lane)
  | reg   (n : Nat) (v : Nat)
  deriving DecidableEq, Repr

structure BufEntry where
  win : Nat
  pa  : Nat
  va  : Nat
  k   : Nat
  op  : BufOp
  deriving DecidableEq, Repr

/-- An undo entry of a read-modify-write element (R350). -/
structure Undo where
  win  : Nat
  word : Nat
  old  : Nat
  full : Bool
  deriving DecidableEq, Repr

/-- A read-modify-write firing under way: its next lane, the old values of the lanes before it and their flags (R126). -/
structure LaneRun where
  next  : Nat
  olds  : List (Option Lane)
  flags : Flags
  deriving DecidableEq, Repr

/-- A unit of a placed residency. -/
structure UnitSt where
  core  : UnitCore
  /-- The words at inputs a, b and c, oldest first: the register and, after a rollback, the words put in front. -/
  inp   : List (List ChWord)
  /-- Of them, those that a rollback has put in front. -/
  again : List Nat
  saves : List Save
  /-- The last cut asked of a source, or by a sink with a full window buffer (R310, R346, R349). -/
  cutTo  : Nat
  buf   : List BufEntry
  undo  : List Undo
  run   : LaneRun
  /-- The switch has reached the unit, and it has taken its shadow word (R181). -/
  switched : Bool
  deriving DecidableEq, Repr

/-- A pattern (R294). -/
structure Pattern where
  base  : Nat
  dims  : List (Nat × Int)
  scale : Nat
  kind  : Nat
  tile  : Option Nat
  deriving DecidableEq, Repr

/-- A usable crystal-region descriptor (R267). -/
structure Region where
  base : Nat
  d    : Nat
  l    : Nat
  f    : Nat
  t    : Nat
  ef   : Nat
  res  : List Nat
  deriving DecidableEq, Repr

/-- What a stream is bound to (R278, R299). -/
inductive Binding where
  | pattern (p : Pattern)
  | grid (r : Region)
  deriving DecidableEq, Repr

/-- What a cut saves of a stream (R348). -/
structure StreamCore where
  bound  : Option Binding
  /-- The pattern element next to be issued; the word of a query next to be read, counted over the queries of the pass, or the
  add of the query under way next to be issued (R279, R280). -/
  issued : Nat
  /-- Tokens delivered or taken in this pass (R237), and the bursts of the binding's earlier passes (R240). -/
  tokens : Nat
  bursts : Nat
  gen    : BitVec 32
  /-- A pass is under way. -/
  active : Bool
  /-- The tokens taken of the burst under way of a writing stream (R241) or of a scatter stream's query (R280); the queries
  of a lookup stream that are not answered whole, oldest first (R238, R279). -/
  held   : List Token
  deriving DecidableEq, Repr

/-- An AG stream (R236 to R242). -/
structure StreamSt where
  /-- The command that bound it and waits for the end of its first pass (R299). -/
  cmd    : Option Nat
  core   : StreamCore
  /-- Answers not delivered yet: element e at 2e, the scale of burst b at 2b + 1 (R238). -/
  answers : Map Nat
  entry   : Option TlbEntry
  walking : Bool
  saves   : List (Nat × StreamCore)
  /-- Stopped by a memory-port fault (R242, R358). -/
  frozen  : Bool
  /-- The first pass has ended: its writes that are still in the window buffer (R299). -/
  left    : Option Nat
  /-- For each pass that has ended and whose writes are not all performed: its writes that are still in the window buffer
  (R252). -/
  ends    : List Nat
  /-- Writes that a peer has refused, which go back into the window buffer when the stream goes on (R358, R404). -/
  back    : List BufEntry
  /-- After a rollback into a pass of an earlier binding: the binding that follows it. -/
  next    : Option Binding
  deriving DecidableEq, Repr

/-- One branch of a circuit, or the part of it on one side of a store: the slack buffer at its source and its hop stages
(R157, R158). -/
structure BranchSt where
  slack : List ChWord
  hops  : List (Option ChWord)
  deriving DecidableEq, Repr

/-- A live slot of a reorder store: block number, element of the block, lane and LM bit (R197). -/
structure SlotVal where
  block : Nat
  elem  : Nat
  lane  : BitVec 72
  set   : Bool
  deriving DecidableEq, Repr

/-- What a cut saves of a reorder store (R201). -/
structure StoreCore where
  slots  : Map SlotVal
  /-- Producer block and token next to be written, and the cuts and PRB that the block has taken so far. -/
  wblock : Nat
  wtok   : Nat
  wcuts  : Nat
  wprb   : Bool
  /-- The places of the block in the shared levels, the innermost first (R200). -/
  wpos   : List Nat
  /-- Write positions that follow the producer's tokens of the cuts not saved yet (R201). -/
  marks  : List (Nat × Nat × List Nat)
  /-- Blocks written whole and not read whole: the shared levels that end with the block, or 7 for EOS, its cuts and PRB (R199), and
  whether a bubble stood for an empty run of a ragged shared level in its place (R200). -/
  closed : Map (Nat × Nat × Bool × Bool)
  /-- Consumer block and token next to be read. -/
  rblock : Nat
  rtok   : Nat
  out    : List ChWord
  cut    : Nat
  eos    : Bool
  outOrd : Nat
  deriving DecidableEq, Repr

structure StoreSt where
  core  : StoreCore
  inp   : List ChWord
  /-- Tokens consumed of its output channel (R383). -/
  eaten : Nat
  /-- From the store's output to the consumer's input. -/
  tail  : BranchSt
  saves : List (Nat × StoreCore)
  deriving DecidableEq, Repr

/-- A controller node (R165, R166): gos carried out, and per child, in order, the gos given and the dones received since
the configuration started. -/
structure NodeSt where
  ended    : Nat
  started  : List Nat
  finished : List Nat
  deriving DecidableEq, Repr

/-- A record that waits for its slot (R342): its bytes 0 to 95 and the fields of its trailer. -/
structure PendRec where
  body  : List Byte
  cls   : Nat
  cause : Nat
  owner : Nat
  /-- The region that stays stopped, with the stream concerned. -/
  rid   : Option Nat
  kind  : Nat
  stream : Nat
  deriving DecidableEq, Repr

/-- Why a region stands still (R352, R353, R370). -/
inductive Hold where
  | running
  /-- Stopped by an element fault and rolled back: its record awaits WSTEP. -/
  | fault
  /-- Being saved (R370). -/
  | saving
  deriving DecidableEq, Repr

/-- A record's address and the stream it is about, for WSTEP (R354). -/
structure Rec where
  addr   : Nat
  kind   : Nat
  stream : Nat
  deriving DecidableEq, Repr

/-- An armed switch (R180). -/
structure Switch where
  t    : Word
  plan : Plan
  /-- Markers have been injected. -/
  fired : Bool
  cmd  : Nat
  deriving DecidableEq, Repr

/-- A placed residency, numbered by its launch id. -/
structure Residency where
  lid    : Nat
  owner  : Nat
  island : Nat
  ox     : Nat
  oy     : Nat
  plan   : Plan
  images : List Nat
  cfg    : Nat
  iter   : Nat
  /-- Order of placement, for R217 step 4. -/
  placed : Nat
  units  : List UnitSt
  streams : Map StreamSt
  /-- The producer's part of each connection, and the tokens consumed at its end (R158, R383). -/
  branches : List BranchSt
  eaten  : List Nat
  stores : List StoreSt
  nodes  : Map NodeSt
  nodeSaves : List (Nat × Map NodeSt × Nat)
  /-- The last complete cut and the last committed window (R348, R351). -/
  cut    : Nat
  committed : Nat
  hold   : Hold
  /-- What the marker of a stop has reached: units, then stores, then the controller tree; and whether the region has stopped
  (R385). -/
  halted : List Nat
  dbg    : Bool
  masked : Option Nat
  preReq : Bool
  /-- To be saved at the next complete cut, for a column repair (R361). -/
  repairReq : Bool
  /-- An element fault has stopped the region; its record awaits the rollback (R352, R353). -/
  broken : Option PendRec
  shadow : Option Plan
  switch : Option Switch
  recs   : List Rec
  /-- The root has its go (R435), and it has reported done. -/
  gone   : Bool
  rootDone : Bool
  /-- MEs in reorder or buffer mode, by ME number in the package (R229, R349). -/
  modes  : List Nat
  deriving DecidableEq, Repr

/-- The state of a dependence-table entry (R210). -/
inductive EntryState where
  | free | waiting | ready | placed | cont
  deriving DecidableEq, Repr

/-- A dependence-table entry (R210). -/
structure Entry where
  st    : EntryState
  gen   : Nat
  img   : Nat
  bind  : Nat
  nimg  : Nat
  nbind : Nat
  shape : Nat
  pri   : Nat
  pcnt  : Nat
  succ  : List Nat
  next  : Option Nat
  scope : Nat
  owner : Nat
  rtime : Word
  /-- READY after a pre-emption: the save area (R211). -/
  saved : Option Nat
  deriving DecidableEq, Repr

/-- A finish-scope entry (R213). -/
structure Scope where
  inUse  : Bool
  gen    : Nat
  parent : Nat
  count  : Nat
  kids   : Nat
  closed : Bool
  err    : Bool
  deriving DecidableEq, Repr

end Sys2Proof.Machine
end

