-- ==== Sys2Proof/Machine/DeviceTypes.lean ====
section
/-! DEFINITION. The state of stream commands (R289 to R319), pans (R320 to R336), debug and trace blocks (R383 to
R393), links and rings (R365, R366, R398 to R410) and saved residencies (R370 to R374), as plain data. -/

namespace Sys2Proof.Machine

/-! ### Stream commands -/

/-- The dispatcher of a command (R289). -/
inductive Disp where
  | engine (island : Nat)
  /-- The AG at a site of a residency's region, which has up to four wide ports. -/
  | ag     (lid x y : Nat)
  | me     (n : Nat)
  | region (lid : Nat)
  | md
  deriving DecidableEq, Repr

/-- Where the elements of a move lie (R294, R302, R303, R319). -/
inductive Side where
  | pat   (p : Pattern)
  /-- Element k at `base` + u_k × element size, with u_k the index at `idx` + 4k. -/
  | index (base idx : Nat)
  | ring  (h : VNum)
  | peer  (dev : Nat) (p : Pattern)
  deriving DecidableEq, Repr

/-- A move of `n` elements under way (R248, R301, R302). -/
structure Move where
  size : Nat
  n    : Nat
  src  : Side
  dst  : Side
  /-- Elements not yet begun, as intervals from `.1` to before `.2`. -/
  todo : List (Nat × Nat)
  /-- Indices and values read, by element. -/
  idx  : Map Nat
  vals : Map Nat
  /-- Slots of the destination ring filled and advanced over (R319). -/
  slots : Nat
  deriving DecidableEq, Repr

/-- Writes of a command that are made in the order of their lists, each list in any order: address and bytes. -/
structure Writes where
  /-- First, zeros in units of `unit` bytes from `zeros`, those of the intervals `todo` not yet begun (R312). -/
  zeros : Nat
  unit  : Nat
  todo  : List (Nat × Nat)
  later : List (List (Nat × Nat))
  deriving DecidableEq, Repr

/-- What a command that has started does. -/
inductive Job where
  /-- Not started. -/
  | queued
  | move (m : Move)
  | write (w : Writes)
  /-- A VIA residency: its launch id, its two pattern addresses and RATIO (R301). -/
  | via (lid src dst ratio : Nat)
  /-- A stream's binding, until its first pass ends (R299). -/
  | bound
  /-- Waits for the unit: UNBIND for the stop, CFGSW for the switch, MARK for a cut number, PROBE for its answer,
  PANCTL FREE and PANDRAIN for the pan. -/
  | unit
  /-- A PANDRAIN whose fire has been taken with buffer `b` (R327). -/
  | drain (b : Nat)
  | mark (k : Nat)
  | probe (rid u : Nat)
  /-- A semaphore addition on a peer whose flit is not acknowledged; `sem` is 64 × core + semaphore (R296, R307). -/
  | signal (dev seq sem : Nat)
  /-- Everything the command does has been acknowledged: COMMAND_COMPLETE is due. -/
  | done
  deriving DecidableEq, Repr

/-- The counted semaphore of a command: core and semaphore, or a peer's (R296). -/
structure Count where
  dev  : Option Nat
  core : Nat
  sem  : Nat
  n    : Nat
  deriving DecidableEq, Repr

/-- A command accepted or waiting for acceptance, by number (R288, R289). -/
structure Cmd where
  /-- The issuing thread; none where the master distributor issued it (R332). -/
  src    : Option Nat
  instr  : Instr
  disp   : Disp
  wait   : BitVec 8
  slot   : Option (BitVec 3)
  accepted : Bool
  /-- The order of acceptance, and of registration as a tile user (R305). -/
  accNo  : Nat
  tiles  : List (Nat × Nat × Nat)
  job    : Job
  /-- An error case was met. -/
  err    : Bool
  /-- Engine accesses in flight: a walk or a request for access `k`. -/
  busy   : Bool
  count  : Option Count
  follow : Nat
  /-- Doublewords of its records that lie at a peer, once they have been read: the physical address, 1 or 0 for a read that
  failed, and the value (R294, R405). -/
  got    : Map (Nat × Nat)
  /-- The exact address of the pattern record that a binding at placement names (R204). -/
  exact  : Option Nat
  /-- The ring that its transfer record named as it started (R317). -/
  ring   : Option VNum
  deriving DecidableEq, Repr

/-- A tile entry (R232). -/
structure Tile where
  defd : Bool
  st   : BitVec 2
  base : BitVec 11
  size : BitVec 12
  deriving DecidableEq, Repr

/-! ### Pans -/

/-- The step on which a pan is HELD (R329, R333, R340). -/
inductive HeldStep where
  | spill
  | refill
  | template
  | fetch
  | buffer (b : Nat)
  | post (b : Nat)
  /-- A fallback refused by an undefined peer pan (R408). -/
  | fallback
  /-- A write of an accepted entry, which its home's table has refused in the instant it was due (R420). -/
  | write
  deriving DecidableEq, Repr

/-- The use of a batch buffer. -/
inductive BufUse where
  | free
  /-- Taken by a fire of `n` entries that is not posted yet: a threshold fire or not, to the substitute template or not, and whether
  its batch waits for the weights (R329). -/
  | fired (n : Nat) (thr subst late : Bool)
  /-- Posted, and still to be written: the entry posted with it, and the entries of the batch still in the ring. -/
  | writing (lid : Nat) (n : Nat)
  /-- Its writes are on their way (R331). -/
  | flushing (lid : Nat) (n : Nat)
  | posted (lid : Nat)
  deriving DecidableEq, Repr

/-- A pan entry under way: 96 bits (R321). -/
abbrev PanWord := BitVec 96

/-- A PANQ flit of a fallback that the peer has not acknowledged: the peer and its pan, its sequence number, its entries, the number
of its fire and whether that is a threshold fire (R407, R408). -/
structure Away where
  dev  : Nat
  pan  : Nat
  seq  : Nat
  ents : List PanWord
  fire : Nat
  thr  : Bool
  /-- The peer has refused it (R408). -/
  back : Bool
  deriving DecidableEq, Repr

/-- A defined pan (R320 to R336). -/
structure Pan where
  owner : Nat
  tmpl  : Nat
  /-- The ring's virtual and physical base. -/
  ringVa : Nat
  ring  : Nat
  rcnt  : Nat
  f     : Nat
  pri   : Nat
  whome : Nat
  age   : Nat
  bitt  : Nat
  bcnt  : Nat
  fbk   : Nat
  fbdev : Nat
  fbpan : Nat
  bcap  : Nat
  fbtmpl : Nat
  wxfer : Nat
  buf   : Nat
  /-- The oldest entry's ring slot, the entries in the ring, the oldest spilled entry's place, the spilled entries. -/
  rpos  : Nat
  rlen  : Nat
  bpos  : Nat
  blen  : Nat
  /-- Entries at the front of the ring that a fire has taken and whose buffer is being written. -/
  taken : Nat
  /-- Arrival times of the entries not taken, oldest first. -/
  times : List Word
  fired : Bool
  held  : Option HeldStep
  /-- Steps that have failed while it was HELD already. -/
  also  : List HeldStep
  /-- GCYC at which the pan became READY. -/
  readyAt : Option Word
  bufs  : List BufUse
  present : Bool
  /-- A weight fetch is in flight: its command. -/
  fetch : Option Nat
  /-- Posted batches that wait for the weights. -/
  waiting : List Nat
  c0    : Word
  thr   : BitVec 32
  tim   : BitVec 32
  c2    : Word
  c3    : Word
  /-- The scope handle counted while entries wait (R340). -/
  scope : Option Nat
  /-- Fallback flits not acknowledged by the peer, oldest first, and whether an undefined pan there has stopped the sending until
  RESUME (R408). -/
  away  : List Away
  stopped : Bool
  deriving DecidableEq, Repr

/-- A write of the master distributor under way, of `n` bytes at a physical and a virtual address: of a pan's entry, or of its batch
buffer `buf` (R248, R331). -/
structure MdWrite where
  pan : Nat
  buf : Option Nat
  pa  : Nat
  va  : Nat
  n   : Nat
  v   : Nat
  deriving DecidableEq, Repr

/-- An entry between its PANQ element and the pan (R321). -/
structure Flight where
  pan  : Nat
  word : PanWord
  rid  : Nat
  unit : Nat
  deriving DecidableEq, Repr

/-! ### Debug, trace, links, rings -/

/-- A trace-core block (R390) with the filter in force and the records that wait (R391). -/
structure TraceCore where
  tbase : Word
  tsize : Word
  twr   : Word
  trd   : Word
  lost  : Word
  rbase : Word
  rsize : Word
  rwr   : Word
  rrd   : Word
  recctl : Word
  trigact : Word
  filter : List (BitVec 16)
  flen  : BitVec 7
  err   : Bool
  counts : List Word
  inForce : List (BitVec 16)
  queue : List (BitVec 128)
  /-- Records dropped since the last LOSS record. -/
  dropped : BitVec 32
  /-- Records of the log ring read in a replay: the index of the next record of the log not yet used, and those skipped
  over because they belong to another channel. -/
  used  : List Nat
  deriving DecidableEq, Repr

/-- A debug block (R383, R384). -/
structure DebugBlk where
  slots : List (Word × Word)
  /-- The stops that hold the island. -/
  stops : List Nat
  deriving DecidableEq, Repr

/-- A stop event (R385): the islands, regions and contexts it holds, the slots whose breaks it answers, by island and number, and
whether all of them stand still (R384, R386). -/
structure Stop where
  islands : List Nat
  regions : List Nat
  ctxs    : List Nat
  hits    : List (Nat × Nat)
  complete : Bool
  deriving DecidableEq, Repr

/-- The link block (R398). -/
structure LinkBlk where
  devid  : BitVec 10
  hwbase : Word
  mbox   : Word
  pslot  : Map (BitVec 10)
  route  : Map Word
  /-- Lanes running of each port, and flits retransmitted or discarded. -/
  lanes  : Map Nat
  resent : Map (BitVec 32)
  deriving DecidableEq, Repr

/-- What the host has sent and Etend has yet to perform: an access or a mailbox write (R409, R410). -/
inductive HostOp where
  | access (r : HostReq)
  | mail (bytes : List Byte)
  deriving DecidableEq, Repr

/-- A message that waits for room in a receive ring (R366). -/
structure RingMsg where
  desc : Nat
  msg  : List Byte
  /-- The host has sent it (R410). -/
  host : Bool
  /-- The cycle at which the wait began, and whether the overflow record has been written. -/
  from_ : Nat
  noted : Bool
  deriving DecidableEq, Repr

/-- An ME in a save area: its site in the region, its data, full and uncorrectable words relative to the ME, and its
tiles (R371). -/
structure SavedMe where
  x     : Nat
  y     : Nat
  data  : List Host.Cell
  full  : List Nat
  bad   : List Nat
  tiles : List Tile
  deriving DecidableEq, Repr

/-- A saved residency: its state, its save area and the bytes written there by the part (R370 to R374). -/
structure Saved where
  res   : Residency
  area  : Nat
  size  : Nat
  bytes : List Byte
  mes   : List SavedMe
  deriving DecidableEq, Repr

/-- A flit sent: port and the 80 bytes (R400, R402). -/
abbrev Sent := Nat × List Byte

/-- A copy of a row, or of a whole bank, of a DRAM channel into its spare (R364): the channel as 32 × stack + channel, the bank and the
row. -/
structure RowCopy where
  channel : Nat
  bank    : Nat
  row     : Nat
  whole   : Bool
  deriving DecidableEq, Repr

/-- A column repair under way (R361). -/
structure Repair where
  island : Nat
  column : Nat
  lids   : List Nat
  deriving DecidableEq, Repr

end Sys2Proof.Machine
end

