-- ==== Sys2Proof/Machine/State.lean ====
section
/-! DEFINITION. The state of the whole package, its value at reset, and the reasons to stop. -/

namespace Sys2Proof.Machine

/-- Why the machine stops where the manual gives no effect. -/
inductive Fault where
  /-- Raised by nothing: the spec gives every instruction and every event an effect, and the host's form of an outcome asks for a
  type. Safe. -/
  | noEffect
  deriving DecidableEq, Repr

/-- Why an instruction has no meaning here. -/
inductive Refusal where
  /-- Raised by an arm of exec whose instruction is not modelled. Safe: the hardware goes on. -/
  | notModelled (mnemonic : String)
  deriving DecidableEq, Repr

/-- The package (R1, R7, R8, R138, R210, R213, R223, R230, R416, R419). -/
structure State where
  /-- Contexts that differ from their reset state, by thread id (R128). -/
  ctxs    : Map Ctx
  /-- Cores that differ from their reset state (R8). -/
  cores   : Map CoreSt
  /-- The sync table of each island, at most 64 entries (R138). -/
  sync    : Map (List SyncEntry)
  /-- Bytes at physical addresses, those that are not 0 (R223). -/
  mem     : List Host.Cell
  /-- Host memory, by its own address (R409). -/
  host    : List Host.Cell
  /-- Full words, uncorrectable words and words with a single-bit error, by address divided by 8 (R230, R360). -/
  full    : List Nat
  bad     : List Nat
  single  : List Nat
  /-- Access-table entries that differ from reset, by 16 × target + entry (R419). -/
  tables  : Map (Word × Word)
  /-- The capacity in GiB that each CXL link reports (R224, R415). -/
  cxl     : Map Nat
  /-- Requests, walks and messages under way, by number (R144, R227, R434). -/
  reqs    : Map Req
  walks   : Map Walk
  msgs    : Map Msg
  nextId  : Nat
  /-- Lock wakes under way: the island and the key (R265). -/
  wakes   : List (Nat × Nat)
  /-- Placed residencies by launch id, the dependence table and the finish scopes (R167, R210, R213). -/
  res     : Map Residency
  entries : Map Entry
  scopes  : Map Scope
  /-- Reserved islands: island and entry; the requests for a pre-emption that stand: the head of each and its victim (R217). -/
  reserved : Map Nat
  preempt : Map Nat
  /-- The system block (R416). -/
  ready0  : Word
  ready1  : Word
  grant   : Word
  ptroot  : Word
  spbase  : Word
  spsize  : Word
  recbase : Word
  poolbase : Word
  poolsize : Word
  bootstat : Word
  pcap    : Word
  pwr     : Word
  thr     : Word
  qnonce  : List Word
  quote   : List Word
  /-- Commands accepted and not complete, by number (R288, R289); the tile entries that differ from reset, by 16 × ME +
  entry (R232). -/
  cmds    : Map Cmd
  tiles   : Map Tile
  /-- Defined pans and entries on their way to a pan (R320, R321). -/
  pans    : Map Pan
  flights : Map Flight
  /-- Writes of the master distributor for pans, in the order in which it has made them (R248). -/
  mdWrites : List MdWrite
  /-- Records that wait for their slot, by core (R342); saved residencies by entry (R370). -/
  recq    : Map (List PendRec)
  saved   : Map Saved
  /-- Repair (R361): site reports by 4096 × island + 64 × x + y, columns in spare use and the repair under way;
  copies of rows and banks into spares, and the spares in use by RowCopy.key (R364). -/
  reports : Map (List Nat)
  columns : Map (List Nat)
  repair  : Option Repair
  copying : List RowCopy
  spares  : Map Nat
  /-- A standby takeover is under way (R362). -/
  failover : Bool
  /-- Debug blocks, stops under way and trace cores (R383, R385, R390); atomics and updates per ME (R389). -/
  dbg     : Map DebugBlk
  stops   : Map Stop
  traces  : Map TraceCore
  arrivals : Map Nat
  /-- The link block, sequence numbers of flits by 4 × destination + class, flits sent so far, and the pairs of source
  and pan refused until PRESUME (R398, R400, R408). -/
  link    : LinkBlk
  seqs    : Map Nat
  sent    : List Sent
  refused : List (Nat × Nat)
  /-- A peer's pans that take no entries until PRESUME: device, pan and the sequence number first refused (R408). -/
  peerBars : List (Nat × Nat × Nat)
  /-- Flits that a port has sent and that the far end has not acknowledged, by port, oldest first; flits that wait for an earlier one
  of their triple to be acknowledged on the old port (R400, R402). -/
  unacked : List (Nat × Flit)
  parked  : List Flit
  /-- The next sequence number of each source and class, by 4 × source + class, and flits that have come before it: cycle of
  arrival, port and flit (R403, log 95). -/
  expects : Map Nat
  early   : List (Nat × Nat × Flit)
  /-- Messages that wait for ring space, oldest first, and rings with a pending notice (R366). -/
  ringq   : List RingMsg
  notices : List Nat
  /-- Accesses and mailbox writes of the host that wait for those before them, oldest first, and the bytes that its reads have returned
  (R409, R410). -/
  hostq   : List HostOp
  hostIn  : List (List Byte)
  /-- Notices sent to the host (R410), the check under way (R411), the hash of the running image (R421), dies held at
  half clock and the die whose heat reset the package (R422). -/
  hostOut : List Word
  bootLen : Option Nat
  imgHash : List Byte
  hot     : List Nat
  etend   : Option Nat
  /-- The timeline counter (R14, R367). -/
  gcyc    : Word
  /-- The last operation of each arbiter that serves the operations of one cycle by rank: its cycle and the rank below which an
  operation comes later; 0 the master distributor's tables and commands, 1 pan entries and fires, 3 changes of GCYC, 16 + i the walker of
  island i, 128 + i its SPAWNs, 192 + i its sync table, 256 + k writes of core k's CLM (R13, R132, R140, R209, R228, R321, R328,
  R367). -/
  turns   : Map (Nat × Nat)
  /-- Elapsed cycles of the 3.6 GHz clock, elapsed cy of the throttled clock and the 64ths of one more, and steps made: the model's own
  (log 2, R422). -/
  cycle   : Nat
  cy      : Nat
  frac    : Nat
  tick    : Nat
  /-- The thread whose instruction exec executes: the model's own (log 2). -/
  cur     : Nat
  /-- Outside events still to come, in order: the model's own (log 2). -/
  inputs  : List Instr
  deriving DecidableEq, Repr

/-- The base of core c's CLM (R10). -/
def clmBase (core : Nat) : Nat := 0x004100000000 + core * 0x10000

/-- A handle that is not valid (R7; the other fields log 3). -/
def Handle.none : Handle := { base := 0, slot := 0, count := 0, p := 0, c := 0, valid := false }

/-- A context at reset (R7, R14). -/
def Ctx.reset (tid : Nat) : Ctx :=
  { g := Vector.replicate 32 0, v := Vector.replicate 16 VReg.zeros, h := Vector.replicate 16 Handle.none,
    d := Vector.replicate 8 { count := 0, err := false }, pc := BitVec.ofNat 64 (clmBase (tid / 8)), status := 1#4,
    pri := 0, fpctl := 0, fflags := 0, tvec := BitVec.ofNat 64 (clmBase (tid / 8)), epc := 0, tcause := 0, taddr := 0,
    pend := 0, recPend := 0, pendAddr := [], st := .halted, wait := .none, held := none, tlb := [], pages := [], peeked := none, bf := .none, rn := none,
    waited := 0, boosted := false, stop := false, leaving := false, broke := false, ran := false }

/-- A core at reset (R8, R417). -/
def CoreSt.reset (core : Nat) : CoreSt :=
  { sems := [], semq := [], chans := [], recvq := [], last := Vector.replicate 4 7#3, cpc := 0, carg := 0,
    ctvec := BitVec.ofNat 64 (clmBase core), cprv := true, window := none, recSeq := 0, gated := false }

/-- A tile entry at reset (R232; BASE, SIZE and STATE log 3). -/
def Tile.reset : Tile := { defd := false, st := 0, base := 0, size := 0 }

/-- The link block at reset (R398). -/
def LinkBlk.reset : LinkBlk :=
  { devid := 0, hwbase := 0, mbox := 0, pslot := [], route := [], lanes := [], resent := [] }

/-- A debug block at reset (R383, R384). -/
def DebugBlk.reset : DebugBlk := { slots := List.replicate 16 (0, 0), stops := [] }

/-- A trace-core block at reset (R390). -/
def TraceCore.reset : TraceCore :=
  { tbase := 0, tsize := 0, twr := 0, trd := 0, lost := 0, rbase := 0, rsize := 0, rwr := 0, rrd := 0, recctl := 0,
    trigact := 0, filter := List.replicate 64 0, flen := 0, err := false, counts := List.replicate 16 0, inForce := [],
    queue := [], dropped := 0, used := [] }

/-- The package right after reset (R7, R8, R230, R411, R416). -/
def State.reset : State :=
  { ctxs := [], cores := [], sync := [], mem := [], host := [], full := [], bad := [], single := [], tables := [], cxl := [],
    reqs := [], walks := [], msgs := [], nextId := 0, wakes := [], res := [], entries := [], scopes := [], reserved := [],
    preempt := [], ready0 := 0, ready1 := 0,
    grant := 0xFFFFFFFFFFFFFFFF#64, ptroot := 0, spbase := 0, spsize := 0, recbase := 0, poolbase := 0, poolsize := 0,
    cmds := [], tiles := [], pans := [], flights := [], mdWrites := [], recq := [], saved := [], reports := [], columns := [],
    repair := none, copying := [], spares := [], failover := false, dbg := [], stops := [], traces := [], arrivals := [],
    link := LinkBlk.reset, seqs := [], sent := [], refused := [], peerBars := [], unacked := [], parked := [],
    expects := [], early := [], hostq := [], hostIn := [], ringq := [], notices := [], hostOut := [],
    bootLen := none, imgHash := List.replicate 32 0#8, hot := [], etend := none,
    bootstat := 0, pcap := 2800, pwr := 0, thr := 64, qnonce := [0, 0, 0, 0], quote := [], gcyc := 0, turns := [], cycle := 0, cy := 0, frac := 0, tick := 0,
    cur := 0, inputs := [] }

end Sys2Proof.Machine
end

