-- ==== Sys2Proof/Machine/Memory.lean ====
section
/-! DEFINITION. Bytes at addresses, the homes of the physical map and the access tables (R57, R223, R224, R230, R419,
R420). -/

namespace Sys2Proof.Machine

/-! ### Cells -/

namespace Memory

/-- What an address that is not listed reads as: 0 (R230; outside the MEs log 1). -/
def blank : Byte := 0#8

def get : List Host.Cell → Nat → Byte
  | [], _ => blank
  | (k, b) :: m, a => if a = k then b else get m a

/-- `m` with byte `b` at `a`, in canonical form. -/
def set : List Host.Cell → Nat → Byte → List Host.Cell
  | [], a, b => if b = blank then [] else [(a, b)]
  | (k, x) :: m, a, b =>
    if a < k then (if b = blank then (k, x) :: m else (a, b) :: (k, x) :: m)
    else if a = k then (if b = blank then m else (a, b) :: m)
    else (k, x) :: set m a b

/-- Addresses strictly rising from `lo`, and no blank byte listed. -/
def wfFrom (lo : Nat) : List Host.Cell → Bool
  | [] => true
  | (k, b) :: m => decide (lo ≤ k) && b != blank && wfFrom (k + 1) m

/-- The canonical form. -/
def wf (m : List Host.Cell) : Bool := wfFrom 0 m

/-- The `n` bytes at `a` as a little-endian number (R24, R52). -/
def read (m : List Host.Cell) (a : Nat) : Nat → Nat
  | 0 => 0
  | n + 1 => (get m a).toNat + 256 * read m (a + 1) n

/-- `m` with the low `n` bytes of `v` at `a`. -/
def write (m : List Host.Cell) (a : Nat) : Nat → Nat → List Host.Cell
  | 0, _ => m
  | n + 1, v => write (set m a (BitVec.ofNat 8 v)) (a + 1) n (v / 256)

end Memory

/-! ### Sets of word numbers -/

/-- Insertion into a rising list without repeats. -/
def insertNat (x : Nat) : List Nat → List Nat
  | [] => [x]
  | y :: ys => if x < y then x :: y :: ys else if x = y then y :: ys else y :: insertNat x ys

def removeNat (x : Nat) (l : List Nat) : List Nat := l.filter (· != x)

/-! ### Homes -/

/-- The home of a byte (R243). MEs are numbered island × 384 + j, as in R419. -/
inductive Home where
  | me   (n : Nat)
  | clm  (core : Nat)
  | dram (stack channel : Nat)
  | cxl  (link : Nat)
  | reg
  | host
  | peer (slot : Nat)
  | hole
  deriving DecidableEq, Repr

/-- Ready bits of the package, numbered as in R414. -/
def State.readyBit (s : State) (i : Nat) : Bool := s.ready1.getLsbD i
def State.stackReady (s : State) (n : Nat) : Bool := s.readyBit (2 + n)
def State.cxlReady (s : State) (l : Nat) : Bool := s.readyBit (6 + l)
def State.soundReady (s : State) (p : Nat) : Bool := s.readyBit (22 + p)
def State.mdReady (s : State) : Bool := s.readyBit 0
def State.islandReady (s : State) (i : Nat) : Bool := s.ready0.getLsbD i

/-- The device that peer-window slot `k` reaches, unless the slot is a hole (R398, R399). -/
def State.peerOf (s : State) (k : Nat) : Option Nat :=
  let d := (s.link.pslot.getD k (BitVec.ofNat 10 k)).toNat
  if d = s.link.devid.toNat ∨ !(s.link.route.getD d 0).getLsbD 7 then none else some d

/-- The home of a physical address, with the holes of R224 and R399. -/
def State.home (s : State) (pa : Nat) : Home :=
  if pa < 0x3000000000 then
    (let n := pa / 0xC00000000
     if s.stackReady n then .dram n (pa / 256 % 32) else .hole)
  else if 0x4000000000 ≤ pa ∧ pa < 0x4100000000 then
    (let o := pa - 0x4000000000
     let j := o % 0x4000000 / 0x20000
     if j < 384 then .me (o / 0x4000000 * 384 + j) else .hole)
  else if 0x4100000000 ≤ pa ∧ pa < 0x4101000000 then .clm ((pa - 0x4100000000) / 0x10000)
  else if 0x4200000000 ≤ pa ∧ pa < 0x4210000000 then .reg
  else if 0x10000000000 ≤ pa ∧ pa < 0x50000000000 then
    (let o := pa - 0x10000000000
     let l := o / 0x4000000000
     if s.cxlReady l ∧ o % 0x4000000000 < s.cxl.getD l 0 * 2 ^ 30 then .cxl l else .hole)
  else if 0x80000000000 ≤ pa ∧ pa < 0x90000000000 then .host
  else if 2 ^ 47 ≤ pa ∧ pa < 2 ^ 48 then
    (let k := (pa - 2 ^ 47) / 2 ^ 41
     if (s.peerOf k).isSome then .peer k else .hole)
  else .hole

/-- The physical base of an ME (R223). -/
def meBase (n : Nat) : Nat := 0x4000000000 + n / 384 * 0x4000000 + n % 384 * 0x20000

/-- An ME in reorder or buffer mode (R229, R349). -/
def State.meTaken (s : State) (n : Nat) : Bool := s.res.any (fun r => r.2.modes.contains n)

/-- The target number of a home (R419); sound ports are checked where a flit leaves (R402). -/
def Home.target : Home → Option Nat
  | .me n => some n
  | .clm c => some (24576 + c)
  | .dram n h => some (24832 + n * 32 + h)
  | .cxl l => some (24960 + l)
  | .host => some 25000
  | .reg => some 25001
  | .peer _ => none
  | .hole => none

/-- Entry `e` of the table of target `t` (R419). -/
def State.tableEntry (s : State) (t e : Nat) : Word × Word :=
  s.tables.getD (16 * t + e) (if e = 0 then (0xF800000000000000#64, 0x000FFFFFFFFFFFFF#64) else (0, 0))

/-- The bit of RWXA that an access needs. -/
def Acc.bit : Acc → Nat
  | .read => 62
  | .write => 61
  | .fetch => 60
  | .atomic => 59
  | .readWrite => 61

/-- A target grants an access of a master at an address (R420). -/
def State.grants (s : State) (t master pa : Nat) (k : Acc) : Bool :=
  (List.range 16).any (fun e =>
    let (lo, hi) := s.tableEntry t e
    let u := pa / 65536
    lo.getLsbD 63 && lo.getLsbD k.bit
      && decide ((lo.extractLsb' 16 36).toNat ≤ u) && decide (u ≤ (hi.extractLsb' 16 36).toNat)
      && decide ((lo.extractLsb' 0 16).toNat ≤ master) && decide (master ≤ (hi.extractLsb' 0 16).toNat))

/-- The home accepts a plain or atomic access of `master` (R224, R229, R349, R420). -/
def State.accepts (s : State) (master pa : Nat) (k : Acc) : Bool :=
  match s.home pa with
  | .hole => false
  | .me n => !s.meTaken n && s.grants n master pa k
  | h => match h.target with
    | some t => s.grants t master pa k
    | none => true

/-! ### Reading and writing -/

/-- The master id of a residency, the master distributor, the trace core of a die, the walkers and the host (R418). -/
def resMaster (lid : Nat) : Nat := 0x1000 + lid % 4096
def mdMaster : Nat := 0x3000
def traceMaster (die : Nat) : Nat := 0x3001 + die
def walkMaster : Nat := 0x3005
def hostMaster : Nat := 0x3FFF

/-- The words that `n` bytes at `pa` touch. -/
def wordsOf (pa n : Nat) : List Nat := (List.range ((pa + n + 7) / 8 - pa / 8)).map (fun i => pa / 8 + i)

def State.isBad (s : State) (pa n : Nat) : Bool := (wordsOf pa n).any (fun w => s.bad.contains w)

def State.readMem (s : State) (pa n : Nat) : Nat := Memory.read s.mem pa n

/-- Write `n` bytes. A whole word gets fresh ECC; a part of an uncorrectable word leaves it marked (R56, R57). -/
def State.writeMem (s : State) (pa n v : Nat) : State :=
  { s with mem := Memory.write s.mem pa n v,
           bad := s.bad.filter (fun w => !(decide (pa ≤ 8 * w) && decide (8 * w + 8 ≤ pa + n))),
           single := s.single.filter (fun w => !((wordsOf pa n).contains w)) }

/-- A read corrects single-bit errors and writes the corrected words back (R230, R234). -/
def State.corrected (s : State) (pa n : Nat) : State :=
  { s with single := s.single.filter (fun w => !((wordsOf pa n).contains w)) }

/-- The address in host memory of a byte of the host window (R409). -/
def State.hostAddr (s : State) (pa : Nat) : Nat := s.link.hwbase.toNat + (pa - 0x80000000000)

/-- The bytes at a home that is plain memory or the host's. -/
def State.load (s : State) (pa n : Nat) : Nat :=
  match s.home pa with
  | .host => Memory.read s.host (s.hostAddr pa) n
  | _ => s.readMem pa n

def State.store (s : State) (pa n v : Nat) : State :=
  match s.home pa with
  | .host => { s with host := Memory.write s.host (s.hostAddr pa) n v }
  | _ => s.writeMem pa n v

/-- The home holds bytes itself: it is no hole, register or peer. -/
def Home.holds : Home → Bool
  | .hole => false
  | .reg => false
  | .peer _ => false
  | _ => true

/-- `master` may read, or write, bytes of memory at `pa` that one home holds (R224, R415, R420). -/
def State.mayLoad (s : State) (master pa : Nat) : Bool := (s.home pa).holds && s.accepts master pa .read
def State.mayStore (s : State) (master pa : Nat) : Bool := (s.home pa).holds && s.accepts master pa .write

def State.isFull (s : State) (pa : Nat) : Bool := s.full.contains (pa / 8)

/-- One request of a wait list is served if its word is full: LDFE empties the word (R256, R257). It is checked then, as the table
stands (R420, R434). -/
def State.serveOne (s : State) (id : Nat) : State :=
  match s.reqs.find? id with
  | some r =>
    match r.st, r.op with
    | .listed _, .ldf empty =>
      if !s.isFull r.pa then s
      else if !s.accepts r.master r.pa .read ∨ (empty ∧ !s.accepts r.master r.pa .write) then
        { s with reqs := s.reqs.put id { r with st := .answered (.denied r.ea) } }
      else
        (let a := if s.isBad r.pa 8 then Answer.uncorrectable r.ea else Answer.value (s.readMem r.pa 8) 0#5
         let s := { s.corrected r.pa 8 with reqs := s.reqs.put id { r with st := .answered a } }
         if empty ∧ !s.isBad r.pa 8 then { s with full := removeNat (r.pa / 8) s.full } else s)
    | _, _ => s
  | none => s

/-- The requests in wait lists for a word, in arrival order. -/
def State.waitersOf (s : State) (w : Nat) : List Nat :=
  let l := s.reqs.filterMap (fun p =>
    match p.2.st with
    | .listed n => if p.2.pa / 8 = w then some (n, p.1) else none
    | _ => none)
  (sortBy (·.1) l).map (·.2)

/-- The words touched become full, where the home is an ME, and their wait lists are served (R230, R254, R257). -/
def State.setFull (s : State) (pa n : Nat) : State :=
  match s.home pa with
  | .me _ =>
    (wordsOf pa n).foldl (fun (s : State) w =>
      (s.waitersOf w).foldl State.serveOne { s with full := insertNat w s.full }) s
  | _ => s

/-- The places taken in the wait list of an ME (R257). -/
def State.listLength (s : State) (me : Nat) : Nat :=
  (s.reqs.filter (fun p =>
    match p.2.st with
    | .listed _ => s.home p.2.pa = .me me
    | _ => false)).length

end Sys2Proof.Machine
end

