-- ==== Sys2Proof/Machine/Ops.lean ====
section
/-! DEFINITION. The named operations over contexts and cores: registers, completion of an instruction, taking an
exception and returning from one, waiting and waking (R7 to R9, R19 to R23, R70, R71, R128 to R131, R133). -/

namespace Sys2Proof.Machine

abbrev Out := Host.Outcome State Fault Refusal

/-! ### Contexts and cores of the state -/

def State.ctx (s : State) (t : Nat) : Ctx := s.ctxs.getD t (Ctx.reset t)
def State.setCtx (s : State) (t : Nat) (c : Ctx) : State := { s with ctxs := s.ctxs.put t c }
def State.core (s : State) (k : Nat) : CoreSt := s.cores.getD k (CoreSt.reset k)
def State.setCore (s : State) (k : Nat) (c : CoreSt) : State := { s with cores := s.cores.put k c }

/-- The context that executes. -/
def State.me (s : State) : Ctx := s.ctx s.cur
def State.setMe (s : State) (c : Ctx) : State := s.setCtx s.cur c

/-- The core and island of a thread id (R128). -/
def coreOf (t : Nat) : Nat := t / 8
def islandOf (t : Nat) : Nat := t / 32

/-! ### Registers -/

/-- A general register; g0 reads zero (R7). -/
def Ctx.get (c : Ctx) (r : GReg) : Word := if r = 0#5 then 0#64 else c.g.get r.toFin

/-- A write of a general register; of g0 it is discarded (R7). -/
def Ctx.set (c : Ctx) (r : GReg) (v : Word) : Ctx :=
  if r = 0#5 then c else { c with g := c.g.set r.toNat v r.isLt }

def Ctx.getV (c : Ctx) (r : VNum) : VReg := c.v.get r.toFin
def Ctx.setV (c : Ctx) (r : VNum) (x : VReg) : Ctx := { c with v := c.v.set r.toNat x r.isLt }
def Ctx.getH (c : Ctx) (r : VNum) : Handle := c.h.get r.toFin
def Ctx.setH (c : Ctx) (r : VNum) (x : Handle) : Ctx := { c with h := c.h.set r.toNat x r.isLt }
def Ctx.getD (c : Ctx) (i : BitVec 3) : Slot := c.d.get i.toFin
def Ctx.setD (c : Ctx) (i : BitVec 3) (x : Slot) : Ctx := { c with d := c.d.set i.toNat x i.isLt }

/-- The fields of sy.status (R16). -/
def Ctx.prv (c : Ctx) : Bool := c.status.getLsbD 0
def Ctx.pprv (c : Ctx) : Bool := c.status.getLsbD 1
def Ctx.it (c : Ctx) : Bool := c.status.getLsbD 2
def Ctx.sen (c : Ctx) : Bool := c.status.getLsbD 3

/-- sy.status from its fields. -/
def statusOf (sen it pprv prv : Bool) : BitVec 4 :=
  BitVec.ofBool sen ++ BitVec.ofBool it ++ BitVec.ofBool pprv ++ BitVec.ofBool prv

/-! ### Instruction boundaries -/

/-- The context at an instruction boundary: nothing is under way, and a stop that was asked for is taken (R9, R417,
R378, R385). A context that is HALTED or FREE stays so. -/
def Ctx.boundary (c : Ctx) : Ctx :=
  let c := { c with held := none, wait := .none, pages := [], peeked := none }
  match c.st with
  | .halted => { c with stop := false, waited := 0 }
  | .free => { c with stop := false }
  | _ => if c.stop then { c with st := .halted, stop := false, waited := 0 } else { c with st := .runnable }

/-- The instruction of `len` words has completed (R25). -/
def Ctx.retire (c : Ctx) (len : Nat) : Ctx := { c with pc := c.pc + BitVec.ofNat 64 (4 * len) }.boundary

/-- The instruction has completed with the PC already set. -/
def Ctx.jumped (c : Ctx) (pc : Word) : Ctx := { c with pc := pc }.boundary

/-! ### Taking an exception and returning -/

/-- trap_entry of R21: from `resume`, with `async` as ASYNC. A trap within a trap halts the context. Entry drops the
translation cache (R54). -/
def Ctx.trapEntry (c : Ctx) (cause : Nat) (addr : Word) (async : Bool) (resume : Word) : Ctx :=
  if c.it && !async then
    { c with tcause := c.tcause ||| 0x200#64, st := .halted }.boundary
  else
    { c with epc := resume, tcause := BitVec.ofNat 64 (cause + (if async then 256 else 0)), taddr := addr,
             status := statusOf c.sen true c.prv true, pc := c.tvec, tlb := [] }.boundary

/-- The return of R23 and R71, once its target has been checked. -/
def Ctx.trapReturn (c : Ctx) : Ctx :=
  { c with status := statusOf c.sen false c.pprv c.pprv, tlb := [] }.jumped c.epc

/-- A synchronous trap of the instruction at PC (R21, R70). -/
def Ctx.raise (c : Ctx) (cause : Nat) (addr : Word) : Ctx := c.trapEntry cause addr false c.pc

/-- The current instruction traps: no effect but the entry (R21). -/
def raise (cause : Nat) (addr : Word) (s : State) : Out := .next (s.setMe (s.me.raise cause addr))

/-- The first word of the instruction at PC, for sy.taddr of an illegal-instruction trap (R20). -/
def State.wordAtPc (s : State) : Word := BitVec.ofNat 64 (s.readMem s.me.pc.toNat 4)

/-- Illegal instruction, CAUSE 1 (R20). -/
def illegal (s : State) : Out := raise 1 s.wordAtPc s

/-- Set a cause pending (R22). The address of a cause already pending is kept. -/
def Ctx.pendCause (c : Ctx) (cause : Nat) (addr : Word) : Ctx :=
  if c.pend.getLsbD cause then c
  else { c with pend := c.pend ||| (1#15 <<< cause), pendAddr := c.pendAddr.put cause addr }

def State.pendCause (s : State) (t cause : Nat) (addr : Word) : State := s.setCtx t ((s.ctx t).pendCause cause addr)

/-- A record sets its cause pending in its owner; a FREE context keeps it for the next thread started there (R131, R344). -/
def Ctx.recordCause (c : Ctx) (cause : Nat) (addr : Word) : Ctx :=
  let d := c.pendCause cause addr
  if c.st = .free then { d with recPend := d.recPend ||| (1#15 <<< cause) } else d

/-- The lowest slot with ERR set. -/
def Ctx.errSlot (c : Ctx) : Option Nat := c.d.toList.findIdx? (fun x => x.err)

/-- The pending causes: a slot error is pending while SEN is 1 and a slot's ERR is 1 (R291). -/
def Ctx.pending (c : Ctx) : BitVec 15 := if c.sen ∧ c.errSlot.isSome then c.pend ||| 0x4000#15 else c.pend

/-! ### Completion of the current instruction -/

/-- The current context changes by `f` and the instruction of `len` words completes. -/
def retireWith (len : Nat) (f : Ctx → Ctx) (s : State) : Out := .next (s.setMe ((f s.me).retire len))

/-- The same for an instruction of one word that writes `d`. -/
def writeReg (d : GReg) (v : Ctx → Word) (s : State) : Out := retireWith 1 (fun c => c.set d (v c)) s

/-- The current context waits (R9): WAITING where the wait can be interrupted, else RUNNABLE but issuing nothing. -/
def Ctx.waitFor (c : Ctx) (w : Wait) (interruptible : Bool) : Ctx :=
  { c with wait := w, st := if interruptible then .waiting else .runnable }

def waitOn (w : Wait) (interruptible : Bool) (s : State) : Out := .next (s.setMe (s.me.waitFor w interruptible))

/-- A context that waits executes its instruction again. -/
def Ctx.wake (c : Ctx) : Ctx :=
  match c.st with
  | .waiting => { c with st := .runnable, wait := .none }
  | _ => { c with wait := .none }

/-! ### Fetching and targets -/

/-- The check of R11 and R62 on a fetch or target address in the CLM of a thread's core: the cause it raises, if any. -/
def targetFault (t : Nat) (a : Word) : Option Nat :=
  if a.extractLsb' 0 2 ≠ 0#2 then some 2
  else if a.toNat < clmBase (coreOf t) ∨ clmBase (coreOf t) + 0x10000 ≤ a.toNat then some 3
  else none

/-- Go to `a` with `f` made on the context, or trap at this instruction with nothing done (R62). -/
def jumpTo (a : Word) (f : Ctx → Ctx) (s : State) : Out :=
  match targetFault s.cur a with
  | some cause => raise cause a s
  | none => .next (s.setMe ((f s.me).jumped a))

/-! ### Numbers -/

/-- A fresh number for a request, walk, message or command: the model's own (log 2). -/
def State.fresh (s : State) : State := { s with nextId := s.nextId + 1 }

/-- Words from a list of bytes and back. -/
def bytesOf (n v : Nat) : List Byte := (List.range n).map (fun i => BitVec.ofNat 8 (v / 256 ^ i))

/-- `n` cycles of the 3.6 GHz clock pass: GCYC counts them (R14), and the clock of the fabric, the routers and the control cores runs
at THR/64 of their rate (R422). -/
def State.advance (s : State) (n : Nat) : State :=
  let k := s.frac + n * s.thr.toNat
  { s with gcyc := s.gcyc + BitVec.ofNat 64 n, cycle := s.cycle + n, cy := s.cy + k / 64, frac := k % 64 }

/-- An operation that an arbiter serves by rank among those of one cycle: one of a lower rank than the last is served in a later
cycle. `next` is the lowest rank that may still follow in this cycle (R13, R132, R140, R209, R228, R321, R328). The master distributor's
are made at the first of the two cycles of the counter that a base-die cycle spans, in which GCYC is even (R435). -/
def State.inTurn (s : State) (key rank next : Nat) : State :=
  let base := decide (key < 2)
  let s := if base ∧ s.gcyc.toNat % 2 = 1 then s.advance 1 else s
  let last := s.turns.getD key (0, 0)
  let s := if s.cycle ≤ last.1 ∧ rank < last.2 then s.advance (if base then 2 else 1) else s
  { s with turns := s.turns.put key (s.cycle, next) }

/-- An access of the memory mesh writes at an address of a CLM: a write of that core's own contexts in the same cycle comes before it
(R13, R220). -/
def State.meshWrote (s : State) (pa : Nat) : State :=
  if 0x4100000000 ≤ pa ∧ pa < 0x4101000000 then
    { s with turns := s.turns.put (256 + (pa - 0x4100000000) / 65536) (s.cycle, 1) }
  else s

/-- GCYC − t as a signed number (R367). -/
def State.since (s : State) (t : Word) : Int := (s.gcyc - t).toInt

end Sys2Proof.Machine
end

