-- ==== Sys2Proof/Machine/Integer.lean ====
section
/-! DEFINITION. Integer arithmetic, immediates and constants (R45 to R51). -/

namespace Sys2Proof.Machine

/-- An RR instruction whose result is a function of its two sources (R45). -/
def rr (f : Word → Word → Word) (d a b : GReg) (s : State) : Out := writeReg d (fun c => f (c.get a) (c.get b)) s

/-- An instruction whose result is a function of one source. -/
def r1 (f : Word → Word) (d a : GReg) (s : State) : Out := writeReg d (fun c => f (c.get a)) s

def boolWord (b : Bool) : Word := if b then 1#64 else 0#64

/-- Zero bits above the highest 1 bit (CLZ). -/
def clz (x : Word) : Nat := if x = 0 then 64 else 63 - Nat.log2 x.toNat

/-- Zero bits below the lowest 1 bit (CTZ). -/
def ctz (x : Word) : Nat := ((List.range 64).find? (fun i => x.getLsbD i)).getD 64

def popc (x : Word) : Nat := ((List.range 64).filter (fun i => x.getLsbD i)).length

/-- div of R46: quotient and remainder, rounded towards zero. -/
def divS (a b : Word) : Word × Word :=
  if b = 0 then (0xFFFFFFFFFFFFFFFF#64, a)
  else if a = 0x8000000000000000#64 ∧ b = 0xFFFFFFFFFFFFFFFF#64 then (a, 0)
  else
    let q := a.toInt.tdiv b.toInt
    (BitVec.ofInt 64 q, BitVec.ofInt 64 (a.toInt - q * b.toInt))

/-- divn of R46. -/
def divU (a b : Word) : Word × Word :=
  if b = 0 then (0xFFFFFFFFFFFFFFFF#64, a)
  else (BitVec.ofNat 64 (a.toNat / b.toNat), BitVec.ofNat 64 (a.toNat % b.toNat))

/-- Bits [127:64] of the signed and of the unsigned product. -/
def mulHighS (a b : Word) : Word := BitVec.ofInt 64 (a.toInt * b.toInt / 2 ^ 64)
def mulHighU (a b : Word) : Word := BitVec.ofNat 64 (a.toNat * b.toNat / 2 ^ 64)

def shl (a b : Word) : Word := a <<< (b.toNat % 64)
def shr (a b : Word) : Word := a >>> (b.toNat % 64)
def sar (a b : Word) : Word := a.sshiftRight (b.toNat % 64)
def minS (a b : Word) : Word := if b.slt a then b else a
def maxS (a b : Word) : Word := if a.slt b then b else a
def minU (a b : Word) : Word := if b.ult a then b else a
def maxU (a b : Word) : Word := if a.ult b then b else a
def sltW (a b : Word) : Word := boolWord (a.slt b)
def sltnW (a b : Word) : Word := boolWord (a.ult b)

def execAdd (d a b : GReg) (s : State) : Out := rr (· + ·) d a b s
def execSub (d a b : GReg) (s : State) : Out := rr (· - ·) d a b s
def execAnd (d a b : GReg) (s : State) : Out := rr (· &&& ·) d a b s
def execOr (d a b : GReg) (s : State) : Out := rr (· ||| ·) d a b s
def execXor (d a b : GReg) (s : State) : Out := rr (· ^^^ ·) d a b s
def execAndn (d a b : GReg) (s : State) : Out := rr (fun x y => x &&& ~~~y) d a b s
def execSll (d a b : GReg) (s : State) : Out := rr shl d a b s
def execSrl (d a b : GReg) (s : State) : Out := rr shr d a b s
def execSra (d a b : GReg) (s : State) : Out := rr sar d a b s
def execMul (d a b : GReg) (s : State) : Out := rr (· * ·) d a b s
def execMulh (d a b : GReg) (s : State) : Out := rr mulHighS d a b s
def execMulhn (d a b : GReg) (s : State) : Out := rr mulHighU d a b s
def execDiv (d a b : GReg) (s : State) : Out := rr (fun x y => (divS x y).1) d a b s
def execDivn (d a b : GReg) (s : State) : Out := rr (fun x y => (divU x y).1) d a b s
def execRem (d a b : GReg) (s : State) : Out := rr (fun x y => (divS x y).2) d a b s
def execRemn (d a b : GReg) (s : State) : Out := rr (fun x y => (divU x y).2) d a b s
def execMin (d a b : GReg) (s : State) : Out := rr minS d a b s
def execMax (d a b : GReg) (s : State) : Out := rr maxS d a b s
def execMinn (d a b : GReg) (s : State) : Out := rr minU d a b s
def execMaxn (d a b : GReg) (s : State) : Out := rr maxU d a b s
def execSlt (d a b : GReg) (s : State) : Out := rr sltW d a b s
def execSltn (d a b : GReg) (s : State) : Out := rr sltnW d a b s
def execClz (d a : GReg) (s : State) : Out := r1 (fun x => BitVec.ofNat 64 (clz x)) d a s
def execCtz (d a : GReg) (s : State) : Out := r1 (fun x => BitVec.ofNat 64 (ctz x)) d a s
def execPopc (d a : GReg) (s : State) : Out := r1 (fun x => BitVec.ofNat 64 (popc x)) d a s
def execLea (d a b : GReg) (k : BitVec 2) (s : State) : Out := rr (fun x y => x + (y <<< k.toNat)) d a b s

def execAddi (d a : GReg) (imm : BitVec 16) (s : State) : Out := r1 (fun x => x + imm.signExtend 64) d a s
def execAndi (d a : GReg) (imm : BitVec 16) (s : State) : Out := r1 (fun x => x &&& imm.setWidth 64) d a s
def execOri (d a : GReg) (imm : BitVec 16) (s : State) : Out := r1 (fun x => x ||| imm.setWidth 64) d a s
def execXori (d a : GReg) (imm : BitVec 16) (s : State) : Out := r1 (fun x => x ^^^ imm.setWidth 64) d a s
def execSlti (d a : GReg) (imm : BitVec 16) (s : State) : Out := r1 (fun x => sltW x (imm.signExtend 64)) d a s
def execSltni (d a : GReg) (imm : BitVec 16) (s : State) : Out := r1 (fun x => sltnW x (imm.signExtend 64)) d a s
def execSlli (d a : GReg) (n : BitVec 6) (s : State) : Out := r1 (fun x => x <<< n.toNat) d a s
def execSrli (d a : GReg) (n : BitVec 6) (s : State) : Out := r1 (fun x => x >>> n.toNat) d a s
def execSrai (d a : GReg) (n : BitVec 6) (s : State) : Out := r1 (fun x => x.sshiftRight n.toNat) d a s
def execLi (d : GReg) (imm : BitVec 21) (s : State) : Out := writeReg d (fun _ => imm.signExtend 64) s

/-- x with halfword `pos` replaced (R50). -/
def insertHalf (x : Word) (pos : BitVec 2) (imm : BitVec 16) : Word :=
  (x &&& ~~~(0xFFFF#64 <<< (16 * pos.toNat))) ||| (imm.setWidth 64 <<< (16 * pos.toNat))

def execInsh (d : GReg) (pos : BitVec 2) (imm : BitVec 16) (s : State) : Out :=
  writeReg d (fun c => insertHalf (c.get d) pos imm) s

/-- A word offset from an instruction's own address (R30). -/
def relative {n : Nat} (here : Word) (off : BitVec n) : Word := here + (off.signExtend 64 <<< 2)

def execPcadd (d : GReg) (off : BitVec 21) (s : State) : Out := writeReg d (fun c => relative c.pc off) s

end Sys2Proof.Machine
end

