-- ==== Sys2Proof/Machine/Sync.lean ====
section
/-! DEFINITION. Sync tables and groups, channels, semaphores, and the start and end of threads, as operations shared by
instructions and events (R130 to R147, R264, R265, R314 to R316, R417). -/

namespace Sys2Proof.Machine

/-! ### The sync table and its spill (R138, R142) -/

/-- Where an entry stands: in the table, or spilled at an address. -/
inductive Place where
  | tab (i : Nat)
  | spill (a : Nat)
  deriving DecidableEq, Repr

def State.table (s : State) (isl : Nat) : List SyncEntry := s.sync.getD isl []

/-- The bit of a thread in the masks of its island (R138). -/
def bitOf (t : Nat) : BitVec 32 := 1#32 <<< (t % 32)

/-- The 128 bits of a spill record (R142). -/
def spillWord : SyncEntry → Nat
  | .group id m a => a.toNat * 2 ^ 96 + m.toNat * 2 ^ 64 + 1 * 2 ^ 62 + id
  | .lock key w => w.toNat * 2 ^ 64 + 2 * 2 ^ 62 + key

def spillEntry (r : Nat) : Option SyncEntry :=
  match bitsOf r 63 62 with
  | 1 => some (.group (bitsOf r 15 0) (BitVec.ofNat 32 (bitsOf r 95 64)) (BitVec.ofNat 32 (bitsOf r 127 96)))
  | 2 => some (.lock (bitsOf r 51 0) (BitVec.ofNat 32 (bitsOf r 95 64)))
  | _ => none

/-- The address of spill record i of an island (log 11). -/
def State.spillAddr (s : State) (isl i : Nat) : Nat := s.spbase.toNat + (isl * s.spsize.toNat + i) * 16

/-- The spill record at `a`, where the walker may read it (R142, R415, R418, R420): none of a record that its home refuses
or that is uncorrectable. DESIGN CHOICE: assumption 79. -/
def State.spillAt (s : State) (a : Nat) : Option Nat :=
  if s.mayLoad walkMaster a && !s.isBad a 16 then some (s.load a 16) else none

/-- The walker writes a spill record, where its home takes it; a write that its home refuses changes nothing. DESIGN CHOICE:
assumption 79. -/
def State.putSpill (s : State) (a v : Nat) : State := if s.mayStore walkMaster a then s.store a 16 v else s

/-- The spilled entries of an island, with their addresses. An entry stays spilled until it is freed (R142). -/
def State.spilled (s : State) (isl : Nat) : List (Nat × SyncEntry) :=
  (List.range s.spsize.toNat).filterMap (fun i =>
    let a := s.spillAddr isl i
    ((s.spillAt a).bind spillEntry).map (fun e => (a, e)))

/-- The entry for which `p` holds, in the table or spilled, and its place. -/
def State.findSync (s : State) (isl : Nat) (p : SyncEntry → Bool) : Option (Place × SyncEntry) :=
  match (s.table isl).zipIdx.find? (fun x => p x.1) with
  | some (e, i) => some (.tab i, e)
  | none => ((s.spilled isl).find? (fun x => p x.2)).map (fun x => (.spill x.1, x.2))

def State.putSync (s : State) (isl : Nat) (at' : Place) (e : SyncEntry) : State :=
  match at' with
  | .tab i => { s with sync := s.sync.put isl ((s.table isl).set i e) }
  | .spill a => s.putSpill a (spillWord e)

def State.dropSync (s : State) (isl : Nat) (at' : Place) : State :=
  match at' with
  | .tab i => { s with sync := s.sync.put isl ((s.table isl).eraseIdx i) }
  | .spill a => s.putSpill a 0

/-- A record that is read and not written again is corrected (R230, R234). -/
def State.mendSync (s : State) (at' : Place) : State :=
  match at' with
  | .tab _ => s
  | .spill a => s.corrected a 16

/-- Spill record `a` is free: its KIND is 0 or the reserved 3, which the part never writes (R142), and the walker may
write it. DESIGN CHOICE for KIND 3 and for a record that its home refuses: assumption 79. -/
def State.spillFree (s : State) (a : Nat) : Bool :=
  (match s.spillAt a with
   | some r => (spillEntry r).isNone
   | none => false) && s.mayStore walkMaster a

/-- Create an entry, spilled when the table is full; none when the spill table is full too (R142). -/
def State.newSync (s : State) (isl : Nat) (e : SyncEntry) : Option State :=
  if (s.table isl).length < 64 then some { s with sync := s.sync.put isl (s.table isl ++ [e]) }
  else ((List.range s.spsize.toNat).find? (fun i => s.spillFree (s.spillAddr isl i))).map (fun i =>
    s.putSpill (s.spillAddr isl i) (spillWord e))

def isGroup (g : Nat) : SyncEntry → Bool
  | .group id _ _ => id = g
  | _ => false

def isLock (k : Nat) : SyncEntry → Bool
  | .lock key _ => key = k
  | _ => false

/-! ### Groups (R139 to R141) -/

/-- The barrier flag names group g. -/
def BFlag.names (b : BFlag) (g : Nat) : Bool :=
  match b with
  | .none => false
  | .arrived h => h = g
  | .released h => h = g

/-- What the release of a barrier of group g does to a member (R141). -/
def Ctx.released (c : Ctx) (g : Nat) : Ctx :=
  if c.st = .waiting ∧ c.wait = .gbar g then { c with bf := .none }.retire 1
  else if c.bf.names g then { c with bf := .released g }
  else { c with rn := some g }

def State.releaseAll (s : State) (isl g : Nat) (members : BitVec 32) : State :=
  (List.range 32).foldl (fun s i =>
    if members.getLsbD i then s.setCtx (isl * 32 + i) ((s.ctx (isl * 32 + i)).released g) else s) s

/-- The check of R139, after a change of the entry at `at'`. -/
def State.checkGroup (s : State) (isl : Nat) (at' : Place) (g : Nat) (m a : BitVec 32) : State :=
  if m = 0 then s.dropSync isl at'
  else if a = m then (s.putSync isl at' (.group g m 0)).releaseAll isl g m
  else s.putSync isl at' (.group g m a)

/-- GLEAVE of group g by thread t (R139, R141). -/
def State.leaveGroup (s : State) (t g : Nat) : State :=
  let c := s.ctx t
  let s := s.setCtx t { c with bf := if c.bf.names g then .none else c.bf, rn := if c.rn = some g then none else c.rn }
  match s.findSync (islandOf t) (isGroup g) with
  | some (at', .group _ m a) =>
    if m &&& bitOf t = 0 then s.mendSync at' else s.checkGroup (islandOf t) at' g (m &&& ~~~bitOf t) (a &&& ~~~bitOf t)
  | _ => s

/-- The groups that a thread belongs to. -/
def State.groupsOf (s : State) (t : Nat) : List Nat :=
  let isl := islandOf t
  (s.table isl ++ (s.spilled isl).map (·.2)).filterMap (fun e => match e with
    | .group g m _ => if m &&& bitOf t = 0 then none else some g
    | _ => none)

/-! ### The start and the end of a thread (R131, R133, R417) -/

/-- init_context of R131, on a context that keeps its tvec and the causes that records raised while it was FREE. -/
def Ctx.init (c : Ctx) (tid : Nat) (entry arg parent : Word) (pri : BitVec 2) (fpctl : BitVec 3) (prv : Bool) : Ctx :=
  let r := Ctx.reset tid
  { r with g := (r.g.set 1 arg).set 2 parent, pc := entry, pri := pri, fpctl := fpctl,
           status := statusOf false false false prv, tvec := c.tvec, pend := c.pend &&& c.recPend,
           pendAddr := c.pendAddr, st := .runnable }

/-- Thread `t` leaves every group it belongs to, with the effect of GLEAVE (R133; R131, "none": DEDUCED, assumption 80). -/
def State.leaveAll (s : State) (t : Nat) : State := (s.groupsOf t).foldl (fun s g => s.leaveGroup t g) s

/-- init_context of R131 on thread `t`, whose context belongs to no group afterwards. -/
def State.initCtx (s : State) (t : Nat) (entry arg parent : Word) (pri : BitVec 2) (fpctl : BitVec 3) (prv : Bool) : State :=
  let s := s.leaveAll t
  s.setCtx t ((s.ctx t).init t entry arg parent pri fpctl prv)

/-- Steps 2 to 4 of EXIT: leave every group, discard pending causes, enter FREE (R133). -/
def State.retireThread (s : State) (t : Nat) : State :=
  let s := s.leaveAll t
  s.setCtx t { s.ctx t with bf := .none, rn := none, pend := 0, recPend := 0, pendAddr := [], st := .free, wait := .none,
                            held := none, pages := [], peeked := none, stop := false, leaving := false, tlb := [] }

def Ctx.slotsIdle (c : Ctx) : Bool := c.d.toList.all (fun x => x.count = 0)

/-- The free contexts of a core, lowest first. -/
def State.freeCtxs (s : State) (core : Nat) : List Nat :=
  ((List.range 8).map (fun i => core * 8 + i)).filter (fun t => (s.ctx t).st = .free)

/-! ### Semaphores (R315, R316) -/

def State.sem (s : State) (core n : Nat) : BitVec 32 := (s.core core).sems.getD n 0

def State.setSem (s : State) (core n : Nat) (v : BitVec 32) : State :=
  s.setCore core { s.core core with
    sems := if v = 0 then (s.core core).sems.drop n else (s.core core).sems.put n v }

/-- Serve the wait queue: the first waiter takes its count while it fits (R316). -/
def State.serveSem (s : State) (core n : Nat) : Nat → State
  | 0 => s
  | fuel + 1 =>
    match (s.core core).semq.getD n [] with
    | (t, k) :: q =>
      if k.ule (s.sem core n) then
        let s := s.setSem core n (s.sem core n - k)
        let s := s.setCore core { s.core core with semq := (s.core core).semq.put n q }
        (s.setCtx t ((s.ctx t).retire 1)).serveSem core n fuel
      else s
    | [] => s

/-! ### Withdrawing a wait (R22, R257, R378, R417) -/

/-- A wait whose event has come before the withdrawal: an LDF or LDFE that its ME has served (R257). -/
def State.served (s : State) (c : Ctx) : Bool :=
  match c.wait with
  | .answer r _ =>
    match s.reqs.find? r with
    | some q =>
      match q.op, q.st with
      | .ldf _, .answered _ => true
      | _, _ => false
    | none => false
  | _ => false

/-- Thread `t` no longer waits in a lock record (R22, R264). -/
def State.leaveLock (s : State) (t key : Nat) : State :=
  match s.findSync (islandOf t) (isLock key) with
  | some (at', .lock _ w) =>
    let w := w &&& ~~~bitOf t
    if w = 0 then s.dropSync (islandOf t) at' else s.putSync (islandOf t) at' (.lock key w)
  | _ => s

/-- The wait of thread `t` ends without its event: PC stays at the instruction, but a SEND in its delivery stage counts
as completed and a GBAR keeps its arrival (R22, R141, R144). Where the first waiter of a semaphore leaves its queue, those behind it
that now are first and fit are served (R315, R316). -/
def State.withdraw (s : State) (t : Nat) : State :=
  let c := s.ctx t
  let k := coreOf t
  let s := match c.wait with
    | .recv ch =>
      s.setCore k { s.core k with recvq := (s.core k).recvq.put ch (((s.core k).recvq.getD ch []).filter (· != t)) }
    | .sem n =>
      (s.setCore k { s.core k with semq := (s.core k).semq.put n (((s.core k).semq.getD n []).filter (·.1 != t)) }).serveSem k n 8
    | .answer r _ => { s with reqs := s.reqs.drop r }
    | .walk => { s with walks := s.walks.filter (fun w => w.2.who ≠ Walker.ctx t) }
    | .lock key => s.leaveLock t key
    | _ => s
  let c := match c.wait with
    | .send _ => { c with pc := c.pc + 4#64 }
    | _ => c
  s.setCtx t { c with wait := .none, held := none, pages := [], peeked := none, st := .runnable }

/-! ### Channels (R143 to R147) -/

def State.chan (s : State) (core ch : Nat) : List (List Word) := (s.core core).chans.getD ch []

def State.setChan (s : State) (core ch : Nat) (l : List (List Word)) : State :=
  s.setCore core { s.core core with
    chans := if l.isEmpty then (s.core core).chans.drop ch else (s.core core).chans.put ch l }

/-- The message's words in gd to gd + 3, zeros in the rest (R145). -/
def Ctx.takeMsg (c : Ctx) (d : GReg) (m : List Word) : Ctx :=
  (List.range 4).foldl (fun c i => c.set (d + BitVec.ofNat 5 i) (m.getD i 0)) c

/-- The first waiting RECV of a channel takes its oldest message, if both exist (R145). -/
def State.serveRecv (s : State) (core ch : Nat) : State :=
  match (s.core core).recvq.getD ch [], s.chan core ch with
  | t :: ts, m :: ms =>
    let s := s.setCore core { s.core core with recvq := (s.core core).recvq.put ch ts }
    let s := s.setChan core ch ms
    let c := s.ctx t
    match c.held with
    | some (.recv d _) => s.setCtx t ((c.takeMsg d m).retire 1)
    | _ => s.setCtx t c.wake
  | _, _ => s

/-- The mask of the channels named in `m` that hold a message (R146). -/
def State.ready (s : State) (core : Nat) (m : Word) : Word :=
  (List.range 64).foldl (fun w ch =>
    if m.getLsbD ch && !(s.chan core ch).isEmpty then w ||| (1#64 <<< ch) else w) 0#64

/-- The waiting WAITCHs of a core complete when a watched channel is not empty (R146). -/
def State.serveWaitch (s : State) (core : Nat) : State :=
  (List.range 8).foldl (fun s i =>
    let t := core * 8 + i
    let c := s.ctx t
    match c.wait, c.held with
    | .waitch m, some (.waitch d _) =>
      if s.ready core m = 0 then s else s.setCtx t ((c.set d (s.ready core m)).retire 1)
    | _, _ => s) s

/-- A message is placed whole in a channel that has room (R144). -/
def State.place (s : State) (core ch : Nat) (m : List Word) : State :=
  ((s.setChan core ch (s.chan core ch ++ [m])).serveWaitch core).serveRecv core ch

/-! ### Adding to semaphores (R315, R316) -/

/-- add of R315: the sum saturates, with a semaphore fault pending at thread `adder`. -/
def State.semAdd (s : State) (core n : Nat) (k : BitVec 32) (adder : Option Nat) : State :=
  let c := s.sem core n
  let s :=
    if 2 ^ 32 ≤ c.toNat + k.toNat then
      (let s := s.setSem core n 0xFFFFFFFF#32
       match adder with
       | some t => s.pendCause t 13 (BitVec.ofNat 64 (core * 64 + n))
       | none => s)
    else s.setSem core n (c + k)
  s.serveSem core n 8

end Sys2Proof.Machine
end

