-- ==== Sys2Proof/Machine/Records.lean ====
section
/-! DEFINITION. Records in the cores' record areas (R342 to R345, R333, R366, R393). -/

namespace Sys2Proof.Machine

/-- `n` bytes in which each field (offset, size, value) stands little-endian and every other byte is 0. -/
def layout (n : Nat) (fields : List (Nat × Nat × Nat)) : List Byte :=
  (List.range n).map (fun i =>
    match fields.find? (fun f => f.1 ≤ i && i < f.1 + f.2.1) with
    | some f => BitVec.ofNat 8 (f.2.2 / 256 ^ (i - f.1))
    | none => 0#8)

/-- Write a list of bytes at `a`. -/
def State.writeBytes (s : State) (a : Nat) (bs : List Byte) : State := s.writeMem a bs.length (leNat bs)

/-- The `n` bytes at `a`. -/
def State.bytesAt (s : State) (a n : Nat) : List Byte := (List.range n).map (fun i => Memory.get s.mem (a + i))

/-- The address of record number `seq` of a core (R342, R416). -/
def State.recordAddr (s : State) (core seq : Nat) : Nat := s.recbase.toNat + core * 8192 + seq % 64 * 128

/-- A record at `a` that is VALID, as the part reads it under its own master id (R343, R418); one that it may not read, or that is
uncorrectable there, is none. DESIGN CHOICE: assumption 78. -/
def State.validRecord (s : State) (a : Nat) : Bool :=
  Memory.get s.mem (a + 127) = 1#8 && s.mayLoad mdMaster a && !s.isBad (a + 127) 1

/-- The VALID byte of the slot is 1 (R342, R343). -/
def State.slotTaken (s : State) (core seq : Nat) : Bool := s.validRecord (s.recordAddr core seq)

/-- The 128 bytes of a record with its trailer (R343). -/
def recordBytes (r : PendRec) (seq : Nat) (time : Word) : List Byte :=
  (r.body ++ List.replicate (96 - r.body.length) 0#8).take 96 ++
    layout 32 [(0, 1, r.cls), (1, 1, r.cause), (4, 4, seq), (8, 8, r.owner), (16, 8, time.toNat), (31, 1, 1)]

/-- The record of a core's slot, byte by byte, where `master` may store it; a record that its home refuses is lost
(R415, R418, R420). DESIGN CHOICE: assumption 78. -/
def State.storeRecord (s : State) (a : Nat) (bs : List Byte) : State :=
  if s.mayStore mdMaster a then s.writeBytes a bs else s

/-- Write a record into the next slot of its core's area and set its cause pending at the owner (R343, R344). -/
def State.writeRecord (s : State) (r : PendRec) : State :=
  let core := coreOf r.owner
  let c := s.core core
  let a := s.recordAddr core c.recSeq
  let s := s.storeRecord a (recordBytes r c.recSeq s.gcyc)
  let s := s.setCore core { c with recSeq := (c.recSeq + 1) % 2 ^ 32 }
  let s := s.setCtx r.owner ((s.ctx r.owner).recordCause r.cause (BitVec.ofNat 64 a))
  match r.rid with
  | some rid => { s with res := s.res.adjust rid (fun x =>
      { x with recs := x.recs ++ [{ addr := a, kind := r.kind, stream := r.stream }] }) }
  | none => s

/-- A source writes its record, or keeps it and waits while the slot is taken (R342). -/
def State.postRecord (s : State) (r : PendRec) : State :=
  let core := coreOf r.owner
  let q := s.recq.getD core []
  if q.isEmpty && !s.slotTaken core (s.core core).recSeq then s.writeRecord r
  else { s.corrected (s.recordAddr core (s.core core).recSeq + 127) 1 with recq := s.recq.put core (q ++ [r]) }

/-- The oldest record that waits at a core is written once its slot is free. -/
def State.flushRecord (s : State) (core : Nat) : State :=
  match s.recq.getD core [] with
  | r :: rs =>
    if s.slotTaken core (s.core core).recSeq then s
    else ({ s with recq := if rs.isEmpty then s.recq.drop core else s.recq.put core rs }).writeRecord r
  | [] => s

/-- The address of the oldest VALID record of a cause for a thread, which sy.taddr holds at trap entry (R344). -/
def State.oldestRecord (s : State) (t cause : Nat) : Option Nat :=
  let core := coreOf t
  let next := (s.core core).recSeq
  ((List.range 64).map (fun i => s.recordAddr core (next + i))).find? (fun a =>
    s.validRecord a && (Memory.get s.mem (a + 97)).toNat = cause && s.readMem (a + 104) 8 = t && !s.isBad (a + 96) 16)

/-- A spill fault of a pan (R333). -/
def spillRecord (owner pan cause addr : Nat) (time : Word) : PendRec :=
  { body := layout 96 [(0, 2, pan), (2, 1, cause), (8, 8, addr), (16, 8, time.toNat)], cls := 2, cause := 7,
    owner := owner, rid := none, kind := 0, stream := 0 }

/-- A receive-ring overflow (R366). -/
def overflowRecord (owner desc : Nat) : PendRec :=
  { body := layout 96 [(0, 8, desc)], cls := 3, cause := 9, owner := owner, rid := none, kind := 0, stream := 0 }

/-- A refused image (R345, KIND 3), with the iteration counter and the open window of the region where it has one; `win` is 0 where it
has none. -/
def refusedRecord (owner lid isl cfg : Nat) (iter win : Nat) (r : Refuse) : PendRec :=
  { body := layout 96 [(0, 4, lid), (4, 1, 3), (5, 1, r.code.number), (6, 1, isl), (7, 1, cfg), (8, 4, iter % 2 ^ 32),
      (16, 8, win), (36, 4, r.idx), (40, 1, r.sect)], cls := 1, cause := 6, owner := owner, rid := none, kind := 3, stream := 0 }

end Sys2Proof.Machine
end

