-- ==== Sys2Proof/Machine/Rmw.lean ====
section
/-! DEFINITION. One update of an ME word: read-modify-write elements, update apertures and atomics (R125, R126, R260,
R261, R394, R432). -/

namespace Sys2Proof.Machine

/-- Bytes of the memory word of an update (R125). -/
def rmwBytes (o : LOp) (fmt : Nat) : Nat :=
  match o with
  | .mfadd => if fmt = 0 then 4 else if fmt = 3 then 8 else 2
  | _ => 4

/-- The storage format of an MFADD (R125). -/
def mfaddFmt (fmt : Nat) : Num.SFloat := if fmt = 0 then Num.SFloat.f32 else if fmt = 1 then .bf16 else .f16

/-- The new word, the lane emitted for the old word, and the flags (R125). The memory word stands before the operand in R83's order of
NaNs (DESIGN CHOICE: log 96). MFADD with FMT 3 emits the old lane's 36 bits as they are, not normalized or quieted, where the other
formats give the old value's lane with a NaN quieted (DESIGN CHOICE: log 97). -/
def rmwNew (o : LOp) (fmt : Nat) (rm : Num.RMode) (old : Nat) (b : Lane) : Nat × Lane × Flags :=
  let x := BitVec.ofNat 32 old
  let y := i32 b
  let n := fmt == 3
  let int (r : BitVec 32) : Nat × Lane × Flags := (r.toNat, ofI32 x, 0#5)
  match o with
  | .madd => int (x + y)
  | .msadd => int (satAdd32 n x y)
  | .mmin => int (if n then (if y.ult x then y else x) else if y.slt x then y else x)
  | .mmax => int (if n then (if x.ult y then y else x) else if x.slt y then y else x)
  | .mswap => int y
  | .mfadd =>
    if fmt = 3 then
      let l := BitVec.ofNat 36 old
      let r := Num.addR Num.ff36 rm (Num.unpackFF l) (Num.unpackFF b)
      ((Num.packFF r.1).toNat, l, r.2)
    else
      let t := mfaddFmt fmt
      let v := t.unpack old
      let r := Num.addR t.fmt rm v (Num.unpackFF b)
      let p := t.pack r.1
      (p.1, Num.packFF v.quiet, r.2 ||| p.2)
  | _ => (old, 0#36, 0#5)

/-- An atomic or update arrives at ME `n` (R389). -/
def State.arrive (s : State) (n : Nat) : State := { s with arrivals := s.arrivals.put n (s.arrivals.getD n 0 + 1) }

/-- One update of the word at physical address `pa`. The word must not be uncorrectable. -/
def State.update (s : State) (o : LOp) (fmt : Nat) (rm : Num.RMode) (pa : Nat) (b : Lane) (setF : Bool) :
    State × Lane × Flags :=
  let n := rmwBytes o fmt
  let (new, old, fl) := rmwNew o fmt rm (s.readMem pa n) b
  let s := (s.corrected pa n).writeMem pa n new
  (if setF then s.setFull pa n else s, old, fl)

/-- The update of doubleword `k` of an aperture (R394). -/
def apertureOp : Nat → LOp × Nat
  | 0 => (.madd, 2)
  | 1 => (.msadd, 2)
  | 2 => (.msadd, 3)
  | 3 => (.mmin, 2)
  | 4 => (.mmax, 2)
  | 5 => (.mmin, 3)
  | 6 => (.mmax, 3)
  | _ => (.mswap, 2)

/-- The word that a value written to an aperture names, and whether it is uncorrectable. -/
def State.apertureBad (s : State) (me : Nat) (v : Word) : Bool :=
  v.extractLsb' 15 17 = 0#17 && s.isBad (meBase me + 4 * (v.extractLsb' 0 15).toNat) 4

/-- A write of `v` to doubleword `k` of the aperture of ME `me` (R394). An update of an uncorrectable word, or with a
reserved bit set, is not made. -/
def State.aperture (s : State) (me k : Nat) (v : Word) : State :=
  let (o, fmt) := apertureOp k
  if v.extractLsb' 15 17 ≠ 0#17 ∨ s.apertureBad me v then s
  else ((s.arrive me).update o fmt .rne (meBase me + 4 * (v.extractLsb' 0 15).toNat)
    (ofI32 (v.extractLsb' 32 32)) true).1

/-! ### Atomics (R260, R261) -/

/-- Old value + b clamped to the signed range of `n` bits. -/
def satAdd (n : Nat) (a b : BitVec n) : BitVec n :=
  BitVec.ofInt n (clampInt (-2 ^ (n - 1)) (2 ^ (n - 1) - 1) (a.toInt + b.toInt))

/-- The new value of AOP `op` at width `n` and the flags (R260). FADD puts the memory word before the operand in R83's order of NaNs.
DESIGN CHOICE: log 96. -/
def amoNew (n : Nat) (t : Num.SFloat) (op : Nat) (old b : BitVec n) : BitVec n × Flags :=
  match op with
  | 0 => (old + b, 0#5)
  | 1 => (old &&& b, 0#5)
  | 2 => (old ||| b, 0#5)
  | 3 => (old ^^^ b, 0#5)
  | 4 => (if b.slt old then b else old, 0#5)
  | 5 => (if old.slt b then b else old, 0#5)
  | 6 => (if b.ult old then b else old, 0#5)
  | 7 => (if old.ult b then b else old, 0#5)
  | 8 => (b, 0#5)
  | 9 => (satAdd n old b, 0#5)
  | _ =>
    let r := Num.addR t.fmt .rne (t.unpack old.toNat) (t.unpack b.toNat)
    let p := t.pack r.1
    (BitVec.ofNat n p.1, r.2 ||| p.2)

/-- The new value in memory and the flags of an AMO. -/
def amoWord (op : Nat) (wide : Bool) (old : Nat) (b : Word) : Nat × Flags :=
  if wide then
    let r := amoNew 64 .f64 op (BitVec.ofNat 64 old) b
    (r.1.toNat, r.2)
  else
    let r := amoNew 32 .f32 op (BitVec.ofNat 32 old) (b.setWidth 32)
    (r.1.toNat, r.2)

/-- An AMO or CAS on the word at `pa`: the old value and the flags. -/
def State.amo (s : State) (pa op : Nat) (wide : Bool) (b : Word) : State × Nat × Flags :=
  let n := if wide then 8 else 4
  let old := s.readMem pa n
  let (new, fl) := amoWord op wide old b
  ((s.corrected pa n).writeMem pa n new, old, fl)

def State.casAt (s : State) (pa : Nat) (wide : Bool) (expect new : Word) : State × Nat :=
  let n := if wide then 8 else 4
  let m := 256 ^ n
  let old := s.readMem pa n
  let s := s.corrected pa n
  (if old = expect.toNat % m then s.writeMem pa n (new.toNat % m) else s, old)

end Sys2Proof.Machine
end

