-- ==== Sys2Proof/Machine/Trace.lean ====
section
/-! DEFINITION. Trace records, trace rings, Koro filters, and the log of recording and replay (R388 to R393). -/

namespace Sys2Proof.Machine

def State.traceCore (s : State) (die : Nat) : TraceCore := s.traces.getD die TraceCore.reset
def State.setTrace (s : State) (die : Nat) (t : TraceCore) : State := { s with traces := s.traces.put die t }

/-! ### Records -/

/-- The memory image of a register with byte 37 (R63, R373). -/
def imageOf (v : VReg) (b37 : Nat) : Nat := v.lanes.toNat + v.lm.toNat * 2 ^ 288 + b37 * 2 ^ 296

/-- Byte 37 of a token's image (R373, R389). -/
def tokenMark (t : Token) : Nat := t.rank % 8 + (if t.cut then 8 else 0) + (if t.prb then 16 else 0)

def tokenImage (t : Token) : Nat := imageOf t.v (tokenMark t)

/-- hash16 of a token's image (R389). -/
def hash16 (img : Nat) : BitVec 16 :=
  let h := (List.range 10).foldl (fun (h : BitVec 32) i =>
    (h ^^^ BitVec.ofNat 32 (img / 2 ^ (32 * i))) * 0x8DA6B343#32) 0#32
  (h ^^^ (h >>> 16)).setWidth 16

/-- A channel's CHAN field (R388). -/
def chanField (island x y port : Nat) : Nat := island * 2 ^ 18 + x * 2 ^ 12 + y * 2 ^ 6 + port * 8

/-- A record (R388). -/
def traceRecord (ty : Nat) (time : Word) (src chan ord data : Nat) : BitVec 128 :=
  BitVec.ofNat 8 ty ++ time.setWidth 40 ++ BitVec.ofNat 8 src ++ BitVec.ofNat 24 chan ++ BitVec.ofNat 32 ord ++
    BitVec.ofNat 16 data

def recType (r : BitVec 128) : Nat := (r.extractLsb' 120 8).toNat
def recChan (r : BitVec 128) : Nat := (r.extractLsb' 48 24).toNat
def recOrd (r : BitVec 128) : Nat := (r.extractLsb' 16 32).toNat
def recData (r : BitVec 128) : Nat := (r.extractLsb' 0 16).toNat

/-- A record is sent to a trace core, where it waits for the filter (R390, R391). -/
def State.sendTrace (s : State) (die : Nat) (r : BitVec 128) : State :=
  let t := s.traceCore die
  s.setTrace die { t with queue := t.queue ++ [r] }

/-! ### Rings -/

/-- Whether a ring of `size` bytes with `wr` records written and `rd` consumed has room for `n` more. -/
def ringRoom (size wr rd : Word) (n : Nat) : Bool := ((wr - rd).toNat + n) * 16 ≤ size.toNat

/-- Write a record into a ring, if the home accepts it (R420). -/
def State.putRecord (s : State) (die : Nat) (base size wr : Word) (r : BitVec 128) : State :=
  let a := base.toNat + wr.toNat * 16 % size.toNat
  if s.accepts (traceMaster die) a .write then s.writeMem a 16 r.toNat else s

/-- Once the ring has space again after records were dropped, one LOSS record is written before any other (R390). -/
def State.noteLoss (s : State) (die : Nat) : State :=
  let t := s.traceCore die
  if t.dropped ≠ 0 ∧ ringRoom t.tsize t.twr t.trd 1 then
    (s.putRecord die t.tbase t.tsize t.twr (traceRecord 6 s.gcyc (6 * 32) 0 t.dropped.toNat 0)).setTrace die
      { t with twr := t.twr + 1, dropped := 0 }
  else s

/-- A record that the filter keeps is written, or dropped where the ring is full (R390). -/
def State.keepRecord (s : State) (die : Nat) (r : BitVec 128) : State :=
  let s := s.noteLoss die
  let t := s.traceCore die
  if ringRoom t.tsize t.twr t.trd 1 then
    (s.putRecord die t.tbase t.tsize t.twr r).setTrace die { t with twr := t.twr + 1 }
  else s.setTrace die { t with lost := t.lost + 1, dropped := t.dropped + 1 }

/-! ### Koro filters (R391) -/

inductive Verdict where
  | keep
  | drop
  | count (n : Nat)
  | trig (n : Nat)
  deriving DecidableEq, Repr

/-- Field `f` of a record. -/
def koroField (r : BitVec 128) (f : Nat) : BitVec 32 :=
  match f with
  | 0 => (r.extractLsb' 120 8).setWidth 32
  | 1 => r.extractLsb' 80 32
  | 2 => (r.extractLsb' 112 8).setWidth 32
  | 3 => (r.extractLsb' 72 8).setWidth 32
  | 4 => (r.extractLsb' 48 24).setWidth 32
  | 5 => r.extractLsb' 16 32
  | _ => (r.extractLsb' 0 16).setWidth 32

def koroHash (x : BitVec 32) : BitVec 32 :=
  let k := x * 0x8DA6B343#32
  k ^^^ (k >>> 15)

/-- The filter from its instruction at `code`'s head on, with registers `k`. Branches only move forward. -/
def koroRun (r : BitVec 128) : Nat → List (BitVec 16) → List (BitVec 32) → Verdict
  | 0, _, _ => .keep
  | _, [], _ => .keep
  | fuel + 1, h :: code, k =>
    let d := (h.extractLsb' 9 3).toNat
    let a := k.getD (h.extractLsb' 6 3).toNat 0
    let b := k.getD (h.extractLsb' 3 3).toNat 0
    let set (v : BitVec 32) := koroRun r fuel code (k.set d v)
    match (h.extractLsb' 12 4).toNat with
    | 0 => set (koroField r (h.extractLsb' 0 3).toNat)
    | 1 => set ((k.getD d 0 <<< 9) ||| (h.extractLsb' 0 9).setWidth 32)
    | 2 => set (a + b)
    | 3 => set (a - b)
    | 4 => set (a &&& b)
    | 5 => set (a ||| b)
    | 6 => set (a ^^^ b)
    | 7 => set (a >>> (h.extractLsb' 0 5).toNat)
    | 8 => set (if a = b then 1 else 0)
    | 9 => set (if a.ult b then 1 else 0)
    | 10 => if a ≠ 0 then koroRun r fuel (code.drop (h.extractLsb' 0 6).toNat) k else koroRun r fuel code k
    | 11 => .count (h.extractLsb' 0 4).toNat
    | 12 => set (koroHash (k.getD d 0 ^^^ a))
    | 13 => .keep
    | 14 => .drop
    | _ => .trig (h.extractLsb' 0 2).toNat

/-- No reserved field of a filter instruction is set (R391; field 7 of FLD counts as reserved, log 14). -/
def koroOk (h : BitVec 16) : Bool :=
  let n := h.toNat
  match n / 4096 with
  | 0 => n / 8 % 64 = 0 && n % 8 ≠ 7
  | 1 => true
  | 2 | 3 | 4 | 5 | 6 | 8 | 9 => n % 8 = 0
  | 7 => n / 32 % 2 = 0
  | 10 => n / 512 % 8 = 0
  | 11 => n / 16 % 256 = 0
  | 12 => n % 64 = 0
  | 13 | 14 => n % 4096 = 0
  | _ => n / 4 % 1024 = 0

/-- A write of FLEN (R390). -/
def TraceCore.setFlen (t : TraceCore) (v : Word) : TraceCore :=
  let n := (v.extractLsb' 0 7).toNat
  if n ≤ 64 ∧ t.filter.all koroOk then
    { t with flen := v.extractLsb' 0 7, err := false, inForce := t.filter.take n }
  else { t with err := true }

/-! ### The log (R392, R393) -/

/-- RECCTL's mode and the thread that takes divergence traps (R390). -/
def TraceCore.mode (t : TraceCore) : Nat := (t.recctl.extractLsb' 0 2).toNat
def TraceCore.taker (t : TraceCore) : Nat := (t.recctl.extractLsb' 2 8).toNat * 8 + (t.recctl.extractLsb' 10 3).toNat
def TraceCore.setMode (t : TraceCore) (m : Nat) : TraceCore :=
  { t with recctl := (t.recctl &&& ~~~3#64) ||| BitVec.ofNat 64 (m % 4), used := [] }

/-- After an action the log rings hold every record that it wrote. A unit whose action would not leave room for its records
stalls (R392). -/
def State.logFits (before after : State) : Bool :=
  (List.range 4).all (fun die =>
    let t := after.traceCore die
    (before.traceCore die).rwr = t.rwr || ringRoom t.rsize t.rwr t.rrd 0)

/-- Write a record into the log while recording (R392). -/
def State.logRecord (s : State) (die : Nat) (r : BitVec 128) : State :=
  let t := s.traceCore die
  if t.mode = 1 then (s.putRecord die t.rbase t.rsize t.rwr r).setTrace die { t with rwr := t.rwr + 1 } else s

/-- Record `i` of the log, which the trace core reads under the table of its home; one that it may not read, or that is uncorrectable,
is of no type (R418, R420, log 14). -/
def State.logAt (s : State) (die i : Nat) : BitVec 128 :=
  let t := s.traceCore die
  let a := t.rbase.toNat + i * 16 % t.rsize.toNat
  if s.accepts (traceMaster die) a .read && !s.isBad a 16 then BitVec.ofNat 128 (s.readMem a 16) else 0#128

/-- What a record is matched by: its channel or ME, its pan, or its LID (R393). -/
def recKey (r : BitVec 128) : Nat :=
  match recType r with
  | 2 => recData r
  | 5 => recOrd r
  | _ => recChan r

/-- The records of the log from RRD on that the replay has not used. -/
def State.logLeft (s : State) (die : Nat) : List Nat :=
  let t := s.traceCore die
  ((List.range (t.rwr - t.rrd).toNat).map (fun i => t.rrd.toNat + i)).filter (fun i => !t.used.contains i)

/-- The next recorded record of a type for a key (R393). -/
def State.expected (s : State) (die ty key : Nat) : Option (Nat × BitVec 128) :=
  ((s.logLeft die).map (fun i => (i, s.logAt die i))).find? (fun p => recType p.2 = ty && recKey p.2 = key)

def State.replaying (s : State) (die : Nat) : Bool :=
  let t := s.traceCore die
  t.mode = 2 || t.mode = 3

/-- Record `i` has been used; a replay that reaches the end of its log ends (R393). -/
def State.useRecord (s : State) (die i : Nat) : State :=
  let t := s.traceCore die
  let s := (s.corrected (t.rbase.toNat + i * 16 % t.rsize.toNat) 16).setTrace die { t with used := insertNat i t.used }
  if (s.logLeft die).isEmpty then s.setTrace die ((s.traceCore die).setMode 0) else s

/-- The divergence record (R393). -/
def divergence (taker chan ord ty exp obs pos : Nat) : PendRec :=
  { body := layout 96 [(0, 8, chan), (8, 8, ord), (16, 1, ty), (20, 2, exp), (22, 2, obs), (24, 8, pos)], cls := 4,
    cause := 10, owner := taker, rid := none, kind := 0, stream := 0 }

end Sys2Proof.Machine
end

