-- ==== Sys2Proof/Machine/Debug.lean ====
section
/-! DEFINITION. Halting contexts, stops at a consistent cut, watch slots and replay checks (R9, R379, R383 to R386,
R393, R417). -/

namespace Sys2Proof.Machine

/-! ### Halting a context (R9, R378, R385, R417) -/

/-- The context enters HALTED at its next instruction boundary; a wait is withdrawn as under R22, unless its event has come
first: an LDF or LDFE that has been served completes (R257). -/
def State.haltCtx (s : State) (t : Nat) : State :=
  let c := s.ctx t
  match c.st with
  | .waiting =>
    if s.served c then s.setCtx t { c with st := .runnable, stop := true }
    else
      let s := s.withdraw t
      s.setCtx t { s.ctx t with st := .halted }
  | .runnable =>
    if c.held = none ∧ c.wait = .none then s.setCtx t { c with st := .halted, waited := 0 } else s.setCtx t { c with stop := true }
  | _ => s

/-! ### Stops (R385) -/

def State.dbgBlk (s : State) (isl : Nat) : DebugBlk := s.dbg.getD isl DebugBlk.reset
def State.setDbg (s : State) (isl : Nat) (b : DebugBlk) : State := { s with dbg := s.dbg.put isl b }

/-- An island granted to the program (R416). -/
def State.granted (s : State) (isl : Nat) : Bool := s.grant.getLsbD isl

/-- Threads that run, of those for which `p` holds. -/
def State.running (s : State) (p : Nat → Bool) : List Nat :=
  (s.ctxs.filter (fun x => p x.1 && (x.2.st = .runnable || x.2.st = .waiting))).map (·.1)

/-- The number of the controller tree behind the units and the stores of a region. -/
def Residency.treeNo (r : Residency) : Nat := r.units.length + r.stores.length

/-- A stop's marker has reached unit, store or tree `n`, which fires no more; a unit finishes the firing it is in (R385). -/
def Residency.halts (r : Residency) (n : Nat) : Bool :=
  r.halted.contains n && ((r.units[n]?).map (fun x => decide (x.run.next = 0))).getD true

/-- A region to which a stop comes at unit, store or tree `n`. One that an element fault holds stands still already. -/
def Residency.takeStop (r : Residency) (n : Nat) : Residency :=
  if r.hold = .fault then { r with halted := List.range (r.treeNo + 1), dbg := true } else { r with halted := insertNat n r.halted }

/-- Stop `id` takes in islands, regions, each from where its marker starts, contexts and slots (R385, R386). -/
def State.widen (s : State) (id : Nat) (islands : List Nat) (regions : List (Nat × Nat)) (ctxs : List Nat) (hits : List (Nat × Nat)) :
    State :=
  let x := s.stops.getD id { islands := [], regions := [], ctxs := [], hits := [], complete := false }
  let add (l m : List Nat) : List Nat := l ++ m.filter (fun i => !l.contains i)
  let s := { s with stops := s.stops.put id { x with
    islands := add x.islands islands, regions := add x.regions (regions.map (·.1)), ctxs := add x.ctxs ctxs,
    hits := x.hits ++ hits.filter (fun h => !x.hits.contains h) } }
  let s := regions.foldl (fun (s : State) r => { s with res := s.res.adjust r.1 (·.takeStop r.2) }) s
  let s := ctxs.foldl (fun (s : State) t => (s.setCtx t { s.ctx t with broke := true }).haltCtx t) s
  islands.foldl (fun (s : State) i =>
    let b := s.dbgBlk i
    if b.stops.contains id then s else s.setDbg i { b with stops := b.stops ++ [id] }) s

/-- The regions for which `p` holds, each stopped from its controller tree on (log 101). -/
def State.fromTree (s : State) (p : Residency → Bool) : List (Nat × Nat) :=
  (s.res.filter (fun r => p r.2)).map (fun r => (r.1, r.2.treeNo))

/-- A break with STOP `kind` at residency `lid` on an island, whose marker starts at `seed` (R383). A break in a region to which
another stop is still coming joins that stop (R386). -/
def State.startStop (s : State) (isl kind lid seed : Nat) (hits : List (Nat × Nat)) : State :=
  let (id, s) := match List.find? (fun x => !x.2.complete && x.2.regions.contains lid) s.stops with
    | some x => (x.1, s)
    | none => (s.nextId, s.fresh)
  if kind = 2 then
    s.widen id ((List.range 64).filter s.granted) ((if (s.res.find? lid).isSome ∧ hits ≠ [] then [(lid, seed)] else []) ++
        s.fromTree (fun r => s.granted r.island && (r.lid ≠ lid || hits.isEmpty)))
      (s.running (fun t => s.granted (islandOf t))) hits
  else
    match s.res.find? lid with
    | some r => s.widen id [isl] [(lid, seed)] (if kind = 1 then s.running (fun t => t = r.owner) else []) hits
    | none => s

/-- REQ: every residency of the island (R384). -/
def State.stopIsland (s : State) (isl : Nat) : State :=
  s.fresh.widen s.nextId [isl] (s.fromTree (fun r => r.island = isl)) [] []

/-- A context that a stop halted goes on. -/
def Ctx.continue' (c : Ctx) : Ctx :=
  if c.broke then
    { c with broke := false, stop := false, st := if c.st = .halted then .runnable else c.st }
  else c

/-- A region goes on from where it stands. -/
def Residency.goOn (r : Residency) : Residency := { r with halted := [], dbg := false }

/-- Stop `id` ends: what it stopped and no other stop holds goes on, a saved residency too. -/
def State.endStop (s : State) (id : Nat) : State :=
  match s.stops.find? id with
  | none => s
  | some st =>
    let s := { s with stops := s.stops.drop id }
    let s := st.islands.foldl (fun (s : State) i =>
      s.setDbg i { s.dbgBlk i with stops := (s.dbgBlk i).stops.filter (· ≠ id) }) s
    let s := st.ctxs.foldl (fun (s : State) t =>
      if s.stops.any (fun x => x.2.ctxs.contains t) then s else s.setCtx t (s.ctx t).continue') s
    st.regions.foldl (fun (s : State) r =>
      if s.stops.any (fun x => x.2.regions.contains r) then s
      else { s with res := s.res.adjust r Residency.goOn,
                    saved := s.saved.map (fun v => if v.2.res.lid = r then (v.1, { v.2 with res := v.2.res.goOn }) else v) }) s

/-! ### Replay (R393) -/

/-- The die of an island (R6). -/
def dieOf (isl : Nat) : Nat := isl / 16

/-- A divergence: its record and its stop. -/
def State.diverge (s : State) (die : Nat) (chan ord ty exp obs pos : Nat) : State :=
  let t := s.traceCore die
  let s := s.postRecord (divergence t.taker chan ord ty exp obs pos)
  if t.mode = 2 then s.startStop 0 2 0 0 [] else s.setTrace die (t.setMode 0)

/-- A record is logged while recording and checked in a replay (R392, R393). -/
def State.observe (s : State) (die : Nat) (r : BitVec 128) : State :=
  if s.replaying die then
    match s.expected die (recType r) (recKey r) with
    | some (i, e) =>
      let s := s.useRecord die i
      if recOrd e = recOrd r ∧ recData e = recData r then s
      else s.diverge die (recChan r) (recOrd r) (recType r) (recData e) (recData r) i
    | none => s
  else s.logRecord die r

/-! ### Watch slots (R383) -/

/-- The fields of a slot. -/
def slotMode (d : Word × Word) : Nat := (d.1.extractLsb' 62 2).toNat
def slotEvt (d : Word × Word) : Nat := (d.1.extractLsb' 60 2).toNat
def slotStop (d : Word × Word) : Nat := (d.1.extractLsb' 58 2).toNat
def slotLid (d : Word × Word) : Nat := (d.1.extractLsb' 0 32).toNat
def slotX (d : Word × Word) : Nat := (d.2.extractLsb' 58 6).toNat
def slotY (d : Word × Word) : Nat := (d.2.extractLsb' 52 6).toNat
def slotPort (d : Word × Word) : Nat := (d.2.extractLsb' 49 3).toNat
def slotOrd (d : Word × Word) : Nat := (d.2.extractLsb' 0 32).toNat

/-- A slot that has started a stop: HIT set, MODE 0. -/
def slotHit (d : Word × Word) : Word × Word :=
  (((d.1 &&& ~~~(3#64 <<< 62)) ||| (1#64 <<< 57)), d.2)

/-- The slots whose breaks stop `id` answers set HIT and return MODE to 0, unless software has changed their mode (R383, R386). -/
def State.markHits (s : State) (id : Nat) : State :=
  match s.stops.find? id with
  | none => s
  | some x =>
    let s := x.hits.foldl (fun (s : State) h =>
      let b := s.dbgBlk h.1
      s.setDbg h.1 { b with slots := modifyAt b.slots h.2 (fun d => if slotMode d = 2 then slotHit d else d) }) s
    { s with stops := s.stops.put id { x with hits := [] } }

/-- Everything that a stop holds stands still. A residency that is saved or being saved stops after its restore (R386). -/
def State.stopped (s : State) (x : Stop) : Bool :=
  x.regions.all (fun rid => ((s.res.find? rid).map (fun r => r.dbg || r.hold = .saving)).getD true) &&
    x.ctxs.all (fun t => (s.ctx t).st = .halted || (s.ctx t).st = .free)

/-- Stop `id` is complete once everything that it holds stands still (R384, R385). -/
def State.completeStop (s : State) (id : Nat) : State :=
  match s.stops.find? id with
  | some x =>
    if !x.complete ∧ s.stopped x then
      (let s := s.markHits id
       { s with stops := s.stops.adjust id (fun x => { x with complete := true }) })
    else s
  | none => s

/-- CONT: every stop that holds this island ends, on every island (R384, R385). One that is not complete yet counts as having stopped
(log 101). -/
def State.contIsland (s : State) (isl : Nat) : State := (s.dbgBlk isl).stops.foldl (fun s id => (s.markHits id).endStop id) s

/-- An element fault in a region to which a stop is still coming: the stop is abandoned (R386). -/
def State.abandonStops (s : State) (rid : Nat) : State :=
  ((s.stops.filter (fun x => !x.2.complete && x.2.regions.contains rid)).map (·.1)).foldl State.endStop s

/-- A complete stop holds the region. -/
def State.stopHolds (s : State) (rid : Nat) : Bool := s.stops.any (fun x => x.2.complete && x.2.regions.contains rid)

/-- A watch slot: its island and number, and its doublewords. -/
structure Watch where
  isl  : Nat
  n    : Nat
  slot : Word × Word

/-- The slots of the package in use. A slot follows its residency to whatever island it is restored on. -/
def State.watches (s : State) : List Watch :=
  s.dbg.flatMap (fun b => (b.2.slots.zipIdx.map (fun p => { isl := b.1, n := p.2, slot := p.1 })).filter
    (fun w => slotMode w.slot ≠ 0))

/-- The slots that watch a channel of residency `lid` for an event. -/
def State.watchers (s : State) (lid x y port evt : Nat) : List Watch :=
  s.watches.filter (fun w => slotEvt w.slot = evt && slotLid w.slot = lid && slotX w.slot = x && slotY w.slot = y
    && slotPort w.slot = port)

/-- A MODE 3 slot names the residency (R392). -/
def State.logged (s : State) (lid : Nat) : Bool := s.watches.any (fun w => slotMode w.slot = 3 && slotLid w.slot = lid)

/-- A token event on a channel of residency `lid`, whose site (x, y) is relative to the region at (ox, oy): records, the
log, and breaks. The breaks that the token meets start one stop at `seed`, as wide as the widest (R386). -/
def State.tokenEvent (s : State) (isl lid seed ox oy x y port kind evt ord : Nat) (t : Token) : State :=
  let r := traceRecord 1 s.gcyc kind (chanField isl (ox + x) (oy + y) port) (ord % 2 ^ 32) (hash16 (tokenImage t)).toNat
  let ws := s.watchers lid x y port evt
  let hits := ws.filter (fun w => slotMode w.slot = 2 && slotOrd w.slot = ord % 2 ^ 32)
  let s := ws.foldl (fun (s : State) w =>
    match slotMode w.slot with
    | 1 => s.sendTrace (dieOf isl) r
    | 3 => s.observe (dieOf isl) r
    | _ => s) s
  if hits.isEmpty then s
  else s.startStop isl (hits.foldl (fun k w => max k (slotStop w.slot)) 0) lid seed (hits.map (fun w => (w.isl, w.n)))

/-- The MEs that MODE 3 slots name with PORT 0: an atomic or update that arrives there is recorded or checked (R392). `who`
names the requester: a master or, for a site of a residency, 2^24 and its CHAN field (R389). -/
def State.atomicEvent (s : State) (me who pa : Nat) : State :=
  let isl := me / 384
  let site := meSite (me % 384)
  let named := s.watches.any (fun w =>
    slotMode w.slot = 3 && slotPort w.slot = 0 &&
      (match s.res.find? (slotLid w.slot) with
       | some r => r.island = isl && (r.ox + slotX w.slot, r.oy + slotY w.slot) = site
       | none => false))
  if named then
    s.observe (dieOf isl) (traceRecord 3 s.gcyc (5 * 32) (chanField isl site.1 site.2 0) (s.arrivals.getD me 0 % 2 ^ 32)
      (Config.atomicHash who pa).toNat)
  else s

/-- The same for a write of `v` to the aperture of an ME; one with a reserved bit set updates nothing (R394). -/
def State.apertureEvent (s : State) (me who : Nat) (v : Word) : State :=
  if v.extractLsb' 15 17 = 0#17 then s.atomicEvent me who (meBase me + 4 * (v.extractLsb' 0 15).toNat) else s

end Sys2Proof.Machine
end

