-- ==== Sys2Proof/Machine/Boot.lean ====
section
/-! DEFINITION. Bring-up, core control blocks, attestation and power (R411 to R417, R421, R422). -/

namespace Sys2Proof.Machine

/-! ### Control blocks (R417) -/

/-- START on a HALTED context. -/
def State.ccmdStart (s : State) (core x : Nat) : State :=
  let t := core * 8 + x
  let c := s.ctx t
  let k := s.core core
  if c.st = .halted then
    (s.setCtx t { c with tvec := k.ctvec, pend := 0, recPend := 0, pendAddr := [] }).initCtx t k.cpc k.carg
      0xFFFFFFFFFFFFFFFF#64 0 0 k.cprv
  else s

/-- A RELEASE whose context's slots are all 0 ends as EXIT does (R133). -/
def State.release (s : State) (t : Nat) : State :=
  (s.setCtx t { s.ctx t with tvec := (s.core (coreOf t)).ctvec }).retireThread t

/-- RELEASE on a HALTED context; it waits for the context's slots (log 16). -/
def State.ccmdRelease (s : State) (core x : Nat) : State :=
  let t := core * 8 + x
  let c := s.ctx t
  if c.st = .halted then
    (if c.slotsIdle then s.release t else s.setCtx t { c with leaving := true })
  else s

/-- STOP on a RUNNABLE or WAITING context. -/
def State.ccmdStop (s : State) (core x : Nat) : State := s.haltCtx (core * 8 + x)

/-- A write of CCMD. -/
def State.ccmd (s : State) (core : Nat) (v : Word) : State :=
  let x := (v.extractLsb' 0 3).toNat
  if v.extractLsb' 6 58 ≠ 0#58 ∨ v.getLsbD 3 then s
  else match (v.extractLsb' 4 2).toNat with
    | 1 => s.ccmdStart core x
    | 2 => s.ccmdRelease core x
    | 3 => s.ccmdStop core x
    | _ => s

/-- CSTAT: the states of the eight contexts. -/
def State.cstat (s : State) (core : Nat) : Word :=
  (List.range 8).foldl (fun (w : Word) x =>
    let v := match (s.ctx (core * 8 + x)).st with
      | .free => 0
      | .halted => 2
      | _ => 1
    w ||| (BitVec.ofNat 64 v <<< (2 * x))) 0#64

/-! ### The boot image (R411 to R413) -/

/-- Etend and stack 0 are up: the boot ROM brings them up before it waits for BOOTGO, and the image lies in stack 0 (R411, R415). -/
def State.bootReady (s : State) : Bool := s.readyBit 1 && s.stackReady 0

/-- A write of BOOTGO starts the check, unless the boot ROM does not wait for it yet, a check runs or the image already runs (log
17). -/
def State.bootGo (s : State) (len : Word) : State :=
  if !s.bootReady ∨ s.bootstat = 1 ∨ s.bootstat = 2 then s else { s with bootstat := 1, bootLen := some len.toNat }

/-- The header holds valid values (R412). -/
def bootHeaderOk (h : List Byte) (len : Nat) : Bool :=
  let clen := fieldAt h 12 4
  let entry := fieldAt h 8 4
  fieldAt h 0 4 = 0x56584657 && fieldAt h 4 4 = len && len % 64 = 0 && 1024 ≤ len && len ≤ 64 * 2 ^ 20
    && entry % 4 = 0 && entry < clen && 4 ≤ clen && clen ≤ 65536 && clen ≤ len - 1024
    && leNat ((h.drop 16).take 48) = 0 && leNat ((h.drop 832).take 192) = 0

/-- The check's outcome: 2, or the failure that BOOTSTAT reports (R413, R416). -/
def State.bootCheck (s : State) (len : Nat) : Nat :=
  let h := s.bytesAt 0 1024
  if !bootHeaderOk h len then 3
  else
    let sig := (h.drop 64).take 384
    let modulus := (h.drop 448).take 384
    if Hash.beNat (Hash.sha256 modulus) ≠ Config.fusedKeyHash.toNat then 4
    else if Hash.rsaVerify modulus sig (h.take 64 ++ s.bytesAt 448 (len - 448)) then 2
    else 5

/-- Steps 4 to 6 of R411, on an image that has passed. -/
def State.bootStart (s : State) (len : Nat) : State :=
  let h := s.bytesAt 0 16
  let entry := BitVec.ofNat 64 (clmBase 0 + fieldAt h 8 4)
  let s := { s.writeBytes (clmBase 0) (s.bytesAt 1024 (fieldAt h 12 4)) with imgHash := Hash.sha256 (s.bytesAt 0 len) }
  s.setCtx 0 { s.ctx 0 with tvec := entry, pc := entry, st := .runnable, status := 1#4 }

/-- The check ends. -/
def State.bootDone (s : State) : State :=
  match s.bootLen with
  | none => s
  | some len =>
    if !s.bootReady then s
    else
      let r := s.bootCheck len
      let s := { s.corrected 0 len with bootstat := BitVec.ofNat 64 r, bootLen := none }
      if r = 2 then s.bootStart len else s

/-- A package reset: every part of the state as after reset, but for memory outside the MEs, the host's memory and what
the host and peers have been sent (log 18). The model's own fields go on. -/
def State.packageReset (s : State) : State :=
  { State.reset with
    mem := s.mem.filter (fun c => !(0x4000000000 ≤ c.1 && c.1 < 0x4100000000)),
    bad := s.bad.filter (fun w => !(0x4000000000 ≤ 8 * w && 8 * w < 0x4100000000)),
    single := s.single.filter (fun w => !(0x4000000000 ≤ 8 * w && 8 * w < 0x4100000000)),
    host := s.host, spares := s.spares, sent := s.sent, hostIn := s.hostIn, hostOut := s.hostOut, etend := s.etend, nextId := s.nextId, cycle := s.cycle,
    cy := s.cy, tick := s.tick, inputs := s.inputs }

/-! ### Ready bits (R414, R415) -/

/-- sy.ready of a core on a die (R414). -/
def State.syReady (s : State) (die : Nat) : Word :=
  (s.ready1 &&& 0x3FFFFFFFFFFF#64) ||| ((s.ready0 >>> (16 * die)) &&& 0xFFFF#64) <<< 46

/-- A core that is in reset: its island is not ready (R415). -/
def State.inReset (s : State) (core : Nat) : Bool := !s.islandReady (core / 4)

/-! ### Attestation (R421) -/

/-- Bytes 0 to 79 of a quote. -/
def State.quoteHead (s : State) : List Byte :=
  s.imgHash ++ s.qnonce.flatMap (fun w => bytesOf 8 w.toNat) ++ bytesOf 2 s.link.devid.toNat ++ List.replicate 6 0#8 ++
    bytesOf 8 Config.serial.toNat

/-- Doublewords of a list of bytes. -/
def dwords (bs : List Byte) : List Word :=
  (List.range (bs.length / 8)).map (fun i => BitVec.ofNat 64 (fieldAt bs (8 * i) 8))

def State.quoteGo (s : State) : State :=
  let h := s.quoteHead
  { s with quote := dwords (h ++ Hash.beBytes (Config.deviceSign h) 384) }

/-- A read of QDATA takes the next doubleword. -/
def State.quoteNext (s : State) : Word × State := (s.quote.headD 0, { s with quote := s.quote.tail })

/-! ### Power and heat (R422) -/

/-- The throttle's step: down while PWR is above PCAP, up while it is below PCAP − 50 W, 32/64 while a die is at 105 °C. -/
def State.throttle (s : State) : State :=
  let p := s.pwr.toNat
  let t := s.thr.toNat
  if !s.hot.isEmpty then { s with thr := 32 }
  else if s.pcap.toNat < p then { s with thr := BitVec.ofNat 64 (max 32 (t - 1)) }
  else if p + 50 < s.pcap.toNat then { s with thr := BitVec.ofNat 64 (min 64 (t + 1)) }
  else s

/-- A die reports a temperature. -/
def State.thermal (s : State) (die celsius : Nat) : State :=
  if 115 ≤ celsius then { s.packageReset with etend := some die }
  else if 105 ≤ celsius then { s with hot := insertNat die s.hot, thr := 32 }
  else { s with hot := removeNat die s.hot }

end Sys2Proof.Machine
end

