-- ==== Sys2Proof/Machine/Registers.lean ====
section
/-! DEFINITION. The device-register window: what a read returns and what a write does (R53, R382 to R387, R390, R394,
R398, R416, R417, R419). Offsets to which the manual gives no register read 0 and ignore writes (log 15). -/

namespace Sys2Proof.Machine

/-! ### Statistics of a site (R387) -/

/-- The placed residency that holds a site of an island. -/
def State.holder (s : State) (isl x y : Nat) : Option (Nat × Residency) :=
  List.find? (fun p =>
    let sz := shapeSize p.2.plan.img.shape
    p.2.island = isl && p.2.ox ≤ x && x < p.2.ox + sz.1 && p.2.oy ≤ y && y < p.2.oy + sz.2) s.res

/-- The first element record at a site of a residency. -/
def Residency.elemOn (r : Residency) (x y : Nat) : Option Nat :=
  r.plan.img.elems.findIdx? (fun e => r.ox + e.x = x && r.oy + e.y = y)

/-- Bytes 0 to 43 of a site's statistics. -/
def statBytes (u : UnitSt) : Nat :=
  let s := u.core.stalls
  let at' (k : Nat) (v : Nat) : Nat := v * 256 ^ k
  at' 0 s.empty.toNat + at' 4 s.full.toNat + at' 8 s.blame.toNat
    + (s.excess.zipIdx.map (fun p => at' (16 + 4 * p.2) p.1.toNat)).sum
    + at' 32 s.worst.toNat + at' 36 s.wfir.toNat + at' 40 s.fires.toNat

def State.siteStats (s : State) (isl x y : Nat) : Nat :=
  match s.holder isl x y with
  | some (_, r) =>
    match r.elemOn x y with
    | some u => (r.units[u]?.map statBytes).getD 0
    | none => 0
  | none => 0

/-- The counters of a site at the start of a configuration (R155, R387). -/
def Stalls.zero : Stalls := { empty := 0, full := 0, blame := 3, excess := [0, 0, 0, 0], extra := [0, 0, 0, 0], worst := 0, wfir := 0, fires := 0 }

/-- A ST.D at byte 0 clears bytes 0 to 43; what the interval under way has been charged stays. -/
def State.clearStats (s : State) (isl x y : Nat) : State :=
  match s.holder isl x y with
  | some (lid, r) =>
    match r.elemOn x y with
    | some u => { s with res := s.res.put lid { r with units := modifyAt r.units u (fun v =>
        { v with core := { v.core with stalls := { Stalls.zero with blame := 0, extra := v.core.stalls.extra } } }) } }
    | none => s
  | none => s

/-! ### Places of the window -/

/-- A register of the window, at an aligned doubleword. -/
inductive RegAt where
  | table (t e : Nat) (hi : Bool)
  | aperture (me k : Nat)
  | watch (isl i : Nat) (hi : Bool)
  | istop (isl : Nat)
  | stats (isl x y k : Nat)
  | trace (die off : Nat)
  | link (off : Nat)
  | sys (off : Nat)
  | ctl (core k : Nat)
  | none
  deriving DecidableEq, Repr

/-- The register at the doubleword that holds physical address `pa`. -/
def regAt (pa : Nat) : RegAt :=
  let a := pa / 8 * 8
  if a < 0x4200000000 + 25002 * 0x100 then
    (let o := a - 0x4200000000
     .table (o / 0x100) (o % 0x100 / 16) (o % 16 = 8))
  else if 0x4204000000 ≤ a ∧ a < 0x4204000000 + 64 * 0x10000 then
    (let o := a - 0x4204000000
     let j := o % 0x10000 / 0x40
     if j < 384 then .aperture (o / 0x10000 * 384 + j) (o % 0x40 / 8) else .none)
  else if 0x4208000000 ≤ a ∧ a < 0x4208000000 + 64 * 0x40000 then
    (let o := a - 0x4208000000
     let isl := o / 0x40000
     let q := o % 0x40000
     if q < 0x100 then .watch isl (q / 16) (q % 16 = 8)
     else if q = 0x100 then .istop isl
     else if 0x10000 ≤ q ∧ q < 0x10000 + 64 * 2560 then
       (let n := (q - 0x10000) / 64
        .stats isl (n % 40) (n / 40) (q % 64 / 8))
     else .none)
  else if 0x420C000000 ≤ a ∧ a < 0x420C000000 + 4 * 0x10000 then
    .trace ((a - 0x420C000000) / 0x10000) (a % 0x10000)
  else if 0x420D000000 ≤ a ∧ a < 0x420D010000 then .link (a % 0x10000)
  else if 0x420E000000 ≤ a ∧ a < 0x420E001000 then .sys (a % 0x1000)
  else if 0x420F000000 ≤ a ∧ a < 0x420F000000 + 256 * 0x40 then
    .ctl ((a - 0x420F000000) / 0x40) (a % 0x40 / 8)
  else .none

/-! ### Reading -/

/-- Doubleword `off` of a trace-core block (R390). -/
def TraceCore.read (t : TraceCore) (off : Nat) : Word :=
  match off with
  | 0x000 => t.tbase
  | 0x008 => t.tsize
  | 0x010 => t.twr
  | 0x018 => t.trd
  | 0x020 => t.lost
  | 0x028 => t.rbase
  | 0x030 => t.rsize
  | 0x038 => t.rwr
  | 0x040 => t.rrd
  | 0x048 => t.recctl
  | 0x050 => t.trigact
  | 0x180 => (BitVec.ofBool t.err ++ t.flen).setWidth 64
  | _ =>
    if 0x100 ≤ off ∧ off < 0x180 then
      let h (i : Nat) : BitVec 16 := t.filter.getD ((off - 0x100) / 2 + i) 0
      h 3 ++ h 2 ++ h 1 ++ h 0
    else if 0x200 ≤ off ∧ off < 0x280 then t.counts.getD ((off - 0x200) / 8) 0
    else 0

/-- PSTAT of a port (R398). -/
def LinkBlk.pstat (l : LinkBlk) (p : Nat) : Word :=
  let n := l.lanes.getD p 0
  BitVec.ofNat 64 (n + (if n = 0 then 0 else 256)) ||| ((l.resent.getD p 0).setWidth 64 <<< 32)

/-- Doubleword `off` of the link block (R398). -/
def LinkBlk.read (l : LinkBlk) (off : Nat) : Word :=
  if off = 0x0000 then l.devid.setWidth 64
  else if off = 0x0008 then l.hwbase
  else if off = 0x0010 then l.mbox
  else if 0x0100 ≤ off ∧ off < 0x0300 then
    (let n := (off - 0x0100) / 8
     (l.pslot.getD n (BitVec.ofNat 10 n)).setWidth 64)
  else if 0x1000 ≤ off ∧ off < 0x3000 then l.route.getD ((off - 0x1000) / 8) 0
  else if 0x4000 ≤ off ∧ off < 0x4600 ∧ off % 0x40 = 0 then l.pstat ((off - 0x4000) / 0x40)
  else 0

/-- Doubleword `off` of the system block, but for QDATA's advance (R416). -/
def State.readSys (s : State) (off : Nat) : Word :=
  match off with
  | 0x000 => s.ready0
  | 0x008 => s.ready1
  | 0x010 => s.grant
  | 0x018 => s.ptroot
  | 0x020 => s.spbase
  | 0x028 => s.spsize
  | 0x030 => s.recbase
  | 0x038 => s.poolbase
  | 0x040 => s.poolsize
  | 0x050 => s.bootstat
  | 0x058 => s.pcap
  | 0x060 => s.pwr
  | 0x068 => s.thr
  | 0x100 => s.qnonce.getD 0 0
  | 0x108 => s.qnonce.getD 1 0
  | 0x110 => s.qnonce.getD 2 0
  | 0x118 => s.qnonce.getD 3 0
  | 0x128 => s.quote.headD 0
  | _ => 0

/-- Doubleword `k` of a control block (R417). -/
def State.readCtl (s : State) (core k : Nat) : Word :=
  let c := s.core core
  match k with
  | 1 => c.cpc
  | 2 => c.carg
  | 3 => c.ctvec
  | 4 => if c.cprv then 1 else 0
  | 5 => s.cstat core
  | _ => 0

/-- The doubleword of a register. -/
def State.peekReg (s : State) (r : RegAt) : Word :=
  match r with
  | .table t e hi => if hi then (s.tableEntry t e).2 else (s.tableEntry t e).1
  | .aperture _ _ => 0
  | .watch isl i hi =>
    let d := (s.dbgBlk isl).slots.getD i (0, 0)
    if hi then d.2 else d.1
  | .istop isl => if (s.dbgBlk isl).stops.any (fun id => ((s.stops.find? id).map (·.complete)).getD false) then 1 else 0
  | .stats isl x y k => BitVec.ofNat 64 (s.siteStats isl x y / 256 ^ (8 * k))
  | .trace die off => (s.traceCore die).read off
  | .link off => s.link.read off
  | .sys off => s.readSys off
  | .ctl core k => s.readCtl core k
  | .none => 0

/-- A read of `n` bytes, 4 or 8, at `pa`: the value and the state after it. -/
def State.regRead (s : State) (pa n : Nat) : Nat × State :=
  let v := s.peekReg (regAt pa)
  (v.toNat / 256 ^ (pa % 8) % 256 ^ n, if regAt pa = .sys 0x128 then s.quoteNext.2 else s)

/-- A register whose read has a side effect (R55, R416). -/
def regSideEffect (pa : Nat) : Bool := regAt pa = .sys 0x128

/-! ### Writing -/

/-- A write of a doubleword of an access-table entry; reserved bits read 0 (R419). -/
def State.writeTable (s : State) (t e : Nat) (hi : Bool) (v : Word) : State :=
  let (lo, h) := s.tableEntry t e
  let x := if hi then (lo, v &&& 0x000FFFFFFFFFFFFF#64) else (v &&& 0xF80FFFFFFFFFFFFF#64, h)
  { s with tables := s.tables.put (16 * t + e) x }

/-- A write of a watch slot's doubleword (R383). -/
def writeSlot (d : Word × Word) (hi : Bool) (v : Word) : Word × Word :=
  if hi then
    (if 2 < (v.extractLsb' 49 3).toNat then d else (d.1, v &&& 0xFFFE0000FFFFFFFF#64))
  else if (v.extractLsb' 60 2).toNat = 3 ∨ (v.extractLsb' 58 2).toNat = 3 then d
  else
    let hit := d.1 &&& (1#64 <<< 57) &&& ~~~(v &&& (1#64 <<< 57))
    ((v &&& 0xFC000000FFFFFFFF#64) ||| hit, d.2)

/-- A write of ISTOP: CONT before REQ (R384, log 15). -/
def State.writeIstop (s : State) (isl : Nat) (v : Word) : State :=
  let s := if v.getLsbD 1 then s.contIsland isl else s
  if v.getLsbD 2 then s.stopIsland isl else s

/-- A SWREC record: the value's bits [47:0] (R389, R390). -/
def State.swrec (s : State) (die : Nat) (v : Word) : State :=
  s.sendTrace die (traceRecord 7 s.gcyc (6 * 32) 0 (v.extractLsb' 16 32).toNat (v.extractLsb' 0 16).toNat)

/-- Halfwords of a doubleword placed in a list from `i` on. -/
def setHalves (l : List (BitVec 16)) (i : Nat) (v : Word) : List (BitVec 16) :=
  (List.range 4).foldl (fun l k => l.set (i + k) (v.extractLsb' (16 * k) 16)) l

def State.writeTrace (s : State) (die off n : Nat) (v : Word) : State :=
  let t := s.traceCore die
  match off with
  | 0x000 => s.setTrace die { t with tbase := v }
  | 0x008 => (s.setTrace die { t with tsize := v }).noteLoss die
  | 0x018 => (s.setTrace die { t with trd := v }).noteLoss die
  | 0x020 => s.setTrace die { t with lost := v }
  | 0x028 => s.setTrace die { t with rbase := v }
  | 0x030 => s.setTrace die { t with rsize := v }
  | 0x040 => s.setTrace die { t with rrd := v }
  | 0x048 => s.setTrace die { t with recctl := v &&& 0x1FFF#64, used := [] }
  | 0x050 => s.setTrace die { t with trigact := v &&& 0xFFFF#64 }
  | 0x058 => if n = 8 then s.swrec die v else s
  | 0x180 => s.setTrace die (t.setFlen v)
  | _ =>
    if 0x100 ≤ off ∧ off < 0x180 then s.setTrace die { t with filter := setHalves t.filter ((off - 0x100) / 2) v }
    else if 0x200 ≤ off ∧ off < 0x280 then s.setTrace die { t with counts := t.counts.set ((off - 0x200) / 8) v }
    else s

/-- A notice to the host (R410). -/
def State.hostNotice (s : State) (v : Word) : State := { s with hostOut := s.hostOut ++ [v] }

/-- A write of the link block; a reserved value leaves the doubleword unchanged (R398). -/
def State.writeLink (s : State) (off n : Nat) (v : Word) : State :=
  let l := s.link
  if off = 0x0000 then (if v.toNat < 1024 then { s with link := { l with devid := v.setWidth 10 } } else s)
  else if off = 0x0008 then (if v.toNat % 2 ^ 30 = 0 then { s with link := { l with hwbase := v } } else s)
  else if off = 0x0010 then { s with link := { l with mbox := v } }
  else if off = 0x0018 then (if n = 8 then s.hostNotice v else s)
  else if 0x0100 ≤ off ∧ off < 0x0300 then
    (if v.toNat < 1024 then { s with link := { l with pslot := l.pslot.put ((off - 0x0100) / 8) (v.setWidth 10) } } else s)
  else if 0x1000 ≤ off ∧ off < 0x3000 then
    (if v &&& 0xFFFFFFFFFFFFFF60#64 = 0 ∧ (v.extractLsb' 0 5).toNat < 24 then
       { s with link := { l with route := l.route.put ((off - 0x1000) / 8) v } } else s)
  else s

/-- A write of the system block (R416). -/
def State.writeSys (s : State) (off : Nat) (v : Word) : State :=
  match off with
  | 0x010 => if v = 0 then s else { s with grant := v }
  | 0x018 => { s with ptroot := v &&& ~~~0xFFFF#64 }
  | 0x020 => { s with spbase := v }
  | 0x028 => { s with spsize := v }
  | 0x030 => { s with recbase := v }
  | 0x038 => { s with poolbase := v }
  | 0x040 => { s with poolsize := v }
  | 0x048 => s.bootGo v
  | 0x058 => if 1000 ≤ v.toNat ∧ v.toNat ≤ 3200 then { s with pcap := v } else s
  | 0x100 => { s with qnonce := s.qnonce.set 0 v }
  | 0x108 => { s with qnonce := s.qnonce.set 1 v }
  | 0x110 => { s with qnonce := s.qnonce.set 2 v }
  | 0x118 => { s with qnonce := s.qnonce.set 3 v }
  | 0x120 => s.quoteGo
  | _ => s

/-- A write of a control block (R417). -/
def State.writeCtl (s : State) (core k : Nat) (v : Word) : State :=
  let c := s.core core
  match k with
  | 0 => s.ccmd core v
  | 1 => s.setCore core { c with cpc := v }
  | 2 => s.setCore core { c with carg := v }
  | 3 => s.setCore core { c with ctvec := v &&& ~~~3#64 }
  | 4 => s.setCore core { c with cprv := v.getLsbD 0 }
  | _ => s

/-- A write of the doubleword of a register; `n` is the width of the access. -/
def State.pokeReg (s : State) (r : RegAt) (n : Nat) (v : Word) : State :=
  match r with
  | .table t e hi => s.writeTable t e hi v
  | .aperture me k => if n = 8 then s.aperture me k v else s
  | .watch isl i hi =>
    let b := s.dbgBlk isl
    s.setDbg isl { b with slots := modifyAt b.slots i (fun d => writeSlot d hi v) }
  | .istop isl => s.writeIstop isl v
  | .stats isl x y k => if k = 0 ∧ n = 8 then s.clearStats isl x y else s
  | .trace die off => s.writeTrace die off n v
  | .link off => s.writeLink off n v
  | .sys off => s.writeSys off v
  | .ctl core k => s.writeCtl core k v
  | .none => s

/-- The doubleword with the `n` bytes at `pa` replaced. -/
def mergeAt (old : Word) (pa n v : Nat) : Word :=
  let k := 256 ^ (pa % 8)
  let m := 256 ^ n
  BitVec.ofNat 64 (old.toNat - old.toNat / k % m * k + v % m * k)

/-- A write of `n` bytes, 4 or 8, at `pa`. -/
def State.regWrite (s : State) (pa n v : Nat) : State :=
  let r := regAt pa
  let old := match r with
    | .watch _ _ false => s.peekReg r &&& ~~~(1#64 <<< 57)
    | _ => s.peekReg r
  s.pokeReg r n (if n = 8 then BitVec.ofNat 64 v else mergeAt old pa n v)

end Sys2Proof.Machine
end

