-- ==== Sys2Proof/Machine/Links.lean ====
section
/-! DEFINITION. Sending flits to peers (R398 to R404). -/

namespace Sys2Proof.Machine

/-- The port of the valid route to a device (R398, R402). -/
def State.routeTo (s : State) (dev : Nat) : Option Nat :=
  let r := s.link.route.getD dev 0
  if r.getLsbD 7 then some (r.extractLsb' 0 5).toNat else none

/-- A request to `dev` is answered at once with status 1 where its port is not ready (R415). -/
def State.portReady (s : State) (dev : Nat) : Bool :=
  match s.routeTo dev with
  | some p => s.soundReady p
  | none => true

/-! ### The 80 bytes of a flit (R400) -/

/-- One bit, and one byte, of CRC-32 with the polynomial 0x04C11DB7, least significant bit first (log 93). -/
def crcBit (c : Nat) : Nat := if c % 2 = 1 then Nat.xor (c / 2) 0xEDB88320 else c / 2
def crcByte (c : Nat) (b : Byte) : Nat := Nat.repeat crcBit 8 (Nat.xor c b.toNat)

/-- CRC-32 of some bytes (log 93). -/
def crc32 (bs : List Byte) : Nat := Nat.xor (bs.foldl crcByte 0xFFFFFFFF) 0xFFFFFFFF

/-- Bits 0 to 95 of the tail. -/
def flitTail (f : Flit) : Nat :=
  f.addr % 2 ^ 52 + (f.len + 63) % 64 * 2 ^ 52 + f.seq % 4096 * 2 ^ 58 + f.dst % 1024 * 2 ^ 70 + f.src % 1024 * 2 ^ 80
    + f.cls % 4 * 2 ^ 90 + f.op % 16 * 2 ^ 92

/-- Bytes 0 to 75: the payload, with zeros after it, and the tail without its CRC. -/
def flitHead (f : Flit) : List Byte := (f.payload ++ List.replicate 64 0#8).take 64 ++ bytesOf 12 (flitTail f)

/-- The flit as it travels. -/
def flitBytes (f : Flit) : List Byte := flitHead f ++ bytesOf 4 (crc32 (flitHead f))

/-! ### Sending (R400, R402) -/

/-- Two flits of one source, destination and class (R402, R403). -/
def sameTriple (f g : Flit) : Bool := f.src == g.src && f.dst == g.dst && f.cls == g.cls

/-- A flit leaves on port `p`, which keeps it until the far end has acknowledged it. -/
def State.transmit (s : State) (p : Nat) (f : Flit) : State :=
  { s with sent := s.sent ++ [(p, flitBytes f)], unacked := s.unacked ++ [(p, f)] }

/-- A flit of the triple waits, or one is not acknowledged yet on another port than `p`. -/
def State.holdsBack (s : State) (p : Nat) (f : Flit) : Bool :=
  s.parked.any (sameTriple f) || s.unacked.any (fun u => u.1 != p && sameTriple f u.2)

/-- A flit leaves for `f.dst` on its route, or is discarded where the route is invalid; after a change of the route it waits until
the old port has acknowledged the earlier flits of its triple (R402). -/
def State.emit (s : State) (f : Flit) : State :=
  match s.routeTo f.dst with
  | some p => if s.holdsBack p f then { s with parked := s.parked ++ [f] } else s.transmit p f
  | none => s

/-- The flits that wait are looked at again, in order. -/
def State.unpark (s : State) : State := s.parked.foldl State.emit { s with parked := [] }

/-- The far end of port `p` acknowledges the oldest flit that it has not acknowledged yet. -/
def State.portAcks (s : State) (p : Nat) : State :=
  match s.unacked.findIdx? (fun u => u.1 = p) with
  | some i => { s with unacked := s.unacked.eraseIdx i }.unpark
  | none => s

/-- A port sends some of its unacknowledged flits again, in order (R363, R400). -/
def State.resendFlits (s : State) (p : Nat) (fs : List Flit) : State :=
  { s with sent := s.sent ++ fs.map (fun f => (p, flitBytes f)),
           link := { s.link with resent := s.link.resent.put p (s.link.resent.getD p 0 + BitVec.ofNat 32 fs.length) } }

/-- The flits that port `p` has sent and that are not acknowledged, oldest first. -/
def State.inFlightOn (s : State) (p : Nat) : List Flit := (s.unacked.filter (fun u => u.1 = p)).map (·.2)

/-- The next sequence number of a destination and class (R400). -/
def State.nextSeq (s : State) (dst cls : Nat) : Nat := s.seqs.getD (4 * dst + cls) 0

/-- A request flit: the state after it and its sequence number. -/
def State.request (s : State) (dst op cls addr len : Nat) (payload : List Byte) : State × Nat :=
  let q := s.nextSeq dst cls
  let s := { s with seqs := s.seqs.put (4 * dst + cls) ((q + 1) % 4096) }
  (s.emit { op := op, cls := cls, src := s.link.devid.toNat, dst := dst, seq := q, len := len, addr := addr,
            payload := payload }, q)

/-- A RESP or ACK for a request (R401). -/
def State.respond (s : State) (req : Flit) (op status : Nat) (payload : List Byte) : State :=
  s.emit { op := op, cls := 1, src := s.link.devid.toNat, dst := req.src, seq := req.seq, len := payload.length,
           addr := status, payload := payload }

/-- The bytes of an operand and of the fn field, as this model lays them out (R401, log 19). -/
def fnBytes (fn : BitVec 11) : List Byte := bytesOf 2 fn.toNat

end Sys2Proof.Machine
end

