-- ==== Sys2Proof/Machine/Access.lean ====
section
/-! DEFINITION. What an access does at its home (R53, R56, R57, R229, R243, R244, R254, R256, R257, R260 to R262, R394,
R399, R401, R409, R420, R432, R434), and walks of the page table (R222, R225 to R228). -/

namespace Sys2Proof.Machine

/-! ### Memory at a home -/

/-- The ME and word of an aperture write. -/
def apertureAt (pa : Nat) : Option (Nat × Nat) :=
  match regAt pa with
  | .aperture me k => some (me, k)
  | _ => none

/-- The home of an access for the order of accesses: of an aperture, its ME (R243, R246, R394). -/
def State.homeOf (s : State) (pa : Nat) : Home :=
  match s.home pa, apertureAt pa with
  | .reg, some (me, _) => .me me
  | h, _ => h

/-- The home refuses a plain read of `n` bytes: of a register, widths but 4 and 8; of an aperture, widths but 8 (R53, R394). -/
def State.readRefused (s : State) (master pa n : Nat) : Bool :=
  !s.accepts master pa .read || (s.home pa = .reg && n ≠ 8 && (n ≠ 4 || (apertureAt pa).isSome))

/-- The home refuses a plain write of `n` bytes; an aperture asks for right A at its ME (R394). -/
def State.writeRefused (s : State) (master pa n : Nat) : Bool :=
  if s.home pa = .reg then
    match apertureAt pa with
    | some (me, _) => n ≠ 8 || s.meTaken me || !s.grants me master (meBase me) .atomic
    | none => !s.accepts master pa .write || (n ≠ 4 && n ≠ 8)
  else !s.accepts master pa .write

/-- The home takes atomics (R262): ME SRAM that is not in reorder or buffer mode, or stack DRAM. -/
def State.atomicRefused (s : State) (master pa : Nat) : Bool :=
  match s.home pa with
  | .me _ => !s.accepts master pa .atomic
  | .dram _ _ => !s.accepts master pa .atomic
  | _ => true

/-- The home takes synchronising loads and stores (R256): ME SRAM. -/
def State.syncRefused (s : State) (master pa : Nat) (rd wr : Bool) : Bool :=
  match s.home pa with
  | .me _ => (rd && !s.accepts master pa .read) || (wr && !s.accepts master pa .write)
  | _ => true

/-! ### Performing an access -/

/-- What performing an access gives. -/
inductive Got where
  | ans  (a : Answer)
  /-- The next word of an image. -/
  | more (op : AccOp)
  | wait (st : ReqState)

/-- A plain read of memory, host memory or a register. -/
def State.readAt (s : State) (master pa n ea : Nat) : State × Answer :=
  if s.readRefused master pa n then (s, .denied ea)
  else if s.home pa = .reg then
    (let r := s.regRead pa n
     (r.2, .value r.1 0#5))
  else if s.isBad pa n then (s, .uncorrectable ea)
  else (s.corrected pa n, .value (s.load pa n) 0#5)

/-- A plain write. Streams and engines set full bits (R254). -/
def State.writeAt (s : State) (master pa n v ea : Nat) (fills : Bool) : State × Answer :=
  if s.writeRefused master pa n then (s, .denied ea)
  else if s.home pa = .reg then
    match apertureAt pa with
    | some (me, _) =>
      if s.apertureBad me (BitVec.ofNat 64 v) then (s, .uncorrectable ea)
      else ((s.apertureEvent me master (BitVec.ofNat 64 v)).regWrite pa n v, .value 0 0#5)
    | none => (s.regWrite pa n v, .value 0 0#5)
  else
    let s := s.store pa n v
    (if fills then s.setFull pa n else s, .value 0 0#5)

/-- A peer's window refuses a request before it is sent: no port leads there, its port is not ready, or the table of its
port refuses it (R399, R415, R419, R420). -/
def State.peerRefuses (s : State) (master slot pa : Nat) (k : Acc) : Bool :=
  match (s.peerOf slot).bind s.routeTo with
  | some p => !s.soundReady p || !s.grants (24976 + p) master pa k
  | none => true

/-- A flit to a peer, and where its answer is awaited. One that its port refuses is answered at once with status 1. -/
def State.askPeer (s : State) (r : Req) (slot pa op len : Nat) (k : Acc) (payload : List Byte) : State × Got :=
  match s.peerOf slot with
  | some d =>
    if s.peerRefuses r.master slot pa k then (s, .ans (.denied r.ea))
    else
      let x := s.request d op 0 ((pa - 2 ^ 47) % 2 ^ 41) len payload
      (x.1, .wait (.remote d x.2 s.cy))
  | none => (s, .ans (.denied r.ea))

/-- The home refuses a stream's write of `n` bytes; at a peer its port does (R242, R404, R420). -/
def State.placeRefused (s : State) (master pa n : Nat) : Bool :=
  match s.home pa with
  | .peer k => s.peerRefuses master k pa .write
  | _ => s.writeRefused master pa n

/-- A byte with its low or high half replaced (R236). -/
def halfByte (odd : Bool) (old v : Nat) : Nat := if odd then v % 16 * 16 + old % 16 else old / 16 % 16 * 16 + v % 16

/-- An atomic's debug record and arrival number at an ME (R389). -/
def State.arrivesAt (s : State) (master pa : Nat) : State :=
  match s.home pa with
  | .me n => (s.atomicEvent n master pa).arrive n
  | _ => s

/-- The width bit of an AMO or CAS fn field (R40). -/
def fnWide (fn : BitVec 11) : Bool := fn.getLsbD 1
def fnOp (fn : BitVec 11) : Nat := (fn.extractLsb' 7 4).toNat

/-- The address of word `i` of an image (R65). -/
def Req.wordAt (r : Req) (i : Nat) : Nat := if 8 * i < r.split then r.pa + 8 * i else r.pa2 + (8 * i - r.split)

/-- After word `i` of a VLD with value `v`. -/
def vreadNext (i img v : Nat) : Got :=
  let img := img + v * 2 ^ (64 * i)
  if i = 4 then .ans (.value img 0#5) else .more (.vread (i + 1) img)

/-- The largest aligned piece of `n` bytes at `a`. -/
def pieceOf (a n : Nat) : Nat := if a % 8 = 0 ∧ 8 ≤ n then 8 else if a % 4 = 0 ∧ 4 ≤ n then 4 else if a % 2 = 0 ∧ 2 ≤ n then 2 else 1

/-- The address of byte `i` of a block (R401). -/
def Req.byteAt (r : Req) (i : Nat) : Nat := if i < r.split then r.pa + i else r.pa2 + (i - r.split)

/-- After a piece of `k` bytes with value `x` of a block, of which `done` were done. -/
def blockReadNext (n done v k x : Nat) : Got :=
  let v := v + x * 2 ^ (8 * done)
  if n ≤ done + k then .ans (.value v 0#5) else .more (.blockRead n (done + k) v)

def blockWriteNext (n done v k : Nat) : Got :=
  if n ≤ done + k then .ans (.value 0 0#5) else .more (.blockWrite n (done + k) v)

/-- Where the part of the request that is due lies. -/
def Req.at' (r : Req) : Nat :=
  match r.op with
  | .vread i _ => r.wordAt i
  | .vwrite i _ => r.wordAt i
  | .blockRead _ i _ => r.byteAt i
  | .blockWrite _ i _ => r.byteAt i
  | _ => r.pa

def vwriteNext (i img : Nat) : Got := if i = 4 then .ans (.value 0 0#5) else .more (.vwrite (i + 1) img)

/-- Before any byte of an image moves: the first address of the part, within a page, that a home refuses (R53, R65). -/
def State.imageDenied (s : State) (r : Req) : Option Nat :=
  let refused (k : Acc) (j : Nat) : Bool := match s.home (r.wordAt j) with
    | .peer n => s.peerRefuses r.master n (r.wordAt j) k
    | .reg => true
    | _ => !s.accepts r.master (r.wordAt j) k
  let part (k : Acc) : Option Nat :=
    ((List.range 5).find? (refused k)).map (fun j => if 8 * j < r.split then r.ea else r.ea + r.split)
  match r.op with
  | .vread 0 _ => part .read
  | .vwrite 0 _ => part .write
  | _ => none

/-- A request that its home takes is performed at one instant; an image moves one word at a time (R244). -/
def State.performTaken (s : State) (r : Req) : State × Got :=
  let fills := match r.owner with
    | .ctx _ => false
    | .peer _ cls _ => cls = 3
    | .walk _ => false
    | _ => true
  match s.home r.at' with
  | .peer k =>
    (match r.op with
     | .read n => s.askPeer r k r.pa 0 n .read []
     | .write n v => s.askPeer r k r.pa 1 n .write (bytesOf n v.toNat)
     | .half _ _ => s.askPeer r k r.pa 0 1 .read []
     | .blockRead n i _ => s.askPeer r k (r.byteAt i) 0 (pieceOf (r.byteAt i) (n - i)) .read []
     | .blockWrite n i v =>
       let p := pieceOf (r.byteAt i) (n - i)
       s.askPeer r k (r.byteAt i) 1 p .write (bytesOf p (v / 2 ^ (8 * i)))
     | .amo fn b => s.askPeer r k r.pa 2 10 .atomic (bytesOf 8 b.toNat ++ fnBytes fn)
     | .cas fn x y => s.askPeer r k r.pa 3 18 .atomic (bytesOf 8 x.toNat ++ bytesOf 8 y.toNat ++ fnBytes fn)
     | .vread i _ => s.askPeer r k (r.wordAt i) 0 8 .read []
     | .vwrite i img => s.askPeer r k (r.wordAt i) 1 8 .write (bytesOf 8 (img / 2 ^ (64 * i)))
     | .lockCas _ _ => (s, .ans (.denied r.ea))
     | .ldf _ => (s, .ans (.denied r.ea))
     | .stf _ => (s, .ans (.denied r.ea))
     | .gridAdd _ _ => (s, .ans (.denied r.ea)))
  | _ =>
    match r.op with
    | .read n =>
      let x := s.readAt r.master r.pa n r.ea
      (x.1, .ans x.2)
    | .write n v =>
      let x := s.writeAt r.master r.pa n v.toNat r.ea fills
      (x.1, .ans x.2)
    | .half odd v =>
      let x := (s.corrected r.pa 1).writeAt r.master r.pa 1 (halfByte odd (s.load r.pa 1) v) r.ea fills
      (x.1, .ans x.2)
    | .blockRead n i v =>
      let k := pieceOf (r.byteAt i) (n - i)
      (match s.readAt r.master (r.byteAt i) k (r.ea + i) with
       | (s, .value x _) => (s, blockReadNext n i v k x)
       | (s, a) => (s, .ans a))
    | .blockWrite n i v =>
      let k := pieceOf (r.byteAt i) (n - i)
      (match s.writeAt r.master (r.byteAt i) k (v / 2 ^ (8 * i) % 2 ^ (8 * k)) (r.ea + i) fills with
       | (s, .value _ _) => (s, blockWriteNext n i v k)
       | (s, a) => (s, .ans a))
    | .vread i img =>
      let pa := r.wordAt i
      if s.home pa = .reg then (s, .ans (.denied (r.ea + 8 * i)))
      else match s.readAt r.master pa 8 (r.ea + 8 * i) with
        | (s, .value v _) => (s, vreadNext i img v)
        | (s, .uncorrectable _) => (s, .ans (.uncorrectable r.ea))
        | (s, a) => (s, .ans a)
    | .vwrite i img =>
      let pa := r.wordAt i
      if s.home pa = .reg then (s, .ans (.denied (r.ea + 8 * i)))
      else match s.writeAt r.master pa 8 (img / 2 ^ (64 * i) % 2 ^ 64) (r.ea + 8 * i) false with
        | (s, .value _ _) => (s, vwriteNext i img)
        | (s, a) => (s, .ans a)
    | .amo fn b =>
      if s.atomicRefused r.master r.pa then (s, .ans (.denied r.ea))
      else if s.isBad r.pa (if fnWide fn then 8 else 4) then (s, .ans (.uncorrectable r.ea))
      else
        let x := (s.arrivesAt r.master r.pa).amo r.pa (fnOp fn) (fnWide fn) b
        (x.1, .ans (.value x.2.1 x.2.2))
    | .cas fn e n =>
      if s.atomicRefused r.master r.pa then (s, .ans (.denied r.ea))
      else if s.isBad r.pa (if fnWide fn then 8 else 4) then (s, .ans (.uncorrectable r.ea))
      else
        let x := (s.arrivesAt r.master r.pa).casAt r.pa (fnWide fn) e n
        (x.1, .ans (.value x.2 0#5))
    | .lockCas e n =>
      if s.atomicRefused r.master r.pa then (s, .ans (.denied r.ea))
      else if s.isBad r.pa 8 then (s, .ans (.uncorrectable r.ea))
      else
        let x := (s.arrivesAt r.master r.pa).casAt r.pa true e n
        (x.1, .ans (.value x.2 0#5))
    | .ldf empty =>
      if s.syncRefused r.master r.pa true empty then (s, .ans (.denied r.ea))
      else if s.isFull r.pa ∧ (s.waitersOf (r.pa / 8)).isEmpty then
        (if s.isBad r.pa 8 then (s, .ans (.uncorrectable r.ea))
         else
           let v := s.readMem r.pa 8
           let s := s.corrected r.pa 8
           (if empty then { s with full := removeNat (r.pa / 8) s.full } else s, .ans (.value v 0#5)))
      else
        match s.home r.pa with
        | .me n => if s.listLength n < 16 then (s.fresh, .wait (.listed s.nextId)) else (s, .wait .refused)
        | _ => (s, .ans (.denied r.ea))
    | .stf v =>
      if s.syncRefused r.master r.pa false true then (s, .ans (.denied r.ea))
      else ((s.writeMem r.pa 8 v.toNat).setFull r.pa 8, .ans (.value 0 0#5))
    | .gridAdd ef t =>
      if s.atomicRefused r.master r.pa then (s, .ans (.denied r.ea))
      else if s.isBad r.pa (rmwBytes .mfadd ef) then (s, .ans (.uncorrectable r.ea))
      else
        let x := (s.arrivesAt r.master r.pa).update .mfadd ef .rne r.pa t true
        (x.1, .ans (.value 0 x.2.2))

/-- Request `r` is performed at its home, if every part of it is taken there. -/
def State.performAt (s : State) (r : Req) : State × Got :=
  match s.imageDenied r with
  | some e => (s, .ans (.denied e))
  | none => s.performTaken r

/-- Two requests of one source: a thread, a stream, or a peer in one class (R246, R403). An engine's have no order (R248). -/
def Owner.ordered : Owner → Owner → Bool
  | .ctx t, .ctx u => t = u
  | .stream i j _, .stream k l _ => i = k && j = l
  | .peer d c _, .peer e f _ => d = e && c = f
  | _, _ => false

def AccOp.isHalf : AccOp → Bool
  | .half _ _ => true
  | _ => false

/-- An earlier request of the same source to the same home is not performed yet; a peer's are performed in order whatever
their homes. A write of half a byte at a peer, which is read first, waits for what came before it at that byte (R236, R246). -/
def State.behind (s : State) (id : Nat) (r : Req) : Bool :=
  let open' (q : Req) : Bool := match q.st with
    | .answered _ => false
    | _ => true
  s.reqs.any (fun q => q.1 < id && Owner.ordered q.2.owner r.owner &&
    (((q.2.st = .sent || q.2.st = .walking) && (s.homeOf q.2.at' = s.homeOf r.at' || (match r.owner with
      | .peer _ _ _ => true
      | _ => false))) ||
     (open' q.2 && r.op.isHalf && q.2.at' = r.at')))

/-- The DRAM channel of word number `w`, as 32 × stack + channel (R234). -/
def dramChannel (w : Nat) : Nat := 8 * w / 0xC00000000 * 32 + w / 32 % 32

/-- The words that a copy into a spare moves; which ones share a bank or a row is free (log 67). -/
def RowCopy.has (c : RowCopy) (w : Nat) : Bool :=
  decide (8 * w < 0x3000000000) && dramChannel w = c.channel && Config.dramBank w = c.bank && (c.whole || Config.dramRow w = c.row)

/-- An address that a DRAM channel is copying into a spare (R364). -/
def State.inCopy (s : State) (pa : Nat) : Bool := s.copying.any (·.has (pa / 8))

/-- Request `id` may be performed now. -/
def State.mayPerform (s : State) (id : Nat) (r : Req) : Bool := r.st = .sent && !s.behind id r && !s.inCopy r.at'

/-- The bytes that an access writes. -/
def AccOp.changes : AccOp → Bool
  | .read _ => false
  | .blockRead _ _ _ => false
  | .vread _ _ => false
  | .ldf _ => false
  | _ => true

/-- A write of a CLM in its turn among those of one cycle: the own core's before the memory mesh's (R13). -/
def State.clmTurn (s : State) (r : Req) : State :=
  match s.home r.at' with
  | .clm k =>
    if !r.op.changes then s
    else if (match r.owner with
      | .ctx t => coreOf t == k
      | _ => false) then s.inTurn (256 + k) 0 0
    else s.meshWrote r.at'
  | _ => s

/-- REMOTE_ACCESS_PERFORM of request `id`; it waits where it would write a record for which the log has no room (R392). -/
def State.performReq (s : State) (id : Nat) : State :=
  match s.reqs.find? id with
  | some r =>
    if s.mayPerform id r then
      let x := (s.clmTurn r).performAt r
      let done (r : Req) : State := { x.1 with reqs := x.1.reqs.put id r }
      if !s.logFits x.1 then s
      else match x.2 with
        | .ans a => done { r with st := .answered a }
        | .more op => done { r with op := op }
        | .wait st => done { r with st := st }
    else s
  | none => s

/-! ### Walks (R225 to R228) -/

/-- The index into the table of a level, and the number of bytes that its table and its pages have (R225). -/
def walkIndex (lvl va : Nat) : Nat :=
  match lvl with
  | 1 => va / 2 ^ 39 % 8192
  | 2 => va / 2 ^ 30 % 512
  | 3 => va / 2 ^ 21 % 512
  | _ => va / 2 ^ 16 % 32

def tableSize (lvl : Nat) : Nat := match lvl with | 1 => 65536 | 4 => 256 | _ => 4096
def pageSize (lvl : Nat) : Nat := match lvl with | 2 => 2 ^ 30 | 3 => 2 ^ 21 | _ => 2 ^ 16

/-- permitted of R227; fetches do not walk. -/
def permitted (r w a : Bool) (k : Acc) : Bool :=
  match k with
  | .read => r
  | .write => w
  | .fetch => r
  | .atomic => a && r && w
  | .readWrite => r && w

/-- A write to an update aperture whose page does not grant W is refused with access-denied (R394), where any other access
that its page forbids is a translation fault (R53). -/
def apertureDenies (k : Acc) (pa : Nat) : Bool := k = .write && (apertureAt pa).isSome

/-- How a walk, or one level of it, ends. -/
inductive WalkGot where
  | next (lvl base : Nat)
  | page (e : TlbEntry)
  | fault
  /-- A page without W over an update aperture, for a write: access denied (R394). -/
  | denied
  | ecc

/-- An entry read at a level for `va` (R226, R227). -/
def walkEntry (lvl va pte : Nat) (k : Acc) : WalkGot :=
  if pte % 2 = 0 ∨ pte / 2 ^ 52 ≠ 0 ∨ bitsOf pte 7 5 ≠ 0 then .fault
  else
    let pa := pte / 256 * 256
    if pte / 2 % 2 = 1 then
      let r := pte / 4 % 2 = 1
      let w := pte / 8 % 2 = 1
      let a := pte / 16 % 2 = 1
      let sz := pageSize lvl
      if lvl = 1 ∨ pa % sz ≠ 0 then .fault
      else if !permitted r w a k then (if apertureDenies k (pa + va % sz) then .denied else .fault)
      else .page { va := va / sz * sz, pa := pa, size := sz, r := r, w := w, a := a }
    else if lvl = 4 ∨ pa % tableSize (lvl + 1) ≠ 0 then .fault
    else .next (lvl + 1) pa

/-- The address of the entry of one level. -/
def pteAddr (lvl base va : Nat) : Nat := base + walkIndex lvl va * 8

/-- What the walker's read of an entry gives: its bytes, the end of the walk, or a peer that must be asked. -/
inductive PteGot where
  | entry (v : Nat)
  | ends (g : WalkGot)
  | ask

/-- The walker reads the entry at `a` under the table of its home; what is refused ends the walk in fault (R227). -/
def State.readPte (s : State) (a : Nat) : State × PteGot :=
  match s.home a with
  | .peer n => (s, if s.peerRefuses walkMaster n a .read then .ends .fault else .ask)
  | _ =>
    match s.readAt walkMaster a 8 a with
    | (s, .value v _) => (s, .entry v)
    | (s, .uncorrectable _) => (s, .ends .ecc)
    | (s, _) => (s, .ends .fault)

/-- The entry of one level, read at one instant; one at a peer is out of reach of such a walk (log 20). -/
def State.walkRead (s : State) (lvl base va : Nat) (k : Acc) : WalkGot :=
  match (s.readPte (pteAddr lvl base va)).2 with
  | .entry v => walkEntry lvl va v k
  | .ends g => g
  | .ask => .fault

/-- A whole walk at one instant. -/
def State.walkFrom (s : State) (va : Nat) (k : Acc) : Nat → Nat → Nat → WalkGot
  | 0, _, _ => .fault
  | fuel + 1, lvl, base =>
    match s.walkRead lvl base va k with
    | .next l b => s.walkFrom va k fuel l b
    | g => g

def State.walkNow (s : State) (va : Nat) (k : Acc) : WalkGot :=
  if 2 ^ 52 ≤ va then .fault else s.walkFrom va k 4 1 s.ptroot.toNat

/-- The place of a requester among those that ask for a walk in one cycle: contexts, then streams, then the others (R228). -/
def Walker.rank : Walker → Nat
  | .ctx t => t
  | .stream rid u => 2048 + rid * 4096 + u
  | .cmd _ _ => 2 ^ 48
  | .req _ _ => 2 ^ 48

/-- A walk is asked for (R228). -/
def State.startWalk (s : State) (island : Nat) (who : Walker) (va : Nat) (k : Acc) : State :=
  let s := s.inTurn (16 + island) who.rank who.rank
  let w : Walk := { island := island, who := who, va := va, kind := k, lvl := 1, base := s.ptroot.toNat, asked := false }
  { s.fresh with walks := s.walks.put s.nextId w }

/-- The walks in flight of an island: the sixteen that came first (R228). -/
def State.inFlight (s : State) (id : Nat) : Bool :=
  match s.walks.find? id with
  | some w => ((s.walks.filter (fun p => p.2.island = w.island)).take 16).any (fun p => p.1 = id)
  | none => false

/-! ### Addresses that need no translation, and pages -/

/-- The CLM window is never translated (R10). -/
def inClm (va : Nat) : Bool := 0x4100000000 ≤ va && va < 0x4101000000

def TlbEntry.covers (e : TlbEntry) (va : Nat) : Bool := e.va ≤ va && va < e.va + e.size
def TlbEntry.to (e : TlbEntry) (va : Nat) : Nat := e.pa + (va - e.va)

/-- The result of looking an address up. -/
inductive Found where
  | pa (a : Nat)
  | miss
  | fault
  | denied
  deriving DecidableEq, Repr

/-- The entries that a walk made at one instant reads are corrected (R230). -/
def State.walkMend (s : State) (va : Nat) (k : Acc) : Nat → Nat → Nat → State
  | 0, _, _ => s
  | fuel + 1, lvl, base =>
    match s.readPte (pteAddr lvl base va) with
    | (t, .entry v) =>
      (match walkEntry lvl va v k with
       | .next l b => t.walkMend va k fuel l b
       | _ => t)
    | (t, _) => t

def State.mendWalk (s : State) (va : Nat) (k : Acc) : State :=
  if inClm va ∨ 2 ^ 52 ≤ va then s else s.walkMend va k 4 1 s.ptroot.toNat

/-- What a page gives an access of kind `k` at `va`. -/
def TlbEntry.give (e : TlbEntry) (va : Nat) (k : Acc) : Found :=
  if permitted e.r e.w e.a k then .pa (e.to va) else if apertureDenies k (e.to va) then .denied else .fault

/-- A context's lookup: the most recently used entry first (R54). -/
def Ctx.lookup (c : Ctx) (va : Nat) (k : Acc) : Found × Ctx :=
  if inClm va then (.pa va, c)
  else if 2 ^ 52 ≤ va then (.fault, c)
  else match c.tlb.find? (fun e => e.covers va) with
    | some e =>
      (e.give va k, { c with tlb := e :: c.tlb.filter (fun x => !x.covers va) })
    | none => (.miss, c)

/-- A refill of the entry that was least recently used. -/
def Ctx.refill (c : Ctx) (e : TlbEntry) : Ctx :=
  { c with tlb := (e :: c.tlb.filter (fun x => !x.covers e.va)).take 4 }

/-- A lookup for an instruction that touches several pages: in the cache, then among the pages already walked for it
(log 20). -/
def Ctx.lookupAll (c : Ctx) (va : Nat) (k : Acc) : Found × Ctx :=
  match c.lookup va k with
  | (.miss, c) =>
    (match c.pages.find? (fun e => e.covers va) with
     | some e => (e.give va k, c)
     | none => (.miss, c))
  | r => r

def State.translateFor (s : State) (t va : Nat) (k : Acc) : Found × State :=
  match (s.ctx t).lookupAll va k with
  | (f, c) => (f, s.setCtx t c)

def State.translate (s : State) (va : Nat) (k : Acc) : Found × State := s.translateFor s.cur va k

end Sys2Proof.Machine
end

