-- ==== Sys2Proof/Machine/Area.lean ====
section
/-! DEFINITION. The area of a control context in memory (R63, R317, R377, R378). -/

namespace Sys2Proof.Machine

/-- The register of a memory image (R63). -/
def imageReg (img : Nat) : VReg := { lanes := BitVec.ofNat 288 img, lm := BitVec.ofNat 8 (img / 2 ^ 288) }

/-- The doubleword addresses of a block. -/
def dwordsOf (va n : Nat) : List Nat := (List.range (n / 8)).map (fun i => va + 8 * i)

def State.readBlock (s : State) (pas : List Nat) : List Byte := pas.flatMap (fun pa => bytesOf 8 (s.load pa 8))

def State.writeBlock (s : State) (pas : List Nat) (bs : List Byte) : State :=
  pas.zipIdx.foldl (fun (s : State) p => s.store p.1 8 (fieldAt bs (8 * p.2) 8)) s

/-! ### The area (R377) -/

def Handle.bytes (h : Handle) : List Byte :=
  bytesOf 8 h.base.toNat ++ bytesOf 2 h.slot.toNat ++ bytesOf 2 (h.count.toNat - 1) ++ bytesOf 4 h.p.toNat ++
    bytesOf 4 h.c.toNat ++ bytesOf 12 (if h.valid then 1 else 0)

def Slot.byte (d : Slot) : Byte := BitVec.ofBool d.err ++ 0#1 ++ d.count

/-- The 1 536 bytes of a context with STATE `st`. -/
def Ctx.area (c : Ctx) (tid st : Nat) : List Byte :=
  bytesOf 8 0 ++ (c.g.toList.drop 1).flatMap (fun w => bytesOf 8 w.toNat)
    ++ c.v.toList.flatMap (fun v => bytesOf 40 (imageOf v 0))
    ++ c.h.toList.flatMap Handle.bytes ++ c.d.toList.map Slot.byte
    ++ bytesOf 8 c.pc.toNat ++ bytesOf 8 c.status.toNat ++ bytesOf 8 c.pri.toNat ++ bytesOf 8 c.fpctl.toNat
    ++ bytesOf 8 c.fflags.toNat ++ bytesOf 8 c.tvec.toNat ++ bytesOf 8 c.epc.toNat ++ bytesOf 8 c.tcause.toNat
    ++ bytesOf 8 c.taddr.toNat ++ bytesOf 8 c.pending.toNat ++ bytesOf 8 st ++ bytesOf 8 tid ++ bytesOf 24 0

def handleOf (bs : List Byte) : Handle :=
  { base := BitVec.ofNat 64 (fieldAt bs 0 8), slot := BitVec.ofNat 16 (fieldAt bs 8 2),
    count := BitVec.ofNat 13 (fieldAt bs 10 2 + 1), p := BitVec.ofNat 32 (fieldAt bs 12 4),
    c := BitVec.ofNat 32 (fieldAt bs 16 4), valid := fieldAt bs 20 1 = 1 }

/-- A slot size that HSET takes (R317). -/
def slotSizeOk (n : Nat) : Bool := n % 8 = 0 && 8 ≤ n && n ≤ 32768

/-- A handle's 32 bytes hold no reserved value: a valid one has a slot size of R317 (log 22). -/
def handleOk (bs : List Byte) : Bool :=
  fieldAt bs 10 2 < 4096 && fieldAt bs 20 12 < 2 && (fieldAt bs 20 1 = 0 || slotSizeOk (fieldAt bs 8 2))

def chunk (bs : List Byte) (off n i : Nat) : List Byte := (bs.drop (off + n * i)).take n

/-- The area holds no reserved value, no non-zero reserved byte and no count but 0 (R378, log 22). -/
def areaOk (bs : List Byte) : Bool :=
  (List.range 16).all (fun i => fieldAt (chunk bs 256 40 i) 37 3 = 0)
    && (List.range 16).all (fun i => handleOk (chunk bs 896 32 i))
    && (List.range 8).all (fun i => fieldAt bs (1408 + i) 1 % 128 = 0)
    && fieldAt bs 1424 8 < 16 && fieldAt bs 1432 8 < 4 && fieldAt bs 1440 8 < 5 && fieldAt bs 1448 8 < 32
    && fieldAt bs 1456 8 % 4 = 0 && fieldAt bs 1472 8 < 1024 && fieldAt bs 1488 8 < 2 ^ 15
    && fieldAt bs 1496 8 < 3 && fieldAt bs 1512 24 = 0

/-- The context of an area, in the place of `c`, whose memberships it keeps (R378). -/
def Ctx.ofArea (c : Ctx) (bs : List Byte) : Ctx :=
  { c with
    g := Vector.ofFn (fun i : Fin 32 => if i.val = 0 then 0 else BitVec.ofNat 64 (fieldAt bs (8 * i.val) 8)),
    v := Vector.ofFn (fun i : Fin 16 => imageReg (leNat (chunk bs 256 40 i.val))),
    h := Vector.ofFn (fun i : Fin 16 => handleOf (chunk bs 896 32 i.val)),
    d := Vector.ofFn (fun i : Fin 8 => { count := 0, err := 128 ≤ fieldAt bs (1408 + i.val) 1 }),
    pc := BitVec.ofNat 64 (fieldAt bs 1416 8), status := BitVec.ofNat 4 (fieldAt bs 1424 8),
    pri := BitVec.ofNat 2 (fieldAt bs 1432 8), fpctl := BitVec.ofNat 3 (fieldAt bs 1440 8),
    fflags := BitVec.ofNat 5 (fieldAt bs 1448 8), tvec := BitVec.ofNat 64 (fieldAt bs 1456 8),
    epc := BitVec.ofNat 64 (fieldAt bs 1464 8), tcause := BitVec.ofNat 64 (fieldAt bs 1472 8),
    taddr := BitVec.ofNat 64 (fieldAt bs 1480 8), pend := BitVec.ofNat 15 (fieldAt bs 1488 8 % 2 ^ 14), recPend := 0, pendAddr := [],
    st := match fieldAt bs 1496 1 with
          | 0 => .free
          | 1 => .runnable
          | _ => .halted,
    wait := .none, held := none, tlb := [], pages := [], peeked := none, waited := 0, boosted := false, stop := false, leaving := false,
    broke := false, ran := false }

end Sys2Proof.Machine
end

