-- ==== Sys2Proof/Machine/Crystal.lean ====
section
/-! DEFINITION. Crystal regions: the descriptor and the lookup arithmetic (R267 to R271, R275). -/

namespace Sys2Proof.Machine

/-! ### The descriptor -/

/-- Bytes of one stored feature. -/
def featureBytes (ef : Nat) : Nat := if ef = 0 then 4 else 2

/-- Bytes of one entry: the features rounded up to 1, 2, 4 or 8 (R268). -/
def Region.entryBytes (r : Region) : Nat :=
  featureBytes r.ef * (if r.f ≤ 1 then 1 else if r.f ≤ 2 then 2 else if r.f ≤ 4 then 4 else 8)

/-- The usable region that a descriptor of 128 bytes describes (R267, R268). -/
def regionOf (bs : List Byte) : Option Region :=
  let a := fieldAt bs 0 8
  let b := fieldAt bs 8 8
  let l := bitsOf a 55 52 + 1
  let res := (List.range 16).map (fun i => fieldAt bs (64 + 4 * i) 4)
  let r : Region := { base := bitsOf a 51 0, d := bitsOf a 58 56 + 1, l := l, f := bitsOf b 15 13 + 1, t := bitsOf b 12 8,
                      ef := bitsOf b 7 6, res := res.take l }
  let reserved := bitsOf a 62 59 = 0 && bitsOf b 63 16 = 0 && bitsOf b 5 0 = 0 && fieldAt bs 16 48 = 0
    && res.all (· < 2 ^ 24) && (res.drop l).all (· = 0)
  if bitsOf a 63 63 = 1 ∧ reserved ∧ 10 ≤ r.t ∧ r.t ≤ 24 ∧ r.ef ≠ 3 ∧ !r.res.contains 0 ∧ r.base % r.entryBytes = 0 then
    some r
  else none

/-- Where feature `f` of entry `i` of level `l` stands (R268). -/
def Region.wordAt (r : Region) (l i f : Nat) : Nat := r.base + (l * 2 ^ r.t + i) * r.entryBytes + f * featureBytes r.ef

/-- An entry's feature as FF36 (R271). -/
def featureValue (ef n : Nat) : Num.FV × Flags := Num.convIn (mfaddFmt ef) 127 n

/-! ### Corners (R269, R270) -/

def oneFV : Num.FV := .fin false 1 0

def clamp01 (x : Num.FV) : Num.FV × Flags :=
  if x.isNaN then (.zero false, Num.nv)
  else if x.sign then (.zero false, 0#5)
  else if Num.lt false oneFV x then (oneFV, 0#5)
  else (x, 0#5)

/-- The integer part of a value that is not negative. -/
def floorFV : Num.FV → Nat
  | .fin _ m e => if 0 ≤ e then m <<< e.toNat else m >>> (-e).toNat
  | _ => 0

/-- One dimension of a lookup: the cell, the fraction and 1 minus it, and the flags. -/
def gridCell (n : Nat) (x : Num.FV) : Nat × Num.FV × Num.FV × Flags :=
  let (xd, f0) := clamp01 x
  let (p, f1) := Num.mulR Num.ff36 .rne xd (Num.ofInt false n 0)
  let c := min (floorFV p) (n - 1)
  let f := (Num.subR Num.ff36 .rne p (Num.ofInt false c 0)).1
  let (h, f2) := Num.subR Num.ff36 .rne oneFV f
  (c, f, h, f0 ||| f1 ||| f2)

/-- The multipliers of the hash. -/
def gridPrimes : List Nat :=
  [0x00000001, 0x8DA6B343, 0xD8163841, 0xCB1AB31F, 0xA3C59AC3, 0xF1E8C6B5, 0x9C0A4E97, 0xE2B7115D]

/-- entry_index: dense where the level's corners fit its entries, else hashed. -/
def entryIndex (d t n : Nat) (q : List Nat) : Nat :=
  if (n + 1) ^ d ≤ 2 ^ t then q.foldr (fun x i => i * (n + 1) + x) 0
  else ((q.zip gridPrimes).foldl (fun v p => Nat.xor v (p.1 * p.2 % 2 ^ 32)) 0) % 2 ^ t

/-- The weight of corner `k`: the product of its factors in ascending order of the dimensions. -/
def cornerWeight (k : Nat) (cells : List (Nat × Num.FV × Num.FV × Flags)) : Num.FV × Flags :=
  let fac (p : (Nat × Num.FV × Num.FV × Flags) × Nat) : Num.FV := if k.testBit p.2 then p.1.2.1 else p.1.2.2.1
  match cells.zipIdx with
  | [] => (oneFV, 0#5)
  | c :: cs => cs.foldl (fun acc p =>
      let w := Num.mulR Num.ff36 .rne acc.1 (fac p)
      (w.1, acc.2 ||| w.2)) (fac c, 0#5)

/-- level_corners: the entry index and weight of each corner, and the flags. -/
def Region.corners (r : Region) (l : Nat) (xs : List Num.FV) : List (Nat × Num.FV) × Flags :=
  let n := r.res.getD l 1
  let cells := (xs.take r.d).map (gridCell n)
  let ks := (List.range (2 ^ r.d)).map (fun k =>
    let q := cells.zipIdx.map (fun p => p.1.1 + (if k.testBit p.2 then 1 else 0))
    let w := cornerWeight k cells
    (entryIndex r.d r.t n q, w.1, w.2))
  (ks.map (fun k => (k.1, k.2.1)), ks.foldl (fun a k => a ||| k.2.2) (cells.foldl (fun a c => a ||| c.2.2.2) 0#5))

/-- level_value over the corners' weights and feature words, in the corners' order (R271). -/
def levelValue (ef : Nat) (ws : List Num.FV) (words : List Nat) : Num.FV × Flags :=
  let terms := (ws.zip words).map (fun p =>
    let e := featureValue ef p.2
    let t := Num.mulR Num.ff36 .rne p.1 e.1
    (t.1, e.2 ||| t.2))
  match terms with
  | [] => (.zero false, 0#5)
  | t :: ts => ts.foldl (fun acc x =>
      let y := Num.addR Num.ff36 .rne acc.1 x.1
      (y.1, acc.2 ||| x.2 ||| y.2)) t

/-- The feature words that the corners of a level touch, in the order (k, f). -/
def Region.touched (r : Region) (l : Nat) (ks : List (Nat × Num.FV)) : List Nat :=
  ks.flatMap (fun k => (List.range r.f).map (fun f => r.wordAt l k.1 f))

/-- The results of a level from its words in the order (k, f), and the flags. -/
def levelResults (ef f : Nat) (ws : List Num.FV) (words : List Nat) : List Lane × Flags :=
  let rs := (List.range f).map (fun j => levelValue ef ws (ws.zipIdx.map (fun p => words.getD (p.2 * f + j) 0)))
  (rs.map (fun r => Num.packFF r.1), rs.foldl (fun a r => a ||| r.2) 0#5)

/-- The adds of a level: address and amount, in the order (k, f), of the features whose gradient is given, and the flags
(R275). -/
def Region.adds (r : Region) (l : Nat) (ks : List (Nat × Num.FV)) (grad : List (Option Num.FV)) : List (Nat × Lane) × Flags :=
  let l := ks.flatMap (fun k => grad.zipIdx.filterMap (fun g => g.1.map (fun v =>
    let t := Num.mulR Num.ff36 .rne k.2 v
    (r.wordAt l k.1 g.2, Num.packFF t.1, t.2))))
  (l.map (fun a => (a.1, a.2.1)), l.foldl (fun a x => a ||| x.2.2) 0#5)

/-- The home takes the adds of a region: ME SRAM not in reorder or buffer mode, or stack DRAM for F32 (R273). -/
def State.addRefused (s : State) (master ef pa : Nat) : Bool :=
  match s.home pa with
  | .dram _ _ => ef ≠ 0 || !s.accepts master pa .atomic
  | _ => s.atomicRefused master pa

end Sys2Proof.Machine
end

