-- ==== Sys2Proof/Machine/Tables.lean ====
section
/-! DEFINITION. The master distributor's dependence table and finish scopes (R203, R206 to R216, R219). -/

namespace Sys2Proof.Machine

/-! ### Finish scopes (R213, R214) -/

/-- A scope entry at reset: entry 0 is the root. -/
def Scope.init (i : Nat) : Scope :=
  { inUse := decide (i = 0), gen := 0, parent := 0, count := 0, kids := 0, closed := false, err := false }

def State.scope (s : State) (i : Nat) : Scope := s.scopes.getD i (Scope.init i)
def State.setScope (s : State) (i : Nat) (x : Scope) : State := { s with scopes := s.scopes.put i x }

/-- The entry of a live handle. -/
def State.liveScope (s : State) (h : Nat) : Option Nat :=
  let i := h % 256
  if (s.scope i).inUse ∧ (s.scope i).gen = h / 256 then some i else none

/-- Entry `i` is freed where it is CLOSED and counts nothing, and then perhaps its parent. -/
def State.freeScope (s : State) (i : Nat) : Nat → State
  | 0 => s
  | fuel + 1 =>
    let x := s.scope i
    if i ≠ 0 ∧ x.inUse ∧ x.closed ∧ x.count = 0 ∧ x.kids = 0 then
      let s := s.setScope i { Scope.init i with inUse := false, gen := (x.gen + 1) % 2 ^ 24 }
      let p := x.parent % 256
      (s.setScope p { s.scope p with kids := (s.scope p).kids - 1 }).freeScope p fuel
    else s

/-- `f` on entry `i` and on every entry that encloses it. -/
def State.alongScopes (s : State) (i : Nat) (f : Scope → Scope) : Nat → State
  | 0 => s
  | fuel + 1 =>
    let s := s.setScope i (f (s.scope i))
    if i = 0 then s else s.alongScopes ((s.scope i).parent % 256) f fuel

/-- count_in_scope(h, +1) on a live handle. -/
def State.countUp (s : State) (h : Nat) : State := s.alongScopes (h % 256) (fun x => { x with count := x.count + 1 }) 256

/-- count_in_scope(h, -1). -/
def State.countDown (s : State) (h : Nat) : State :=
  (s.alongScopes (h % 256) (fun x => { x with count := x.count - 1 }) 256).freeScope (h % 256) 256

/-- ERR in a scope and in every enclosing one. -/
def State.scopeErr (s : State) (h : Nat) : State := s.alongScopes (h % 256) (fun x => { x with err := true }) 256

/-! ### Dependence-table entries (R207, R208, R210) -/

def Entry.blank : Entry :=
  { st := .free, gen := 0, img := 0, bind := 0, nimg := 0, nbind := 0, shape := 0, pri := 0, pcnt := 0, succ := [],
    next := none, scope := 0, owner := 0, rtime := 0, saved := none }

def State.entry (s : State) (i : Nat) : Entry := s.entries.getD i Entry.blank
def State.setEntry (s : State) (i : Nat) (e : Entry) : State := { s with entries := s.entries.put i e }

/-- The launch id of an entry. -/
def State.lidOf (s : State) (i : Nat) : Nat := (s.entry i).gen * 4096 + i

/-- The lowest-numbered FREE entry. -/
def State.freeEntry (s : State) : Option Nat := firstFrom (fun i => (s.entry i).st = .free) 0 4096

/-- The entry of a launch id that is pending. -/
def State.pendingEntry (s : State) (lid : Nat) : Option Nat :=
  let i := lid % 4096
  let e := s.entry i
  if (e.st = .waiting ∨ e.st = .ready ∨ e.st = .placed) ∧ e.gen = lid / 4096 then some i else none

/-- An entry returns to FREE. -/
def State.freeAt (s : State) (i : Nat) : State :=
  s.setEntry i { Entry.blank with gen := ((s.entry i).gen + 1) % 2 ^ 20 }

/-- add_successor: a link to `e` in the chain of entry `i`; none where no entry is left for a continuation. -/
def State.addSuccessor (s : State) (i e : Nat) : Nat → Option State
  | 0 => none
  | fuel + 1 =>
    let x := s.entry i
    if x.succ.length < 8 then some (s.setEntry i { x with succ := x.succ ++ [e] })
    else match x.next with
      | some j => s.addSuccessor j e fuel
      | none =>
        (s.freeEntry).map (fun j =>
          (s.setEntry i { x with next := some j }).setEntry j { s.entry j with st := .cont, succ := [e], next := none })

/-- An entry with no predecessor left becomes READY. -/
def State.makeReady (s : State) (i : Nat) : State := s.setEntry i { s.entry i with st := .ready, rtime := s.gcyc }

/-- A new entry of the table with its predecessors' links (R206) and `extra` further predecessor counts (R329); none where
the table lacks room. -/
def State.newEntry (s : State) (e : Entry) (preds : List Nat) (extra : Nat) : Option (State × Nat) :=
  match s.freeEntry with
  | none => none
  | some i =>
    let ps := preds.filterMap s.pendingEntry
    let s1 := s.setEntry i { e with st := .waiting, gen := (s.entry i).gen, pcnt := ps.length + extra }
    let s2 := ps.foldl (fun (acc : Option State) p => acc.bind (fun t => t.addSuccessor p i 4096)) (some s1)
    s2.map (fun t =>
      let t := t.countUp e.scope
      (if ps.isEmpty ∧ extra = 0 then t.makeReady i else t, t.lidOf i))

/-! ### Launch records (R203, R206) -/

/-- A launch record's entry and predecessors, or none where the record breaks the table. -/
def launchRecord (bs : List Byte) (owner : Nat) : Option (Entry × List Nat) :=
  let img := fieldAt bs 0 8
  let bind := fieldAt bs 8 8
  let nimg := fieldAt bs 16 1
  let nbind := fieldAt bs 17 1
  let shp := fieldAt bs 18 1
  let npred := fieldAt bs 19 1
  let preds := (List.range 8).map (fun i => fieldAt bs (24 + 4 * i) 4)
  if 15 < nimg ∨ 63 < shp ∨ 5 < shp % 16 ∨ 64 < nbind ∨ 8 < npred ∨ (nbind = 0 ∧ bind ≠ 0)
      ∨ (preds.drop npred).any (· ≠ 0) ∨ fieldAt bs 56 8 ≠ 0 then none
  else
    some ({ Entry.blank with img := img, bind := bind, nimg := nimg + 1, nbind := nbind, shape := shp % 16, pri := shp / 16,
                             scope := fieldAt bs 20 4, owner := owner }, preds.take npred)

/-- launch(rec): the result, with -1, -2 and -3 as R206 gives them. -/
def State.launch (s : State) (bs : List Byte) (owner : Nat) : State × Int :=
  match launchRecord bs owner with
  | none => (s, -2)
  | some (e, preds) =>
    match s.liveScope e.scope with
    | none => (s, -3)
    | some i =>
      if (s.scope i).closed then (s, -3)
      else match s.newEntry e preds 0 with
        | some (s, lid) => (s, lid)
        | none => (s, -1)

/-- The rank of the engines' posts among the operations of one cycle: after every thread's (R209). -/
def engineRank : Nat := 2048

/-! ### Release (R219) -/

/-- The successors linked to an entry, chain and all, and the entries of its chain after it. -/
def State.chain (s : State) (i : Nat) : Nat → List Nat × List Nat
  | 0 => ([], [])
  | fuel + 1 =>
    let x := s.entry i
    match x.next with
    | some j =>
      let r := s.chain j fuel
      (x.succ ++ r.1, j :: r.2)
    | none => (x.succ, [])

/-- One predecessor of entry `e` has finished. -/
def State.predDone (s : State) (e : Nat) : State :=
  let x := s.entry e
  let s := s.setEntry e { x with pcnt := x.pcnt - 1 }
  if x.st = .waiting ∧ x.pcnt ≤ 1 then s.makeReady e else s

/-- The release of entry `i`, its region apart. -/
def State.releaseEntry (s : State) (i : Nat) (err : Bool) : State :=
  let (succ, conts) := s.chain i 4096
  let scope := (s.entry i).scope
  let s := succ.foldl State.predDone s
  let s := if err then s.scopeErr scope else s
  let s := s.countDown scope
  (i :: conts).foldl State.freeAt s

/-! ### Scope instructions (R212 to R216) -/

/-- SCOPEOPEN under parent `h`: the result. -/
def State.openScope (s : State) (h : Nat) : State × Word :=
  match s.liveScope h with
  | none => (s, BitVec.ofInt 64 (-3))
  | some p =>
    if (s.scope p).closed then (s, BitVec.ofInt 64 (-3))
    else match firstFrom (fun i => !(s.scope i).inUse) 1 255 with
      | none => (s, BitVec.ofInt 64 (-1))
      | some i =>
        let g := (s.scope i).gen
        let s := s.setScope i { Scope.init i with inUse := true, gen := g, parent := h }
        (s.setScope p { s.scope p with kids := (s.scope p).kids + 1 }, BitVec.ofNat 64 (g * 256 + i))

def State.closeScope (s : State) (h : Nat) : State :=
  match s.liveScope h with
  | some i => if i = 0 then s else (s.setScope i { s.scope i with closed := true }).freeScope i 256
  | none => s

/-- SCOPEQRY's result (R216). -/
def State.queryScope (s : State) (h : Nat) : Word :=
  match s.liveScope h with
  | none => 1#64 <<< 34
  | some i =>
    let x := s.scope i
    BitVec.ofNat 64 (x.count + (if x.closed then 2 ^ 32 else 0) + (if x.err then 2 ^ 33 else 0))

/-- SCOPEWAIT's condition (R215). -/
def State.scopeDone (s : State) (h : Nat) : Bool :=
  match s.liveScope h with
  | some i => (s.scope i).count = 0
  | none => true

end Sys2Proof.Machine
end

