-- ==== Sys2Proof/Machine/Requests.lean ====
section
/-! DEFINITION. Accesses of a control context: checks, requests, answers, and locks (R10, R53 to R57, R65, R262 to R265,
R404, R432). -/

namespace Sys2Proof.Machine

/-! ### Completion -/

/-- A thread's instruction traps. -/
def State.raiseAt (s : State) (t cause ea : Nat) : State := s.setCtx t ((s.ctx t).raise cause (BitVec.ofNat 64 ea))

/-- The value of a load of `n` bytes (R52). -/
def extend (n : Nat) (sx : Bool) (v : Nat) : Word :=
  let w := BitVec.ofNat (8 * n) v
  if sx then w.signExtend 64 else w.setWidth 64

/-- The value that AMO and CAS write to gd (R260, R261). -/
def oldWord (wide sx : Bool) (v : Nat) : Word := if wide then BitVec.ofNat 64 v else extend 4 sx v

/-- The word of R263 for a thread of this device. -/
def State.lockWord (s : State) (t : Nat) : Word :=
  (1#64 <<< 63) ||| (s.link.devid.setWidth 64 <<< 11) ||| BitVec.ofNat 64 t

/-- A thread waits for the answer of request `r`, with `again` as its continuation. -/
def State.await (s : State) (t : Nat) (r : Req) (fin : Finish) (intr : Bool) : State :=
  let id := s.nextId
  let s := { s.fresh with reqs := s.reqs.put id r }
  s.setCtx t ((s.ctx t).waitFor (.answer id fin) intr)

/-- The request of a thread's CAS on a lock word. -/
def lockReq (t key ea : Nat) (expect new : Word) : Req :=
  { master := t, owner := .ctx t, op := .lockCas expect new, pa := key, split := 40, pa2 := 0, ea := ea, st := .sent }

/-- Thread `t` joins the wait record of a lock word (R142, R264); none where no record can be made. -/
def State.joinLock (s : State) (t key : Nat) : Option State :=
  match s.findSync (islandOf t) (isLock key) with
  | some (p, .lock _ w) => some (s.putSync (islandOf t) p (.lock key (w ||| bitOf t)))
  | _ => s.newSync (islandOf t) (.lock key (bitOf t))

/-- Thread `t` stands in the wait record of a lock word. -/
def State.inLock (s : State) (t key : Nat) : Bool :=
  match s.findSync (islandOf t) (isLock key) with
  | some (_, .lock _ w) => w &&& bitOf t ≠ 0
  | _ => false

/-- A LOCK after its test found `old` (R264): at the first test the thread's own word is a fault; at the second any word but 0
waits. -/
def State.lockStep (s : State) (t key ea : Nat) (again : Bool) (old : Word) : State :=
  if old = 0 then
    let s := if again then s.leaveLock t key else s
    s.setCtx t ((s.ctx t).retire 1)
  else if old = s.lockWord t ∧ !again then s.raiseAt t 8 ea
  else if again then
    (if s.inLock t key then s.setCtx t ((s.ctx t).waitFor (.lock key) true)
     else s.setCtx t { s.ctx t with wait := .none })
  else match s.joinLock t key with
    | some s => s.await t (lockReq t key ea 0 (s.lockWord t)) (.lock true key) false
    | none => s.raiseAt t 8 ea

/-- wake of R265: on its way to the sync table of every island. -/
def State.sendWakes (s : State) (key : Nat) : State := { s with wakes := s.wakes ++ (List.range 64).map (fun i => (i, key)) }

/-- A LOCK that traps at its second test leaves its record. -/
def State.dropLock (s : State) (t : Nat) (fin : Finish) : State :=
  match fin with
  | .lock true key => s.leaveLock t key
  | _ => s

/-! ### GLD and GSCAT (R273 to R275) -/

/-- A thread asks for a walk and waits for it; it then executes its instruction again (R54). -/
def State.askWalk (s : State) (t va : Nat) (k : Acc) (intr : Bool) : State :=
  let s := s.startWalk (islandOf t) (.ctx t) va k
  s.setCtx t ((s.ctx t).waitFor .walk intr)

/-- What translating and checking the addresses of an instruction gives: where they lie, the first failure as a cause and an
address, or an address whose page must be walked first. -/
inductive Located where
  | at' (pas : List Nat)
  | trap (cause va : Nat)
  | walk (va : Nat)

/-- Addresses translated and checked in their order (R53); `refuses` is the check at the home. -/
def State.locate (s : State) (t : Nat) (k : Acc) (refuses : State → Nat → Bool) : List Nat → List Nat → State × Located
  | [], acc => (s, .at' acc.reverse)
  | va :: vas, acc =>
    match s.translateFor t va k with
    | (.pa pa, s) => if refuses s pa then (s, .trap 3 va) else s.locate t k refuses vas (pa :: acc)
    | (.miss, s) => (s, .walk va)
    | (.denied, s) => (s, .trap 3 va)
    | (.fault, s) => (s, .trap 4 va)

/-- A thread's instruction goes on with the addresses located, traps, or waits for a walk. -/
def State.locateThen (t : Nat) (k : Acc) (intr : Bool) (x : State × Located) (go : State → List Nat → State) : State :=
  match x with
  | (s, .at' pas) => go s pas
  | (s, .trap cause va) => s.raiseAt t cause va
  | (s, .walk va) => s.askWalk t va k intr

/-- A request of thread `t` for one word of a crystal region, a record or an area. -/
def wordReq (t : Nat) (op : AccOp) (pa ea : Nat) : Req :=
  { master := t, owner := .ctx t, op := op, pa := pa, split := 40, pa2 := 0, ea := ea, st := .sent }

/-- GLD reads one of the words left, or completes; which comes first is free (R274). -/
def State.gridReadNext (s : State) (t : Nat) (d : VNum) (ef f : Nat) (ws : List Lane) (fl : Flags) (todo : List (Nat × Nat × Nat))
    (got : Map Nat) : State :=
  let i := Config.pick (2 * s.tick + 1) % todo.length
  match todo[i]? with
  | some (n, pa, ea) => s.await t (wordReq t (.read (featureBytes ef)) pa ea) (.gridRead d ef f ws fl n (todo.eraseIdx i) got) true
  | none =>
    let r := levelResults ef f (ws.map Num.unpackFF) (got.map (·.2))
    let c := s.ctx t
    let v := VReg.build (fun i => r.1.getD i 0#36) (mask8 (fun i => decide (i < f)))
    s.setCtx t ({ c.setV d v with fflags := c.fflags ||| fl ||| r.2 }.retire 1)

/-- The adds of a GSCAT that may be made next, by their place: adds to one home are made in their order (R276). -/
def State.addsFree (s : State) (todo : List (Nat × Nat × Nat × Lane)) : List Nat :=
  ((todo.zipIdx).filter (fun x => (todo.take x.2).all (fun y => s.home y.2.1 ≠ s.home x.1.2.1))).map (·.2)

/-- GSCAT sends an add, or completes; which home's comes next is free. An uncorrectable word traps after the instruction (R276,
R432). -/
def State.gridAddNext (s : State) (t ef : Nat) (fl : Flags) (todo : List (Nat × Nat × Nat × Lane)) (bad : Option (Nat × Nat)) : State :=
  let free := s.addsFree todo
  let i := free.getD (Config.pick (2 * s.tick + 1) % free.length) 0
  match todo[i]? with
  | some (n, pa, ea, x) => s.await t (wordReq t (.gridAdd ef x) pa ea) (.gridAdd ef fl n (todo.eraseIdx i) bad) false
  | none =>
    let c := { s.ctx t with fflags := (s.ctx t).fflags ||| fl }
    s.setCtx t (match bad with
      | some (_, ea) => c.trapEntry 3 (BitVec.ofNat 64 ea) false (c.pc + 4)
      | none => c.retire 1)

/-- A peer window takes no crystal access (R405). -/
def State.atPeer (s : State) (pa : Nat) : Bool :=
  match s.home pa with
  | .peer _ => true
  | _ => false

/-- The device-register window takes LD.W, LD.WN, LD.D, ST.W and ST.D alone (R53). -/
def State.atRegister (s : State) (pa : Nat) : Bool := s.home pa = .reg

/-- The home of a word that GLD reads, or GSCAT adds to, refuses it (R273, step 4). -/
def gridRefuses (t ef : Nat) (scat : Bool) (s : State) (pa : Nat) : Bool :=
  s.atPeer pa || (if scat then s.addRefused t ef pa else s.readRefused t pa (featureBytes ef))

/-- The coordinate of a lookup in the CLM of thread `t`'s core, under its access table (R10): values and flags, or a cause and
an address. -/
def State.gridCoord (s : State) (t d : Nat) (x : Word) : Except (Nat × Nat) (List Num.FV × Flags) :=
  let base := clmBase (coreOf t)
  let a := x.toNat
  if a % 4 ≠ 0 then .error (2, a)
  else if a < base ∨ base + 0x10000 < a + 4 * d then .error (3, a)
  else match (List.range d).find? (fun i => !s.accepts t (a + 4 * i) .read || s.isBad (a + 4 * i) 4) with
    | some i => .error (3, a + 4 * i)
    | none =>
      let vs := (List.range d).map (fun i => Num.convIn .f32 127 (s.readMem (a + 4 * i) 4))
      .ok (vs.map (·.1), vs.foldl (fun f v => f ||| v.2) 0#5)

/-- GLD or GSCAT with its descriptor read: the descriptor, the coordinate and the entries are checked, then the first
entry is accessed. -/
def State.gridStart (s : State) (t : Nat) (scat : Bool) (v : VNum) (x : Word) (level ea : Nat) (bs : List Byte) : State :=
  match regionOf bs with
  | none => s.raiseAt t 3 ea
  | some r =>
    if r.l ≤ level then s.raiseAt t 3 ea
    else match s.gridCoord t r.d x with
      | .error (cause, a) => s.raiseAt t cause a
      | .ok (xs, f0) =>
        let s := s.corrected x.toNat (4 * r.d)
        let ks := r.corners level xs
        if scat then
          let img := (s.ctx t).getV v
          let adds := r.adds level ks.1 ((List.range r.f).map (fun j =>
            if img.lm.getLsbD j then some (Num.unpackFF (img.lane j)) else none))
          State.locateThen t .atomic false (s.locate t .atomic (gridRefuses t r.ef true) (adds.1.map (·.1)) []) (fun s pas =>
            s.gridAddNext t r.ef (f0 ||| ks.2 ||| adds.2) ((pas.zip adds.1).zipIdx.map (fun p => (p.2, p.1.1, p.1.2.1, p.1.2.2))) none)
        else
          let vas := r.touched level ks.1
          State.locateThen t .read true (s.locate t .read (gridRefuses t r.ef false) vas []) (fun s pas =>
            s.gridReadNext t v r.ef r.f (ks.1.map (fun k => Num.packFF k.2)) (f0 ||| ks.2)
              ((pas.zip vas).zipIdx.map (fun p => (p.2, p.1.1, p.1.2))) [])

/-! ### The areas of CTXSAVE and CTXLOAD (R378) -/

/-- CTXSAVE's area is written: the context that was stopped for it is HALTED, and the instruction completes. -/
def State.areaSaved (s : State) (t x : Nat) : State :=
  let s := s.setCtx x { s.ctx x with ran := false }
  s.setCtx t ((s.ctx t).retire 1)

/-- CTXSAVE traps with no effect: the context that was stopped for it goes on. -/
def State.areaUnsaved (s : State) (x : Nat) : State :=
  let c := s.ctx x
  if c.ran then s.setCtx x { c with ran := false, stop := false, st := if c.st = .halted then .runnable else c.st } else s

/-- CTXLOAD's area is read: it becomes the context `x`, or is refused with an illegal-instruction trap. -/
def State.areaLoaded (s : State) (t x : Nat) (bs : List Byte) : State :=
  let c := s.ctx x
  if c.st = .runnable ∨ c.st = .waiting ∨ !areaOk bs then s.raiseAt t 1 (s.readMem (s.ctx t).pc.toNat 4)
  else
    let s := s.setCtx x (c.ofArea bs)
    s.setCtx t ((s.ctx t).retire 1)

/-- An area with a part at a peer moves doubleword by doubleword (R405, log 20). -/
def State.saveNext (s : State) (t x : Nat) (todo : List (Nat × Nat × Nat)) : State :=
  match todo with
  | (pa, va, v) :: rest => s.await t (wordReq t (.write 8 (BitVec.ofNat 64 v)) pa va) (.saveArea x rest) false
  | [] => s.areaSaved t x

def State.loadNext (s : State) (t x : Nat) (todo : List (Nat × Nat)) (got : List Byte) : State :=
  match todo with
  | (pa, va) :: rest => s.await t (wordReq t (.read 8) pa va) (.loadArea x rest got) false
  | [] => s.areaLoaded t x got

/-- After `finish` has found a value `n` for a part of GLD, GSCAT, LAUNCH, CTXSAVE or CTXLOAD. -/
def State.partStep (s : State) (t ea : Nat) (fin : Finish) (n : Nat) (fl : Flags) : State :=
  match fin with
  | .gridDesc scat v x level todo got =>
    let got := got ++ bytesOf 8 n
    (match todo with
     | pa :: rest => s.await t (wordReq t (.read 8) pa ea) (.gridDesc scat v x level rest got) (!scat)
     | [] => s.gridStart t scat v x level ea got)
  | .launch d todo got =>
    let got := got ++ bytesOf 8 n
    (match todo with
     | pa :: rest => s.await t (wordReq t (.read 8) pa ea) (.launch d rest got) false
     | [] =>
       let r := (s.inTurn 0 t t).launch got t
       r.1.setCtx t (((r.1.ctx t).set d (BitVec.ofInt 64 r.2)).retire 1))
  | .gridRead d ef f ws f0 now todo got => s.gridReadNext t d ef f ws f0 todo (got.put now n)
  | .gridAdd ef f0 _ todo bad => s.gridAddNext t ef (f0 ||| fl) todo bad
  | .saveArea x todo => s.saveNext t x todo
  | .loadArea x todo got => s.loadNext t x todo (got ++ bytesOf 8 n)
  | _ => s

/-- A part that its home did not make: of GSCAT's adds the others are made; any other instruction traps. -/
def State.partRefused (s : State) (t cause ea : Nat) (fin : Finish) : State :=
  match fin with
  | .gridAdd ef f0 now todo bad =>
    s.gridAddNext t ef f0 todo (some (match bad with
      | some x => if x.1 < now then x else (now, ea)
      | none => (now, ea)))
  | .saveArea x _ => (s.areaUnsaved x).raiseAt t cause ea
  | fin => (s.dropLock t fin).raiseAt t cause ea

/-- LAUNCH: the checks of the record's address, then its reads (R206). -/
def launchAccess (d a : GReg) (s : State) : Out :=
  let ga := s.me.get a
  if ga.toNat % 64 ≠ 0 then raise 2 ga s
  else .next (State.locateThen s.cur .read false (s.locate s.cur .read State.atRegister [ga.toNat] []) (fun s pas =>
    let pa := pas.headD 0
    s.await s.cur (wordReq s.cur (.read 8) pa ga.toNat) (.launch d ((List.range 7).map (fun i => pa + 8 * (i + 1))) []) false))

/-- GLD and GSCAT: the checks of the descriptor's address, then its reads. -/
def gridAccess (scat : Bool) (v : VNum) (x r : GReg) (level : BitVec 4) (s : State) : Out :=
  let ga := s.me.get r
  if ga.toNat % 128 ≠ 0 then raise 2 ga s
  else .next (State.locateThen s.cur .read (!scat) (s.locate s.cur .read (fun s pa => s.atPeer pa || s.atRegister pa) [ga.toNat] []) (fun s pas =>
    let pa := pas.headD 0
    s.await s.cur (wordReq s.cur (.read 8) pa ga.toNat)
      (.gridDesc scat v (s.me.get x) level.toNat ((List.range 15).map (fun i => pa + 8 * (i + 1))) []) (!scat)))

/-- WHY of a stream's access that was refused, or 0, and its value (R242, R404). -/
def Answer.why : Answer → Nat × Nat
  | .value v _ => (0, v)
  | .denied _ => (2, 0)
  | .uncorrectable _ => (4, 0)
  | .unmapped _ => (1, 0)

/-- The answer `a` completes thread `t`'s instruction, which accessed `ea`. -/
def State.finish (s : State) (t ea : Nat) (fin : Finish) (a : Answer) : State :=
  let c := s.ctx t
  if fin = .peek then s.setCtx t { c with peeked := some (ea, a.why) }.wake
  else match a with
  | .denied e => s.partRefused t 3 e fin
  | .uncorrectable e => s.partRefused t 3 e fin
  | .unmapped e => s.partRefused t 4 e fin
  | .value v fl =>
    match fin with
    | .load d n sx => s.setCtx t ((c.set d (extend n sx v)).retire 1)
    | .store => s.setCtx t (c.retire 1)
    | .old d wide sx => s.setCtx t ({ c.set d (oldWord wide sx v) with fflags := c.fflags ||| fl }.retire 1)
    | .vld d => s.setCtx t ((c.setV d (imageReg v)).retire 1)
    | .lock again key => s.lockStep t key ea again (BitVec.ofNat 64 v)
    | .unlock key =>
      if BitVec.ofNat 64 v = s.lockWord t then (s.setCtx t (c.retire 1)).sendWakes key else s.raiseAt t 8 ea
    | .launch .. => s.partStep t ea fin v fl
    | .gridDesc .. => s.partStep t ea fin v fl
    | .gridRead .. => s.partStep t ea fin v fl
    | .gridAdd .. => s.partStep t ea fin v fl
    | .saveArea .. => s.partStep t ea fin v fl
    | .loadArea .. => s.partStep t ea fin v fl
    | .peek => s

/-! ### Starting an access -/

/-- An access of the current context as the instruction gives it. -/
structure AccessOf where
  ea    : Word
  /-- Bytes of the access, and the bytes that its address must be a multiple of. -/
  n     : Nat
  align : Nat
  kind  : Acc
  op    : AccOp
  fin   : Nat → Finish
  /-- Whether the wait can be interrupted (R55, R262, R264). -/
  intr  : Nat → Bool

/-- Where the page of the current context that holds `va` ends; the CLM window has no pages (R10, R54). -/
def State.pageEnd (s : State) (va : Nat) : Nat :=
  if inClm va then 0x4101000000
  else match (s.me.tlb ++ s.me.pages).find? (fun e => e.covers va) with
    | some e => e.va + e.size
    | none => va - va % 65536 + 65536

/-- The request of an access whose bytes lie from `pa` on, and from byte `cut` on from `pb` on. -/
def AccessOf.req (a : AccessOf) (t pa cut pb : Nat) : Req :=
  { master := t, owner := .ctx t, op := a.op, pa := pa, split := cut, pa2 := pb, ea := a.ea.toNat, st := .sent }

/-- The pages of an access: where its bytes lie, the bytes in the first page, and where the rest lies. The first page's part is checked at
its homes before the second is translated (R65). -/
def State.pages (s : State) (a : AccessOf) : Found × Nat × Nat × State :=
  let ea := a.ea.toNat
  match s.translate ea a.kind with
  | (.pa pa, s) =>
    let cut := s.pageEnd ea - ea
    if cut < a.n then
      if (s.imageDenied (a.req s.cur pa cut pa)) = some ea then (.denied, cut, ea, s)
      else match s.translate (ea + cut) a.kind with
        | (.pa pb, s) => (.pa pa, cut, pb, s)
        | (f, s) => (f, cut, ea + cut, s)
    else (.pa pa, a.n, 0, s)
  | (f, s) => (f, 0, ea, s)

/-- An access of one word in the CLM of the thread's own core, which is made at once (R10). -/
def AccessOf.own (a : AccessOf) (t pa : Nat) : Bool :=
  inClm a.ea.toNat && (pa - 0x4100000000) / 0x10000 = coreOf t && a.n ≤ 8

/-- The current context makes an access: alignment, translation, then the target (R53). An access of one word of the own CLM
is made at once; any other is sent to its home, and the context waits for the answer (R55). -/
def access (a : AccessOf) (s : State) : Out :=
  let ea := a.ea.toNat
  if ea % a.align ≠ 0 then raise 2 a.ea s
  else match s.pages a with
    | (.fault, _, va, s) => .next (s.raiseAt s.cur 4 va)
    | (.denied, _, va, s) => .next (s.raiseAt s.cur 3 va)
    | (.miss, _, va, s) => .next (s.askWalk s.cur va a.kind (a.intr 0))
    | (.pa pa, cut, pb, s) =>
      let r := a.req s.cur pa cut pb
      if a.own s.cur pa then
        match s.performAt r with
        | (s, .ans x) => .next (s.finish s.cur ea (a.fin pa) x)
        | (s, _) => .next s
      else .next (s.await s.cur r (a.fin pa) (a.intr pa))

/-- The answer of request `id` reaches its context (ACCESS_ANSWER). -/
def State.answerCtx (s : State) (id : Nat) : State :=
  match s.reqs.find? id with
  | some r =>
    match r.st, r.owner with
    | .answered a, .ctx t =>
      let s := { s with reqs := s.reqs.drop id }
      match (s.ctx t).wait with
      | .answer i fin => if i = id then s.finish t r.ea fin a else s
      | _ => s
    | _, _ => s
  | none => s

/-! ### Walks of contexts -/

/-- WHY of a stream's access whose walk ends without a page (R242). -/
def WalkGot.why : WalkGot → Nat
  | .denied => 2
  | .ecc => 4
  | _ => 1

/-- The walk of thread `t` ends (R54, R57, R227). One for a stream that its WSTEP steps fails that stream's access instead (R356). -/
def State.walkDone (s : State) (t va : Nat) (g : WalkGot) : State :=
  let c := s.ctx t
  let stream := c.peeked = some (va, 5, 0)
  match g with
  | .page e =>
    let c := c.refill e
    s.setCtx t { c with pages := e :: c.pages, peeked := if stream then none else c.peeked }.wake
  | g =>
    if stream then s.setCtx t { c with peeked := some (va, g.why, 0) }.wake
    else match g with
      | .denied => s.raiseAt t 3 va
      | .ecc => s.raiseAt t 3 va
      | _ => s.raiseAt t 4 va

end Sys2Proof.Machine
end

