-- ==== Sys2Proof/Machine/Threads.lean ====
section
/-! DEFINITION. Threads, groups, channels, semaphores and slots (R128 to R147, R292, R314 to R316), asynchronous traps
(R22, R291, R344) and the choice of the issuing context (R135, R136, R380). -/

namespace Sys2Proof.Machine

/-! ### SPAWN, EXIT, YIELD, SETPRI (R130 to R133, R137) -/

/-- The core on which SPAWN starts a thread (R130). -/
def State.spawnCore (s : State) (own : Nat) (any : Bool) (core : Nat) : Nat :=
  let isl := own / 4
  if !any then isl * 4 + core
  else if !(s.freeCtxs own).isEmpty then own
  else (List.range 4).foldl (fun k i =>
    if (s.freeCtxs k).length < (s.freeCtxs (isl * 4 + i)).length then isl * 4 + i else k) (isl * 4)

def execSpawn (d a b : GReg) (any : Bool) (core : BitVec 2) (s : State) : Out :=
  let c := s.me
  match s.freeCtxs (s.spawnCore (coreOf s.cur) any core.toNat) with
  | [] => writeReg d (fun _ => 0xFFFFFFFFFFFFFFFF#64) s
  | x :: _ =>
    writeReg d (fun _ => BitVec.ofNat 64 x)
      (s.initCtx x (c.get a) (c.get b) (BitVec.ofNat 64 s.cur) c.pri c.fpctl c.prv)

/-- EXIT waits until every slot is 0, then the thread ends (R133). -/
def execExit (s : State) : Out :=
  if s.me.slotsIdle then .next (s.retireThread s.cur) else waitOn (.poll (.idleSlots s.cur false)) true s

/-- The context counts as issued at its priority, which the fetch has recorded (R135). -/
def execYield (s : State) : Out := retireWith 1 id s

def execSetpri (p : BitVec 2) (s : State) : Out := retireWith 1 (fun c => { c with pri := p }) s

/-! ### Channels (R143 to R147) -/

/-- The target core refuses a message of thread `t`: in reset, or by the access table of its CLM (R144). -/
def State.sendRefused (s : State) (t core : Nat) : Bool :=
  s.inReset core || !s.grants (24576 + core) t (clmBase core) .write

def execSend (c r : GReg) (n : BitVec 2) (s : State) : Out :=
  let gc := s.me.get c
  let core := (gc.extractLsb' 6 8).toNat
  if s.sendRefused s.cur core then raise 3 gc s
  else if s.msgs.any (fun m => m.2.src = s.cur) then waitOn (.poll .netEmpty) true s
  else
    let m : Msg := { src := s.cur, core := core, ch := (gc.extractLsb' 0 6).toNat,
                     words := (List.range (n.toNat + 1)).map (fun i => s.me.get (r + BitVec.ofNat 5 i)) }
    waitOn (.send s.nextId) true { s.fresh with msgs := s.msgs.put s.nextId m }

/-- A message is placed in its channel, and its SEND completes (R144). One whose core is in reset is discarded, and a SEND
that waits for it completes. DESIGN CHOICE: assumption 81. -/
def execMessageDelivery (msg : Nat) (s : State) : Out :=
  match s.msgs.find? msg with
  | some m =>
    if s.inReset m.core ∨ (s.chan m.core m.ch).length < 4 then
      let s := { s with msgs := s.msgs.drop msg }
      let c := s.ctx m.src
      let s := if c.wait = .send msg then s.setCtx m.src (c.retire 1) else s
      .next (if s.inReset m.core then s else s.place m.core m.ch m.words)
    else .next s
  | none => .next s

def execRecv (d : GReg) (ch : BitVec 6) (s : State) : Out :=
  let k := coreOf s.cur
  match s.chan k ch.toNat, (s.core k).recvq.getD ch.toNat [] with
  | m :: ms, [] => retireWith 1 (fun c => c.takeMsg d m) (s.setChan k ch.toNat ms)
  | _, q => waitOn (.recv ch.toNat) true
      (s.setCore k { s.core k with recvq := (s.core k).recvq.put ch.toNat (q ++ [s.cur]) })

def execWaitch (d m : GReg) (s : State) : Out :=
  let w := s.me.get m
  let r := s.ready (coreOf s.cur) w
  if w = 0 ∨ r ≠ 0 then writeReg d (fun _ => r) s else waitOn (.waitch w) true s

/-! ### Groups (R138 to R142) -/

def groupOf (w : Word) : Nat := (w.extractLsb' 0 16).toNat

def execGjoin (a : GReg) (s : State) : Out :=
  let g := groupOf (s.me.get a)
  let isl := islandOf s.cur
  match s.findSync isl (isGroup g) with
  | some (p, .group _ m ar) => retireWith 1 id (s.putSync isl p (.group g (m ||| bitOf s.cur) ar))
  | _ =>
    match s.newSync isl (.group g (bitOf s.cur) 0) with
    | some s => retireWith 1 id s
    | none => raise 8 (BitVec.ofNat 64 g) s

def execGleave (a : GReg) (s : State) : Out := retireWith 1 id (s.leaveGroup s.cur (groupOf (s.me.get a)))

/-- The barrier flag after an arrival at group g, and the release kept in RN (R141). -/
def Ctx.arrive (c : Ctx) (g : Nat) : Ctx :=
  { c with rn := match c.bf with
                 | .released h => some h
                 | _ => c.rn,
           bf := .arrived g }

def execGbar (a : GReg) (s : State) : Out :=
  let g := groupOf (s.me.get a)
  let c := s.me
  if c.rn = some g then retireWith 1 (fun c => { c with rn := none }) s
  else if c.bf = .arrived g then waitOn (.gbar g) true s
  else if c.bf = .released g then retireWith 1 (fun c => { c with bf := .none }) s
  else
    match s.findSync (islandOf s.cur) (isGroup g) with
    | some (p, .group _ m ar) =>
      if m &&& bitOf s.cur = 0 then raise 8 (BitVec.ofNat 64 g) (s.mendSync p)
      else .next ((s.setMe ((c.arrive g).waitFor (.gbar g) true)).checkGroup (islandOf s.cur) p g m (ar ||| bitOf s.cur))
    | _ => raise 8 (BitVec.ofNat 64 g) s

/-! ### Semaphores (R314 to R316) -/

def amountOf (w : Word) : BitVec 32 := w.setWidth 32

def execSemacq (n : GReg) (sem : BitVec 6) (s : State) : Out :=
  let k := coreOf s.cur
  let v := amountOf (s.me.get n)
  if v = 0 then retireWith 1 id s
  else
    let q := (s.core k).semq.getD sem.toNat []
    let s := s.setCore k { s.core k with semq := (s.core k).semq.put sem.toNat (q ++ [(s.cur, v)]) }
    .next ((s.setMe (s.me.waitFor (.sem sem.toNat) true)).serveSem k sem.toNat 8)

def execSemrel (n : GReg) (sem : BitVec 6) (s : State) : Out :=
  let v := amountOf (s.me.get n)
  .next ((s.setMe (s.me.retire 1)).semAdd (coreOf s.cur) sem.toNat v (some s.cur))

def execSemtry (d n : GReg) (sem : BitVec 6) (s : State) : Out :=
  let k := coreOf s.cur
  let v := amountOf (s.me.get n)
  let c := s.sem k sem.toNat
  if v.ule c ∧ ((s.core k).semq.getD sem.toNat []).isEmpty then
    writeReg d (fun _ => 1) (s.setSem k sem.toNat (c - v))
  else writeReg d (fun _ => 0) s

/-- SEMSET is privileged (R315). -/
def execSemset (n : GReg) (sem : BitVec 6) (s : State) : Out :=
  if s.me.prv then
    let v := amountOf (s.me.get n)
    .next (((s.setMe (s.me.retire 1)).setSem (coreOf s.cur) sem.toNat v).serveSem (coreOf s.cur) sem.toNat 8)
  else illegal s

def execSemget (d : GReg) (sem : BitVec 6) (s : State) : Out :=
  writeReg d (fun _ => (s.sem (coreOf s.cur) sem.toNat).setWidth 64) s

/-! ### Slots (R290 to R292) -/

/-- Every slot of a mask has count 0. -/
def Ctx.slotsZero (c : Ctx) (m : BitVec 8) : Bool :=
  (List.range 8).all (fun i => !m.getLsbD i || (c.d.toList.getD i { count := 0, err := false }).count = 0)

def execDswait (mask : BitVec 8) (s : State) : Out :=
  if s.me.slotsZero mask then retireWith 1 id s else waitOn (.poll (.slots mask)) true s

/-! ### Asynchronous traps (R22) -/

/-- The lowest pending cause. -/
def Ctx.lowestCause (c : Ctx) : Option Nat := (List.range 15).find? (fun i => c.pending.getLsbD i)

/-- The context can take a pending cause: IT is 0, and it stands at a boundary or in a wait that R22 ends. -/
def State.trapDue (s : State) (t : Nat) : Bool :=
  let c := s.ctx t
  !c.it && c.lowestCause.isSome &&
    (match c.st with
     | .runnable => c.held = none && c.wait = .none
     | .waiting => !s.served c
     | _ => false)

/-- sy.taddr of a pending cause (R20, R291, R344). For cause 9, R20 names the ring descriptor's address, and R344 and R366 the
record's, which the model takes. DESIGN CHOICE: assumption 76. -/
def State.causeAddr (s : State) (t cause : Nat) : Word :=
  let c := s.ctx t
  if cause = 14 then BitVec.ofNat 64 (c.errSlot.getD 0)
  else if cause = 13 then c.pendAddr.getD 13 0
  else match s.oldestRecord t cause with
    | some a => BitVec.ofNat 64 a
    | none => c.pendAddr.getD cause 0

/-- The cause has been taken. -/
def Ctx.takeCause (c : Ctx) (cause : Nat) : Ctx :=
  if cause = 14 then
    match c.errSlot with
    | some i => { c with d := c.d.setIfInBounds i { (c.d.toList.getD i { count := 0, err := false }) with err := false } }
    | none => c
  else { c with pend := c.pend &&& ~~~(1#15 <<< cause), pendAddr := c.pendAddr.drop cause }

/-- The context takes its lowest pending cause (R22). -/
def execAsyncTrapEntry (tid : Nat) (s : State) : Out :=
  if s.trapDue tid then
    match (s.ctx tid).lowestCause with
    | some cause =>
      let addr := s.causeAddr tid cause
      let s := if (s.ctx tid).st = .waiting then s.withdraw tid else s
      let c := (s.ctx tid).takeCause cause
      .next (s.setCtx tid (c.trapEntry cause addr true c.pc))
    | none => .next s
  else .next s

/-! ### Choosing the issuing context (R135, R136, R380) -/

/-- Threads of the own core that wait in LOCK on a word held by thread `t` of this device (R380). -/
def State.lenders (s : State) (t : Nat) : List Nat :=
  ((List.range 8).map (fun i => coreOf t * 8 + i)).filter (fun w =>
    match (s.ctx w).wait with
    | .lock key =>
      let v := BitVec.ofNat 64 (s.readMem key 8)
      (s.ctx w).st = .waiting && v.getLsbD 63 && v.extractLsb' 11 10 = s.link.devid && (v.extractLsb' 0 11).toNat = t
    | _ => false)

/-- The effective priority of a context. -/
def State.priority (s : State) (t : Nat) : Nat :=
  let c := s.ctx t
  if c.boosted ∨ 4096 ≤ c.waited then 0
  else (s.lenders t).foldl (fun p w => min p (s.ctx w).pri.toNat) c.pri.toNat

/-- The first of `l`, contexts of one core by number, after context `last`, wrapping from 7 to 0. -/
def afterLast (last : Nat) (l : List Nat) : Option Nat :=
  ((List.range 8).map (fun i => (last + 1 + i) % 8)).find? (fun x => l.contains x)

/-- The context that a core chooses among the contexts `l` (by number) that are eligible, and its priority. -/
def State.choose (s : State) (core : Nat) (l : List Nat) : Option (Nat × Nat) :=
  match l with
  | [] => none
  | x :: xs =>
    let p := xs.foldl (fun p y => min p (s.priority (core * 8 + y))) (s.priority (core * 8 + x))
    let at' := l.filter (fun y => s.priority (core * 8 + y) = p)
    (afterLast ((s.core core).last.toList.getD p 7#3).toNat at').map (fun y => (y, p))

/-- A context that has waited 4 096 cycles while eligible is boosted (R136). -/
def execContextBoost (tid : Nat) (s : State) : Out :=
  let c := s.ctx tid
  .next (if 4096 ≤ c.waited ∧ c.st = .runnable ∧ c.wait = .none then s.setCtx tid { c with boosted := true } else s)

end Sys2Proof.Machine
end

