-- ==== Sys2Proof/Machine/System.lean ====
section
/-! DEFINITION. System registers, TRAP, BRK, HALT, ERET, TLADJ (R14 to R19, R23, R66 to R73, R336, R367, R414) and VOP
(R102). -/

namespace Sys2Proof.Machine

/-! ### SYSR and SYSW -/

/-- A counter of a pan (R336). -/
def Pan.counter (p : Pan) (i : Nat) : Word :=
  match i with
  | 0 => p.c0
  | 1 => p.tim ++ p.thr
  | 2 => p.c2
  | _ => p.c3

/-- sy.pancnt: the counter that the core's last WINDOW selected, 0 before any (R336); 0 too for a pan that is not defined
(log 21). -/
def State.pancnt (s : State) (core : Nat) : Word :=
  match (s.core core).window with
  | some (p, i) => ((s.pans.find? p).map (fun x => x.counter i)).getD 0
  | none => 0

/-- The value of a system register (R14); none where the number names none. -/
def State.sysreg (s : State) (r : Nat) : Option Word :=
  let c := s.me
  let t := s.cur
  match r with
  | 0x000 => some (c.status.setWidth 64)
  | 0x001 => some (BitVec.ofNat 64 (t % 8))
  | 0x002 => some (BitVec.ofNat 64 (t / 8 % 4))
  | 0x003 => some (BitVec.ofNat 64 (t / 32))
  | 0x004 => some (BitVec.ofNat 64 (t / 512))
  | 0x005 => some (BitVec.ofNat 64 (popc s.grant))
  | 0x006 => some s.gcyc
  | 0x007 => some (c.pri.setWidth 64)
  | 0x008 => some (c.fpctl.setWidth 64)
  | 0x009 => some (c.fflags.setWidth 64)
  | 0x00A => some c.tvec
  | 0x00B => some c.epc
  | 0x00C => some c.tcause
  | 0x00D => some c.taddr
  | 0x00E => some (s.syReady (t / 512))
  | 0x010 => some (s.pancnt (coreOf t))
  | _ => none

/-- The registers whose Access is PRV (R14, R15). -/
def sysPrv (r : Nat) : Bool := 0x00A ≤ r && r ≤ 0x00D

def execSysr (d : GReg) (r : BitVec 11) (s : State) : Out :=
  match s.sysreg r.toNat with
  | some v => if sysPrv r.toNat ∧ !s.me.prv then illegal s else writeReg d (fun _ => v) s
  | none => illegal s

/-- A SYSW of sy.status: without privilege, one that would change a PRV field traps (R67). -/
def sysStatus (v : Word) (s : State) : Out :=
  if !s.me.prv ∧ v.extractLsb' 0 3 ≠ s.me.status.extractLsb' 0 3 then illegal s
  else retireWith 1 (fun c => { c with status := v.setWidth 4 }) s

/-- A SYSW of sy.fpctl: 5, 6 and 7 trap (R17). -/
def sysFpctl (v : Word) (s : State) : Out :=
  if 5 ≤ (v.extractLsb' 0 3).toNat then illegal s else retireWith 1 (fun c => { c with fpctl := v.setWidth 3 }) s

def execSysw (a : GReg) (r : BitVec 11) (s : State) : Out :=
  let v := s.me.get a
  let n := r.toNat
  if (s.sysreg n).isNone ∨ ((sysPrv n ∨ n = 0x006) ∧ !s.me.prv) then illegal s
  else match n with
    | 0x000 => sysStatus v s
    | 0x006 => retireWith 1 id { s with gcyc := v }
    | 0x007 => retireWith 1 (fun c => { c with pri := v.setWidth 2 }) s
    | 0x008 => sysFpctl v s
    | 0x009 => retireWith 1 (fun c => { c with fflags := v.setWidth 5 }) s
    | 0x00A => retireWith 1 (fun c => { c with tvec := v &&& ~~~3#64 }) s
    | 0x00B => retireWith 1 (fun c => { c with epc := v }) s
    | 0x00C => retireWith 1 (fun c => { c with tcause := v &&& 0x3FF#64 }) s
    | 0x00D => retireWith 1 (fun c => { c with taddr := v }) s
    | _ => retireWith 1 id s

/-! ### Trap instructions -/

/-- TRAP resumes after itself (R68). -/
def execTrap (imm : BitVec 11) (s : State) : Out :=
  .next (s.setMe (s.me.trapEntry 12 (imm.setWidth 64) false (s.me.pc + 4#64)))

/-- ERET checks its target before it has any effect (R71). -/
def execEret (s : State) : Out :=
  if !s.me.prv then illegal s
  else match targetFault s.cur s.me.epc with
    | some cause => raise cause s.me.epc s
    | none => .next (s.setMe s.me.trapReturn)

def execBrk (s : State) : Out := raise 11 s.me.pc s

def execHalt (s : State) : Out := .next (s.setMe { s.me.retire 1 with st := .halted, stop := false, waited := 0 })

/-! ### TLADJ (R73, R367) -/

/-- The time of an armed CFGSW moves by `d`. -/
def Residency.moveTime (r : Residency) (d : Word) : Residency :=
  { r with switch := r.switch.map (fun w => { w with t := w.t + d }) }

/-- Every armed threshold moves by `d`: CFGSW times, those of saved residencies with them, pan arrival stamps and READY times,
and RTIME. -/
def State.moveTimes (s : State) (d : Word) : State :=
  { s with
    gcyc := s.gcyc + d,
    res := s.res.map (fun r => (r.1, r.2.moveTime d)),
    saved := s.saved.map (fun x => (x.1, { x.2 with res := x.2.res.moveTime d })),
    pans := s.pans.map (fun p => (p.1, { p.2 with times := p.2.times.map (· + d), readyAt := p.2.readyAt.map (· + d) })),
    entries := s.entries.map (fun e => (e.1, { e.2 with rtime := e.2.rtime + d })) }

def execTladj (a : GReg) (s : State) : Out :=
  if s.me.prv then retireWith 1 id (s.moveTimes (s.me.get a)) else illegal s

/-! ### VOP (R95, R98, R102) -/

/-- The mode of RND under VOP: 7 takes sy.fpctl.RM. -/
def Ctx.mode (c : Ctx) (rnd : BitVec 3) : Num.RMode := Num.RMode.ofCode (if rnd = 7#3 then c.fpctl.toNat else rnd.toNat)

/-- The register of a VOP operand: input tokens a, b, c are va, vb, vc. -/
def prefixReg (c : Ctx) (va vb vc : VNum) (pos : Nat) : VReg :=
  match pos with
  | 0 => c.getV va
  | 1 => c.getV vb
  | _ => c.getV vc

/-- A lane operation under VOP. -/
def vop (o : LOp) (vd va vb vc : VNum) (w : LaneW) (s : State) : Out :=
  let c := s.me
  if !laneLegal true o w then illegal s
  else
    let regs := prefixReg c va vb vc
    let st := c.getV vd
    let (r, fl) := laneOp o w (c.mode w.rnd) (operand o w 0 w.asel regs st) (operand o w 1 w.bsel regs st)
      (operand o w 2 w.csel regs st) st (regs 0)
    let hit := trapped w fl
    if hit ≠ 0#5 then raise 5 (hit.setWidth 64) s
    else retireWith 3 (fun c => { c.setV vd r with fflags := c.fflags ||| fl }) s

end Sys2Proof.Machine
end

