-- ==== Sys2Proof/Machine/CtxMove.lean ====
section
/-! DEFINITION. CTXSAVE and CTXLOAD (R376 to R379). -/

namespace Sys2Proof.Machine

/-! ### The block that an instruction moves -/

/-- The home of a doubleword refuses it, or a read meets an uncorrectable one; registers refuse every such access (R53, R57,
R376). A peer's window is checked here for its port and the table there; the peer answers for itself. -/
def blockRefuses (t : Nat) (k : Acc) (s : State) (pa : Nat) : Bool :=
  match s.home pa with
  | .reg => true
  | .peer n => s.peerRefuses t n pa k
  | _ =>
    (k ≠ .write && (s.readRefused t pa 8 || s.isBad pa 8)) || (k ≠ .read && s.writeRefused t pa 8)

/-- The doublewords of `n` bytes at virtual address `va` of the current context, located and checked before any byte moves. -/
def State.blockAt (s : State) (k : Acc) (va n : Nat) : State × Located :=
  s.locate s.cur k (blockRefuses s.cur k) (dwordsOf va n) []

/-! ### The instructions -/

/-- The checks that both instructions make first: privilege, the context named, alignment. -/
def moveChecks (ga : Word) (x : Nat) (s : State) (k : State → Out) : Out :=
  if !s.me.prv ∨ x = s.cur then illegal s
  else if ga.toNat % 64 ≠ 0 then raise 2 ga s
  else k s

/-- No PROBE of a thread is incomplete. -/
def State.noProbe (s : State) (t : Nat) : Bool :=
  s.cmds.all (fun c => c.2.src ≠ some t || (match c.2.instr with | .probe .. => false | _ => true))

/-- Stop thread `x` for a save: at its next boundary, or out of its wait (R378, R379). -/
def State.stopForSave (s : State) (x : Nat) : State :=
  match (s.ctx x).st with
  | .runnable => (s.setCtx x { s.ctx x with ran := true }).haltCtx x
  | .waiting => (s.setCtx x { s.ctx x with ran := true }).haltCtx x
  | _ => s

/-- The STATE that an area of context `c` holds: RUNNABLE for one that was stopped for the save (R378). -/
def Ctx.areaState (c : Ctx) : Nat :=
  match c.st with
  | .free => 0
  | _ => if c.ran then 1 else 2

/-- The area of thread `x` is written at one instant, or doubleword by doubleword where a part of it lies at a peer. -/
def State.saveCtx (s : State) (x va : Nat) (pas : List Nat) : State :=
  let bs := (s.ctx x).area x (s.ctx x).areaState
  if pas.any s.atPeer then
    s.saveNext s.cur x ((pas.zip (dwordsOf va 1536)).zipIdx.map (fun p => (p.1.1, p.1.2, fieldAt bs (8 * p.2) 8)))
  else (s.writeBlock pas bs).areaSaved s.cur x

/-- The area is read in the same way. -/
def State.loadCtx (s : State) (x va : Nat) (pas : List Nat) : State :=
  if pas.any s.atPeer then s.loadNext s.cur x (pas.zip (dwordsOf va 1536)) []
  else (pas.foldl (fun (s : State) pa => s.corrected pa 8) s).areaLoaded s.cur x (s.readBlock pas)

def execCtxsave (a : GReg) (ctx : BitVec 3) (s : State) : Out :=
  let ga := s.me.get a
  let x := s.cur / 8 * 8 + ctx.toNat
  moveChecks ga x s (fun s =>
    match s.blockAt .write ga.toNat 1536 with
    | (s, .trap cause va) => .next ((s.areaUnsaved x).raiseAt s.cur cause va)
    | (s, .walk va) => .next (s.askWalk s.cur va .write false)
    | (s, .at' pas) =>
      let s := s.stopForSave x
      let c := s.ctx x
      if c.st = .runnable then waitOn (.poll (.stopped x)) false s
      else if !c.slotsIdle ∨ !s.noProbe x then waitOn (.poll (.idleSlots x true)) false s
      else .next (s.saveCtx x ga.toNat pas))

def execCtxload (a : GReg) (ctx : BitVec 3) (s : State) : Out :=
  let ga := s.me.get a
  let x := s.cur / 8 * 8 + ctx.toNat
  moveChecks ga x s (fun s =>
    .next (State.locateThen s.cur .read false (s.blockAt .read ga.toNat 1536) (fun s pas => s.loadCtx x ga.toNat pas)))

end Sys2Proof.Machine
end

