-- ==== Sys2Proof/Machine/Commands.lean ====
section
/-! DEFINITION. Issuing stream commands, their acceptance and start (R32, R33, R285 to R291). -/

namespace Sys2Proof.Machine

/-! ### Substitution (R33) -/

/-- A field of `n` bits after substitution from register `gs`; none where the register holds more than the field. -/
def subst (c : Ctx) (gs : GReg) {n : Nat} (x : BitVec n) : Option (BitVec n) :=
  if gs = 0#5 then some x
  else if (c.get gs).toNat < 2 ^ n then some ((c.get gs).setWidth n)
  else none

/-! ### Acceptance -/

/-- Accepted commands of a dispatcher that have not started. -/
def State.queueLength (s : State) (d : Disp) : Nat :=
  (s.cmds.filter (fun c => c.2.disp = d && c.2.accepted && c.2.job = .queued)).length

/-- A dispatcher can accept a command; the master distributor once it is ready (R289, R415). -/
def State.queueRoom (s : State) (d : Disp) : Bool :=
  s.queueLength d < 16 && (d ≠ .md || (s.mdReady && !s.failover))

/-- The command of number `id` is accepted if it can be, and its ISSUE completes (R288). -/
def State.accept (s : State) (id : Nat) : State :=
  match s.cmds.find? id with
  | some c =>
    if !c.accepted ∧ s.queueRoom c.disp
        ∧ s.cmds.all (fun x => x.1 ≥ id || x.2.accepted || x.2.disp ≠ c.disp) then
      (let s := { s.fresh with cmds := s.cmds.put id { c with accepted := true, accNo := s.nextId } }
       match c.src with
       | some t =>
         if (s.ctx t).wait = .accept id then s.setCtx t ((s.ctx t).retire 5) else s
       | none => s)
    else s
  | none => s

/-- Commands that wait for acceptance and can be accepted. -/
def State.acceptable (s : State) : List Nat :=
  (s.cmds.filter (fun x => !x.2.accepted && s.queueRoom x.2.disp
    && s.cmds.all (fun y => y.1 ≥ x.1 || y.2.accepted || y.2.disp ≠ x.2.disp))).map (·.1)

/-- A new command. -/
def newCmd (src : Option Nat) (i : Instr) (d : Disp) (wait : BitVec 8) (slot : Option (BitVec 3)) : Cmd :=
  { src := src, instr := i, disp := d, wait := wait, slot := slot, accepted := false, accNo := 0, tiles := [],
    job := .queued, err := false, busy := false, count := none, follow := 0, got := [], exact := none, ring := none }

/-- ISSUE of a command (R288). `mk` gives the command after substitution, by its number, and its dispatcher, or none where
substitution fails or the command breaks R34 or R287. -/
def issue (h : CmdHdr) (mk : Nat → Option (Instr × Disp)) (s : State) : Out :=
  match mk s.nextId with
  | none => illegal s
  | some (i, d) =>
    if !hdrOk h then illegal s
    else
      let k := s.me.getD h.setslot
      if h.seten ∧ 63 ≤ k.count.toNat then waitOn (.poll (.slotRoom h.setslot.toNat)) false s
      else
        let id := s.nextId
        let c := if h.seten then s.me.setD h.setslot { k with count := k.count + 1 } else s.me
        let s := s.setMe (c.waitFor (.accept id) false)
        let cmd := newCmd (some s.cur) i d h.wait (if h.seten then some h.setslot else none)
        .next ({ s.fresh with cmds := s.cmds.put id cmd }.accept id)

/-- Substitution in a command with no, one or two substitutable fields. -/
def subst0 (g0 g1 g2 : GReg) : Option Unit := if subsOk 0 g0 g1 g2 then some () else none

def subst1 (c : Ctx) (g0 g1 g2 : GReg) {n : Nat} (x : BitVec n) : Option (BitVec n) :=
  if subsOk 1 g0 g1 g2 then subst c g0 x else none

def subst2 (c : Ctx) (g0 g1 g2 : GReg) {n m : Nat} (x : BitVec n) (y : BitVec m) : Option (BitVec n × BitVec m) :=
  if subsOk 2 g0 g1 g2 then (subst c g0 x).bind (fun x => (subst c g1 y).map (fun y => (x, y))) else none

/-- The engine of the issuing core's island. -/
def State.ownEngine (s : State) : Disp := .engine (islandOf s.cur)

/-! ### Start (R289) -/

/-- The slots that WAIT names read 0 at the issuing core. -/
def State.waitMet (s : State) (c : Cmd) : Bool :=
  match c.src with
  | some t => (s.ctx t).slotsZero c.wait
  | none => true

/-- Commands that a dispatcher is running. -/
def State.runningOn (s : State) (d : Disp) : Nat :=
  (s.cmds.filter (fun c => c.2.disp = d && c.2.job ≠ .queued && c.2.job ≠ .done)).length

/-- Command `id` may start, as far as its dispatcher is concerned. -/
def State.mayStart (s : State) (id : Nat) : Bool :=
  match s.cmds.find? id with
  | some c =>
    c.accepted && c.job = .queued && s.waitMet c
      && s.cmds.all (fun x => x.1 ≥ id || x.2.src ≠ c.src || x.2.disp ≠ c.disp || x.2.job ≠ .queued)
      && (match c.disp with
          | .engine _ => s.runningOn c.disp < 8
          | .md => s.mdReady && !s.failover
          | _ => true)
  | none => false

def State.setCmd (s : State) (id : Nat) (f : Cmd → Cmd) : State := { s with cmds := s.cmds.adjust id f }

/-- Everything the command does has been done. -/
def State.cmdDone (s : State) (id : Nat) : State := s.setCmd id (fun c => { c with job := .done })

/-- The command meets an error case and does nothing further (R291). -/
def State.cmdFail (s : State) (id : Nat) : State := s.setCmd id (fun c => { c with job := .done, err := true })

/-- The thread that issued a command; the master distributor's own commands have none. -/
def State.issuer (s : State) (id : Nat) : Option Nat := (s.cmds.find? id).bind (·.src)

/-- A command that starts, where its dispatcher and its unit allow it. -/
def started (id : Nat) (f : State → Option State) (s : State) : Out :=
  .next (if s.mayStart id then (f s).getD s else s)

end Sys2Proof.Machine
end

