-- ==== Sys2Proof/Machine/Engine.lean ====
section
/-! DEFINITION. What an island engine does: patterns, transfer records, moves in any order, ordered writes, tiles and
rings (R233, R248, R294 to R297, R301, R302, R305, R312, R319). -/

namespace Sys2Proof.Machine

/-! ### Reading records at one instant -/

/-- The physical address of a byte for a master other than a context: the CLM window as it stands, else by a walk. -/
def State.reach (s : State) (va : Nat) (k : Acc) : Option Nat :=
  if inClm va then some va
  else match s.walkNow va k with
    | .page e => some (e.to va)
    | _ => none

/-- The `n` bytes at `va`, as doublewords read by a master; none where a read is refused or fails. Of doublewords at a peer, those that
have been read are `got`. -/
def State.fetchWith (s : State) (got : Map (Nat × Nat)) (master va n : Nat) : Option (List Byte) :=
  (dwordsOf va n).foldl (fun (acc : Option (List Byte)) a =>
    match acc, s.reach a .read with
    | some bs, some pa =>
      (match s.home pa with
       | .reg => none
       | .peer _ =>
         (match got.find? pa with
          | some (1, v) => some (bs ++ bytesOf 8 v)
          | _ => none)
       | _ => if s.readRefused master pa 8 ∨ s.isBad pa 8 then none else some (bs ++ bytesOf 8 (s.load pa 8)))
    | _, _ => none) (some [])

def State.fetch (s : State) (master va n : Nat) : Option (List Byte) := s.fetchWith [] master va n

/-- The doublewords that hold `n` bytes at any byte address: the first's address and their size. -/
def spanOf (va n : Nat) : Nat × Nat := if va % 8 = 0 then (va, n) else (va - va % 8, n + 8)

/-- The same at any byte address. -/
def State.fetchBytes (s : State) (got : Map (Nat × Nat)) (master va n : Nat) : Option (List Byte) :=
  (s.fetchWith got master (spanOf va n).1 (spanOf va n).2).map (fun bs => (bs.drop (va % 8)).take n)

/-- A read of `n` bytes at `va` has written the words in which it found a single-bit error back corrected, those of its walk too (R230,
R234). -/
def State.mend (s : State) (va n : Nat) : State :=
  if s.single.isEmpty then s
  else (dwordsOf (va - va % 8) (n + va % 8 + 7)).foldl (fun (s : State) a =>
    match s.reach a .read with
    | some pa => (s.mendWalk a .read).corrected pa 8
    | none => s.mendWalk a .read) s

/-- The same for several records. -/
def State.mendAll (s : State) (l : List (Nat × Nat)) : State := l.foldl (fun s x => s.mend x.1 x.2) s

/-! ### Patterns (R294) -/

def signed32 (n : Nat) : Int := (BitVec.ofNat 32 n).toInt

/-- A pattern record, if it follows the table. -/
def patternOf (bs : List Byte) : Option Pattern :=
  let base := fieldAt bs 0 8
  let nd := fieldAt bs 8 1
  let kind := fieldAt bs 9 1
  let tile := fieldAt bs 10 1
  let dim (i : Nat) : Nat × Int := (fieldAt bs (16 + 8 * i) 4, signed32 (fieldAt bs (20 + 8 * i) 4))
  if 2 ^ 52 ≤ base ∨ 1 < kind ∨ nd < 1 ∨ 5 < nd ∨ tile / 16 % 4 ≠ 0 ∨ fieldAt bs 11 5 ≠ 0 then none
  else
    let t := if tile / 128 = 1 then some (tile % 16 + (if tile / 64 % 2 = 1 then 16 else 0)) else none
    if kind = 1 then
      if fieldAt bs 18 38 ≠ 0 then none
      else some { base := base, dims := [(fieldAt bs 16 1, 0), (fieldAt bs 17 1, 0)], scale := fieldAt bs 56 8,
                  kind := 1, tile := t }
    else if (List.range nd).any (fun i => (dim i).1 = 0)
        ∨ (List.range (5 - nd)).any (fun i => fieldAt bs (16 + 8 * (nd + i)) 8 ≠ 0) then none
    else some { base := base, dims := (List.range nd).map dim, scale := fieldAt bs 56 8, kind := 0, tile := t }

/-- The tile that a pattern names, and whether it is drained when read. -/
def Pattern.tileNo (p : Pattern) : Option (Nat × Bool) := p.tile.map (fun t => (t % 16, decide (16 ≤ t)))

/-- The number of elements. -/
def Pattern.count (p : Pattern) : Nat := prod (p.dims.map (·.1))

/-- The offset in bytes of element k from the base (R236). -/
def Pattern.offset (p : Pattern) (k : Nat) : Int :=
  (p.dims.foldl (fun (acc : Int × Nat) d => (acc.1 + (acc.2 % d.1 : Nat) * d.2, acc.2 / d.1)) (0, k)).1

/-- The virtual address of element k, modulo 2^64. -/
def Pattern.addr (p : Pattern) (k : Nat) : Nat := (((p.base : Int) + p.offset k) % 2 ^ 64).toNat

/-- Every element's address is a multiple of `n`. -/
def Pattern.alignedTo (p : Pattern) (n : Nat) : Bool :=
  p.base % n = 0 && p.dims.all (fun d => d.1 ≤ 1 || d.2 % (n : Int) = 0)

/-- The lowest offset, and the highest of the first byte of an element. -/
def Pattern.span (p : Pattern) : Int × Int :=
  p.dims.foldl (fun (acc : Int × Int) d =>
    let e := ((d.1 : Int) - 1) * d.2
    (acc.1 + min e 0, acc.2 + max e 0)) (0, 0)

/-! ### Tiles (R232, R233, R295) -/

def State.tile (s : State) (me t : Nat) : Tile := s.tiles.getD (16 * me + t) Tile.reset
def State.setTile (s : State) (me t : Nat) (x : Tile) : State := { s with tiles := s.tiles.put (16 * me + t) x }
def State.tileState (s : State) (me t st : Nat) : State := s.setTile me t { s.tile me t with st := BitVec.ofNat 2 st }

/-- The ME of a tile pattern, if every element lies within the tile's bytes. -/
def State.tileMe (s : State) (p : Pattern) (size tile : Nat) (k : Acc) : Option Nat :=
  match s.reach p.base k with
  | none => none
  | some pa =>
    match s.home pa with
    | .me n =>
      let t := s.tile n tile
      let off : Int := (pa : Int) - meBase n
      let (lo, hi) := p.span
      let first := off + lo
      let last := off + hi + size
      let b := t.base.toNat * 64
      let inside := decide ((b : Int) ≤ first) && decide (last ≤ ((b + t.size.toNat * 64 : Nat) : Int))
      let vaOf (o : Int) : Nat := ((p.base : Int) + (o - off)).toNat
      let pages := (List.range 3).map (fun (i : Nat) => max first (first / 65536 * 65536 + i * 65536))
      let whole := pages.all (fun o => decide (last ≤ o) || s.reach (vaOf o) k = some ((meBase n : Int) + o).toNat)
      if t.defd ∧ inside ∧ whole ∧ !s.meTaken n then some n else none
    | _ => none

/-- The use that a command makes of a tile: 0 fills it, 1 reads it, or has filled or drained it, 2 drains it. -/
def tileNeed (role : Nat) : Nat := if role = 0 then 0 else 2

/-- An accepted BARRIER holds back later tile users (R305). -/
def State.barred (s : State) (me tile : Nat) : Bool :=
  s.cmds.any (fun c =>
    c.2.accepted && c.2.job ≠ .done &&
      (match c.2.instr with
       | .barrier _ _ isl j m => isl.toNat * 384 + j.toNat = me && m.getLsbD tile
       | _ => false))

/-- A command takes its tiles if every one has the state its use needs (R295); none where it must wait. -/
def State.takeTiles (s : State) (id : Nat) (l : List (Nat × Nat × Nat)) : Option State :=
  if l.all (fun u => (s.tile u.1 u.2.1).st.toNat = tileNeed u.2.2 && !s.barred u.1 u.2.1) then
    let s := l.foldl (fun (s : State) u =>
      if u.2.2 = 0 then s.tileState u.1 u.2.1 1 else if u.2.2 = 2 then s.tileState u.1 u.2.1 3 else s) s
    some (s.setCmd id (fun c => { c with tiles := l }))
  else none

/-- The fills of a command end: its tiles are READY; the drains end when its reads have returned. The command stays their user until it
completes (R305). -/
def State.endTiles (s : State) (id role : Nat) : State :=
  match s.cmds.find? id with
  | some c =>
    let s := c.tiles.foldl (fun (s : State) u =>
      if u.2.2 = role then s.tileState u.1 u.2.1 (if role = 0 then 2 else 0) else s) s
    s.setCmd id (fun c => { c with tiles := c.tiles.map (fun u => if u.2.2 = role then (u.1, u.2.1, 1) else u) })
  | none => s

/-! ### Transfer records (R296) -/

structure Transfer where
  src    : Nat
  dst    : Nat
  idx    : Nat
  nidx   : Nat
  size   : Nat
  ring   : Option VNum
  ratio  : Nat
  via    : Nat
  follow : Nat
  peer   : Nat
  cnt    : Bool
  loc    : Bool
  sem    : Nat
  score  : Nat
  sdev   : Nat
  sn     : Nat
  deriving DecidableEq, Repr

/-- A transfer record, if it follows the table; `indexed` for GATHER and SCATTER, `remote` for RCOPY. -/
def transferOf (indexed remote : Bool) (bs : List Byte) : Option Transfer :=
  let esz := fieldAt bs 28 1
  let ring := fieldAt bs 29 1
  let peer := fieldAt bs 48 2
  let semf := fieldAt bs 56 1
  let sdev := fieldAt bs 58 2
  let ok := esz < 4 && ring / 16 % 8 = 0 && fieldAt bs 50 6 = 0 && sdev / 1024 % 32 = 0
    && (indexed || (fieldAt bs 16 8 = 0 && fieldAt bs 24 4 = 0))
    && (if remote then peer / 1024 % 32 = 0 else peer = 0)
  if ok then
    some { src := fieldAt bs 0 8, dst := fieldAt bs 8 8, idx := fieldAt bs 16 8, nidx := fieldAt bs 24 4, size := 2 ^ esz,
           ring := if ring / 128 = 1 then some (BitVec.ofNat 4 ring) else none, ratio := fieldAt bs 30 2,
           via := fieldAt bs 32 8, follow := fieldAt bs 40 8, peer := peer, cnt := semf / 64 % 2 = 1, loc := semf / 128 = 1,
           sem := semf % 64, score := fieldAt bs 57 1, sdev := sdev, sn := fieldAt bs 60 4 }
  else none

/-- The semaphore that a record counts; a device id equal to DEVID is this device (R296). -/
def Transfer.count (t : Transfer) (s : State) (src : Option Nat) : Option Count :=
  if t.cnt then
    let dev := t.sdev % 1024
    some { dev := if 32768 ≤ t.sdev ∧ dev ≠ s.link.devid.toNat then some dev else none,
           core := if t.loc then coreOf (src.getD 0) else t.score, sem := t.sem, n := t.sn }
  else none

/-- A request of a command. -/
def cmdReq (master id k pa ea : Nat) (op : AccOp) (st : ReqState) : Req :=
  { master := master, owner := .cmd id k, op := op, pa := pa, split := 40, pa2 := 0, ea := ea, st := st }

def State.addReq (s : State) (r : Req) : State := { s.fresh with reqs := s.reqs.put s.nextId r }

/-- The number of a command's read of the doubleword at `pa` of its records; those of its accesses lie below. -/
def recordKey (pa : Nat) : Nat := 2 ^ 80 + pa

/-- The doublewords of a command's records at a peer that it has not read, each with its virtual address. -/
def State.unread (s : State) (got : Map (Nat × Nat)) (l : List (Nat × Nat)) : List (Nat × Nat) :=
  (l.flatMap (fun x => dwordsOf (spanOf x.1 x.2).1 (spanOf x.1 x.2).2)).filterMap (fun va =>
    match s.reach va .read with
    | some pa => if s.atPeer pa ∧ (got.find? pa).isNone then some (pa, va) else none
    | none => none)

/-- A command whose records lie at a peer reads them first (R405): the state with the reads sent, or none where nothing is missing. -/
def State.askRecords (s : State) (master id : Nat) (got : Map (Nat × Nat)) (l : List (Nat × Nat)) : Option State :=
  match s.unread got l with
  | [] => none
  | ws => some (ws.foldl (fun (s : State) w =>
      if s.reqs.any (fun q => q.2.owner = .cmd id (recordKey w.1)) then s
      else s.addReq (cmdReq master id (recordKey w.1) w.1 w.2 (.read 8) .sent)) s)

/-- The master id of a command's accesses (R418). -/
def Cmd.master (c : Cmd) : Nat := c.src.getD mdMaster

/-- The island whose walker serves a command; the master distributor's own commands use island 0's (log 23). -/
def Cmd.island (c : Cmd) : Nat := islandOf (c.src.getD 0)

/-! ### Rings (R317, R319) -/

def Handle.filled (h : Handle) : Nat := (h.p - h.c).toNat
def Handle.room (h : Handle) : Nat := h.count.toNat - h.filled

/-- The address of byte `b` of the stream that fills a ring whose slots before number `p` are taken. -/
def Handle.place (h : Handle) (slots b : Nat) : Nat :=
  let sz := h.slot.toNat
  h.base.toNat + ((h.p.toNat + (b / sz - slots)) % h.count.toNat) * sz + b % sz

/-! ### Moves -/

def intervalSize (l : List (Nat × Nat)) : Nat := (l.map (fun i => i.2 - i.1)).sum

/-- Take number `j` out of a list of intervals. -/
def takeNth : List (Nat × Nat) → Nat → Option (Nat × List (Nat × Nat))
  | [], _ => none
  | (a, b) :: l, j =>
    if j < b - a then
      some (a + j, (if j = 0 then [] else [(a, a + j)]) ++ (if a + j + 1 = b then [] else [(a + j + 1, b)]) ++ l)
    else (takeNth l (j - (b - a))).map (fun r => (r.1, (a, b) :: r.2))

/-- The elements that may begin: all, or for a ring those of the slot being filled while the ring has room. -/
def Move.open' (m : Move) (h : Option Handle) : List (Nat × Nat) :=
  match h with
  | none => m.todo
  | some h =>
    let per := h.slot.toNat / m.size
    if h.room = 0 then []
    else (m.todo.map (fun i => (max i.1 (m.slots * per), min i.2 ((m.slots + 1) * per)))).filter (fun i => i.1 < i.2)

/-- The ring that a move fills, as the handle of its context. -/
def State.moveRing (s : State) (c : Cmd) (m : Move) : Option Handle :=
  match m.dst, c.src with
  | .ring h, some t => some ((s.ctx t).getH h)
  | _, _ => none

/-- A move whose destination is indexed reads the value once the index is known, so the element stays in `idx` until it is
written; the read is then no longer due. -/
def Move.readsDue (m : Move) : Map Nat := m.idx.filter (fun p => (m.vals.find? p.1).isNone)

/-- The accesses that a move may make next: access 3e reads element e's index, 3e + 1 its value, 3e + 2 writes it. -/
def Move.choices (m : Move) (h : Option Handle) : Nat :=
  m.vals.length + m.readsDue.length + intervalSize (m.open' h)

/-- Choice `j` of the accesses, and the move with a begun element taken out of `todo`. -/
def Move.pick (m : Move) (h : Option Handle) (j : Nat) : Option (Nat × Move) :=
  if j < m.vals.length then (m.vals.keys[j]?).map (fun e => (3 * e + 2, m))
  else if j < m.vals.length + m.readsDue.length then
    (m.readsDue.keys[j - m.vals.length]?).map (fun e => (3 * e + 1, m))
  else
    match takeNth (m.open' h) (j - m.vals.length - m.readsDue.length) with
    | some (e, _) =>
      let todo := m.todo.flatMap (fun i =>
        if i.1 ≤ e ∧ e < i.2 then (if i.1 < e then [(i.1, e)] else []) ++ (if e + 1 < i.2 then [(e + 1, i.2)] else [])
        else [i])
      let k := match m.src, m.dst with
        | .index _ _, _ => 3 * e
        | _, .index _ _ => 3 * e
        | _, _ => 3 * e + 1
      some (k, { m with todo := todo })
    | none => none

/-- An element of a side: a virtual address of this package, or a peer and its address. -/
def Side.addr (x : Side) (m : Move) (h : Option Handle) (e : Nat) : Option Nat × Nat :=
  match x with
  | .pat p => (none, p.addr e)
  | .index base _ => (none, (base + m.idx.getD e 0 * m.size) % 2 ^ 64)
  | .ring _ => (none, (h.map (fun r => r.place m.slots (e * m.size))).getD 0)
  | .peer d p => (some d, p.addr e)

/-- Where the indices lie. -/
def Move.indexBase (m : Move) : Nat :=
  match m.src, m.dst with
  | .index _ i, _ => i
  | _, .index _ i => i
  | _, _ => 0

/-- Access `k` of a move: peer if any, address, bytes, the value if it writes. -/
def Move.accessAt (m : Move) (h : Option Handle) (k : Nat) : Option Nat × Nat × Nat × Option Nat :=
  let e := k / 3
  match k % 3 with
  | 0 => (none, m.indexBase + 4 * e, 4, none)
  | 1 =>
    let a := m.src.addr m h e
    (a.1, a.2, m.size, none)
  | _ =>
    let a := m.dst.addr m h e
    (a.1, a.2, m.size, some (m.vals.getD e 0))

/-- Access `k` of a command's writes: address, bytes and value. -/
def Writes.accessAt (w : Writes) (k : Nat) : Nat × Nat × Nat :=
  if k % 2 = 0 then (w.zeros + w.unit * (k / 2), w.unit, 0)
  else
    let p := (w.later.headD []).getD (k / 2) (0, 0)
    (p.1, 8, p.2)

/-- The access of a command's job. -/
def State.cmdAccess (s : State) (c : Cmd) (k : Nat) : Option Nat × Nat × Nat × Option Nat :=
  match c.job with
  | .move m => m.accessAt (s.moveRing c m) k
  | .write w => (none, (w.accessAt k).1, (w.accessAt k).2.1, some (w.accessAt k).2.2)
  | _ => (none, 0, 0, none)

/-- After access `k` of a move: `v` is its value, or none where it failed. -/
def Move.after (m : Move) (k : Nat) (v : Option Nat) : Move :=
  let e := k / 3
  match k % 3, v with
  | 0, some x => { m with idx := m.idx.put e x }
  | 1, some x =>
    { m with vals := m.vals.put e x,
             idx := match m.dst with
                    | .index _ _ => m.idx
                    | _ => m.idx.drop e }
  | _, _ => { m with idx := m.idx.drop e, vals := m.vals.drop e }

def Writes.after (w : Writes) (k : Nat) : Writes :=
  if k % 2 = 0 then w
  else match w.later with
    | l :: ls =>
      let l := l.eraseIdx (k / 2)
      { w with later := if l.isEmpty then ls else l :: ls }
    | [] => w

end Sys2Proof.Machine
end

