-- ==== Sys2Proof/Machine/Fabric.lean ====
section
/-! DEFINITION. The state of a placed residency in motion: circuits and their branches, output queues, cuts and their
logs, the marks that sources set, and element faults (R149 to R158, R198, R282, R345 to R353, R369, R431). -/

namespace Sys2Proof.Machine

/-! ### Units -/

def Residency.rec' (r : Residency) (u : Nat) : Option Unit' := r.plan.img.units[u]?
def Residency.setUnit (r : Residency) (u : Nat) (x : UnitSt) : Residency := { r with units := r.units.set u x }
def Residency.onUnit (r : Residency) (u : Nat) (f : UnitSt → UnitSt) : Residency := { r with units := modifyAt r.units u f }

def State.putRes (s : State) (rid : Nat) (r : Residency) : State := { s with res := s.res.put rid r }
def State.onRes (s : State) (rid : Nat) (f : Residency → Residency) : State := { s with res := s.res.adjust rid f }

/-- Nothing of the region stands still: no fault, save or stop (R352, R370, R385). -/
def Residency.flowing (r : Residency) : Bool := r.hold = .running && !r.dbg && r.broken.isNone && r.gone

/-- The configuration after this one is due: no source starts a new token (R169). -/
def Residency.ending (r : Residency) : Bool := r.rootDone && decide (r.cfg + 1 < r.images.length)

/-- The depth of an output queue (R154). An AG stream executes no lane operation, and no latency is given for it: its depth is that
of a latency of 0. DESIGN CHOICE: log 98. -/
def Unit'.depth : Unit' → Nat
  | .elem e =>
    match (if e.kind = 2 then none else e.op) with
    | some (o, w) => ((o.timing w).1 + e.ii - 1) / e.ii + 1 + e.oqx
    | none => 1 + e.oqx
  | .rop _ => 0

/-- A unit's accumulator reset value, when CSEL names no input (R114). -/
def accReset (o : LOp) (w : LaneW) : VReg :=
  let x := if w.csel = 4#3 then immToken (operandKind o w 2) w.imm else VReg.zeros
  { x with lm := 0#8 }

/-- A unit at configuration (R114, R122, R123, R155, R162, R163). -/
def UnitCore.init (x : Unit') : UnitCore :=
  { out := [], words := 0, st := VReg.zeros,
    acc := match x with
      | .elem e => (match e.op with
        | some (o, w) => if o.isAcc then accReset o w else { VReg.zeros with lm := 0#8 }
        | none => { VReg.zeros with lm := 0#8 })
      | .rop _ => { VReg.zeros with lm := 0#8 },
    fresh := true, openA := true, openB := true, endA := 0, endB := 0, cnt := 0, pass := false, begun := 0, sticky := 0,
    stalls := Stalls.zero, loop := false, last1 := true, pred := none, outCuts := [0, 0], fires := 0, age := none, outOrd := 0,
    cuts := [0, 0, 0],
    eos := [false, false, false], endedAt := [false, false, false], ended := false, cut := 0, since := 0, bound := false }

/-- No firing is under way. -/
def LaneRun.idle : LaneRun := { next := 0, olds := [], flags := 0 }

def UnitSt.init (x : Unit') : UnitSt :=
  let c := UnitCore.init x
  { core := c, inp := [[], [], []], again := [0, 0, 0], saves := [{ k := 0, core := c, logs := [[], [], []] }], cutTo := 0, buf := [],
    undo := [], run := LaneRun.idle, switched := false }

/-- The generator's state at configuration (R90). -/
def genSeed (seed : Nat) : BitVec 32 := if seed = 0 then 1 else BitVec.ofNat 32 seed

def StreamCore.init (seed : Nat) : StreamCore :=
  { bound := none, issued := 0, tokens := 0, bursts := 0, gen := genSeed seed, active := false, held := [] }

def StreamSt.init (seed : Nat) : StreamSt :=
  let c := StreamCore.init seed
  { cmd := none, core := c, answers := [], entry := none, walking := false, saves := [(0, c)], frozen := false,
    left := none, ends := [], back := [], next := none }

def StoreCore.init : StoreCore :=
  { slots := [], wblock := 0, wtok := 0, wcuts := 0, wprb := false, wpos := [], marks := [], closed := [], rblock := 0, rtok := 0,
    out := [], cut := 0, eos := false, outOrd := 0 }

/-- A branch across `h` sites (R157). -/
def BranchSt.init (h : Nat) : BranchSt := { slack := [], hops := List.replicate (h - 1) none }

/-! ### Circuits -/

/-- The connections from output F (`f`) or the other output of unit `u`, with their numbers. -/
def Residency.outs (r : Residency) (u : Nat) (f : Bool) : List (Nat × Conn) :=
  (r.plan.conns.zipIdx.filter (fun p => p.1.src = u && p.1.fout = f)).map (fun p => (p.2, p.1))

/-- The connection into an input. -/
def Residency.connTo (r : Residency) (u port : Nat) : Option (Nat × Conn) :=
  (r.plan.conns.zipIdx.find? (fun p => p.1.dst = u && p.1.dport = port)).map (fun p => (p.2, p.1))

/-- The store on a connection. -/
def Plan.storeOn (p : Plan) (c : Conn) : Option Nat := p.stores.findIdx? (fun x => x.dst = c.dst && x.dport = c.dport)

def Plan.siteOf (p : Plan) (u : Nat) : Nat × Nat := ((p.img.units[u]?).map Unit'.site).getD (0, 0)

/-- The sites that the producer's part of a connection crosses: to the store's first ME where it has a store (R202). -/
def Plan.hopsOf (p : Plan) (c : Conn) : Nat :=
  match (p.storeOn c).bind (fun j => p.stores[j]?) with
  | some st => dist (p.siteOf c.src) (st.mes.headD (0, 0))
  | none => c.hops

/-- An input can take a word: its register is empty, or, at a writing or scatter stream, its queue of 64, in which the tokens
that wait for their burst or query stand too, has room (R157, R238, R241). -/
def Residency.inputRoom (r : Residency) (u port : Nat) : Bool :=
  let n := ((r.units[u]?).map (fun x => (x.inp.getD port []).length)).getD 0
  let held := ((r.streams.find? u).map (fun st => st.core.held.length)).getD 0
  match r.rec' u with
  | some (.elem e) => if e.kind = 2 ∧ (portDecl e.word).out then n + held < 65 else n < 1
  | _ => n < 1

/-- The end of a connection's producer part can take a word. -/
def Residency.destFree (r : Residency) (c : Conn) : Bool :=
  match r.plan.storeOn c with
  | some j => ((r.stores[j]?).map (·.inp.isEmpty)).getD false
  | none => r.inputRoom c.dst c.dport

/-- A word enters an input. -/
def UnitSt.arrive (x : UnitSt) (port : Nat) (w : ChWord) : UnitSt :=
  { x with inp := modifyAt x.inp port (· ++ [w]) }

def Residency.deliver (r : Residency) (c : Conn) (w : ChWord) : Residency :=
  match r.plan.storeOn c with
  | some j => { r with stores := modifyAt r.stores j (fun x => { x with inp := x.inp ++ [w] }) }
  | none => r.onUnit c.dst (·.arrive c.dport w)

/-- The place after the slack buffer is empty. -/
def BranchSt.nextFree (b : BranchSt) (destFree : Bool) : Bool :=
  match b.hops with
  | [] => destFree
  | h :: _ => h.isNone

/-- A branch has room (R158). A word that WSTEP has left beyond its slack must leave first (R282, R356). -/
def BranchSt.room (b : BranchSt) (slack : Nat) (destFree : Bool) : Bool :=
  b.slack.length < slack || (b.slack.length = slack && b.nextFree destFree)

/-- A word enters a branch that has room; the answer is a word that leaves it into the destination input. -/
def BranchSt.push (b : BranchSt) (slack : Nat) (w : ChWord) : BranchSt × Option ChWord :=
  if b.slack.length < slack then ({ b with slack := b.slack ++ [w] }, none)
  else
    let q := b.slack ++ [w]
    match b.hops with
    | [] => ({ b with slack := q.tail }, q.head?)
    | _ :: hs => ({ slack := q.tail, hops := q.head? :: hs }, none)

/-- The word at place `stage`, 0 the slack buffer and j the hop stage j, moves on where the next place is empty (R157). -/
def BranchSt.hop (b : BranchSt) (stage : Nat) (destFree : Bool) : Option (BranchSt × Option ChWord) :=
  let src := if stage = 0 then b.slack.head? else (b.hops.getD (stage - 1) none)
  let clear (b : BranchSt) : BranchSt :=
    if stage = 0 then { b with slack := b.slack.tail } else { b with hops := b.hops.set (stage - 1) none }
  match src with
  | none => none
  | some w =>
    if stage = b.hops.length then (if destFree then some (clear b, some w) else none)
    else if (b.hops.getD stage none).isNone then
      some ({ clear b with hops := (clear b).hops.set stage (some w) }, none)
    else none

/-- The words on a branch. -/
def BranchSt.load (b : BranchSt) : Nat := b.slack.length + (b.hops.filter Option.isSome).length

/-- Every branch of an output has room; under WSTEP each holds SLACK + 1 words, and no hop stage is used (R356). -/
def Residency.outRoom (r : Residency) (u : Nat) (f : Bool) : Bool :=
  (r.outs u f).all (fun p => ((r.branches[p.1]?).map (fun b =>
    if r.hold = .fault then decide (b.slack.length ≤ p.2.slack)
    else b.room p.2.slack (r.destFree p.2))).getD true)

/-- The word is placed in every branch of an output in one cycle (R158). Under WSTEP it waits in the slack buffer. -/
def Residency.place (r : Residency) (u : Nat) (f : Bool) (w : ChWord) : Residency :=
  (r.outs u f).foldl (fun (r : Residency) p =>
    match r.branches[p.1]? with
    | some b =>
      let x := if r.hold = .fault then ({ b with slack := b.slack ++ [w] }, none) else b.push p.2.slack w
      let r := { r with branches := r.branches.set p.1 x.1 }
      (match x.2 with
       | some v => r.deliver p.2 v
       | none => r)
    | none => r) r

/-! ### Watching (R383, R388) -/

/-- The source kind and number of a unit in a trace record. -/
def Residency.srcKind (r : Residency) (u : Nat) : Nat :=
  match r.rec' u with
  | some (.elem e) => if e.kind = 2 then 64 + (portDecl e.word).stream else 0
  | _ => 32

/-- A watched event on an output of unit `u`: `port` 0 for o, 1 for T, 2 for F. Slots are not evaluated while WSTEP steps
the region. -/
def State.onChannel (s : State) (rid u port evt ord : Nat) (w : ChWord) : State :=
  match s.res.find? rid, w with
  | some r, .tok t =>
    let p := r.plan.siteOf u
    if r.hold ≠ .running then s else s.tokenEvent r.island r.lid u r.ox r.oy p.1 p.2 port (r.srcKind u) evt ord t
  | _, _ => s

/-- A watched event on the output channel of store `j`, whose site is its first ME (R381, R383). -/
def State.onStoreChannel (s : State) (rid j evt ord : Nat) (w : ChWord) : State :=
  match s.res.find? rid, w with
  | some r, .tok t =>
    let m := ((r.plan.stores[j]?).map (fun p => p.mes.headD (0, 0))).getD (0, 0)
    if r.hold ≠ .running then s else s.tokenEvent r.island r.lid (r.units.length + j) r.ox r.oy m.1 m.2 0 160 evt ord t
  | _, _ => s

/-- The port of an output. -/
def Residency.portOf (r : Residency) (u : Nat) (f : Bool) : Nat :=
  match r.rec' u with
  | some (.rop _) => if f then 2 else 1
  | _ => 0

/-- A probe's bubble (R116, R311); no other token has PRB set. -/
def isProbe (t : Token) : Bool := t.prb && t.v.lm == 0#8

/-- A word that counts as a token. -/
def ChWord.isTok : ChWord → Bool
  | .tok t => !isProbe t
  | _ => false

/-- The number of tokens in a list of words. -/
def tokens (l : List ChWord) : Nat := (l.filter ChWord.isTok).length

/-- The events after output queue `old` of unit `u` became the queue of the residency as it stands: its new head, if the
head has changed. -/
def State.headEvent (s : State) (rid u : Nat) (wasEmpty : Bool) : State :=
  match s.res.find? rid with
  | some r =>
    match r.units[u]? with
    | some x =>
      (match x.core.out with
       | w :: _ => if wasEmpty then s.onChannel rid u 0 0 (x.core.outOrd - tokens x.core.out) w else s
       | [] => s)
    | none => s
  | none => s

/-- The head of store `j`'s output queue, if it has just become the head. -/
def State.storeHead (s : State) (rid j : Nat) : State :=
  match (s.res.find? rid).bind (fun r => r.stores[j]?) with
  | some x =>
    (match x.core.out with
     | w :: _ => s.onStoreChannel rid j 0 (x.core.outOrd - tokens x.core.out) w
     | [] => s)
  | none => s

/-- The consumer behind store `j` has consumed a token of its channel. -/
def State.storeEaten (s : State) (rid j : Nat) (w : ChWord) : State :=
  match (s.res.find? rid).bind (fun r => (r.stores[j]?).map (fun x => (r, x))) with
  | some (r, x) =>
    if w.isTok then
      (s.putRes rid { r with stores := r.stores.set j { x with eaten := x.eaten + 1 } }).onStoreChannel rid j 2 x.eaten w
    else s
  | none => s

/-- A token is consumed at the end of connection `i` (R383: CONSUMED at the last destination). -/
def State.consumed (s : State) (rid i : Nat) (w : ChWord) : State :=
  match s.res.find? rid with
  | some r =>
    match r.plan.conns[i]? with
    | some c =>
      if w.isTok then
        (let n := r.eaten.getD i 0
         let r := { r with eaten := r.eaten.set i (n + 1) }
         let s := s.putRes rid r
         if (r.outs c.src c.fout).all (fun p => n < r.eaten.getD p.1 0) then
           s.onChannel rid c.src (r.portOf c.src c.fout) 2 n w
         else s)
      else s
    | none => s
  | none => s

/-- The word consumed at an input is counted at the end of its channel, a store's where the connection has one. -/
def State.eatenAt (s : State) (rid u port : Nat) (w : ChWord) : State :=
  match s.res.find? rid with
  | some r =>
    (match r.connTo u port with
     | some (n, c) =>
       (match r.plan.storeOn c with
        | some j => s.storeEaten rid j w
        | none => s.consumed rid n w)
     | none => s)
  | none => s

/-! ### TOKEN_HOP and FANOUT_TAKE -/

/-- The connection of a route's branch. -/
def Residency.connOf (r : Residency) (route branch : Nat) : Option (Nat × Conn) :=
  (r.plan.conns.zipIdx.find? (fun p => p.1.route = route && p.1.br = branch)).map (fun p => (p.2, p.1))

/-- A token of a branch moves on. The places of a connection with a store go on behind those of its producer's part: the
store's output queue, then the hop stages of its tail. Beside it the store whose output queue a word has left. -/
def Residency.hop (r : Residency) (route branch stage : Nat) : Option (Residency × Option Nat) :=
  match r.connOf route branch with
  | none => none
  | some (i, c) =>
    match r.branches[i]? with
    | none => none
    | some b =>
      if stage ≤ b.hops.length then
        (b.hop stage (r.destFree c)).map (fun x =>
          let r := { r with branches := r.branches.set i x.1 }
          match x.2 with
          | some w => (r.deliver c w, none)
          | none => (r, none))
      else
        match r.plan.storeOn c with
        | none => none
        | some j =>
          match r.stores[j]?, r.units[c.dst]? with
          | some st, some _ =>
            let free := r.inputRoom c.dst c.dport
            let stage := stage - b.hops.length - 1
            let done (st : StoreSt) (w : Option ChWord) (from_ : Option Nat) : Residency × Option Nat :=
              let r := { r with stores := r.stores.set j st }
              match w with
              | some w => (r.onUnit c.dst (·.arrive c.dport w), from_)
              | none => (r, from_)
            if stage = 0 then
              match (if st.tail.slack.isEmpty ∧ !r.halts (r.units.length + j) then st.core.out else []) with
              | w :: ws =>
                if st.tail.room 0 free then
                  let y := st.tail.push 0 w
                  some (done { st with tail := y.1, core := { st.core with out := ws } } y.2 (some j))
                else none
              | [] => (st.tail.hop 0 free).map (fun y => done { st with tail := y.1 } y.2 none)
            else (st.tail.hop stage free).map (fun y => done { st with tail := y.1 } y.2 none)
          | _, _ => none

/-- A word has left the output queue of store `j` of the residency as it was. -/
def State.storeTaken (s : State) (rid j : Nat) (old : Residency) : State :=
  match old.stores[j]? with
  | some x =>
    (match x.core.out with
     | w :: _ => (s.onStoreChannel rid j 1 (x.core.outOrd - tokens x.core.out) w).storeHead rid j
     | [] => s)
  | none => s

def State.tokenHop (s : State) (rid route branch stage : Nat) : Option State :=
  (s.res.find? rid).bind (fun r => (r.hop route branch stage).map (fun x =>
    match x.2 with
    | some j => (s.putRes rid x.1).storeTaken rid j r
    | none => s.putRes rid x.1))

/-- An event of a residency in motion; where it would write records for which the log has no room, it waits (R392). -/
def inMotion (rid : Nat) (f : State → Option State) (s : State) : Out :=
  match s.res.find? rid with
  | some r =>
    if r.flowing then
      match f s with
      | some t => .next (if s.logFits t then t else s)
      | none => .next s
    else .next s
  | none => .next s

/-- An event at unit, store or tree `n` of a residency in motion that no stop has reached (R385). -/
def inMotionAt (rid n : Nat) (f : State → Option State) (s : State) : Out :=
  inMotion rid (fun s => if ((s.res.find? rid).map (fun r => r.halts n)).getD false then none else f s) s

/-! ### Stops (R385) -/

/-- What a stop's marker passes between: two units joined by a circuit, a store and what it is joined to, and the controller tree
and everything (log 101). -/
def Residency.joined (r : Residency) (a b : Nat) : Bool :=
  let n := r.units.length
  let pair (x y : Nat) : Bool := (x = a && y = b) || (x = b && y = a)
  a = r.treeNo || b = r.treeNo || r.plan.conns.any (fun c =>
    match r.plan.storeOn c with
    | some j => pair c.src (n + j) || pair (n + j) c.dst
    | none => pair c.src c.dst)

/-- Everything in the region has taken the marker and finished its firing: the region has stopped. -/
def Residency.standStill (r : Residency) : Residency :=
  if (List.range (r.treeNo + 1)).all r.halts then { r with dbg := true } else r

/-- The marker of a stop comes to unit, store or tree `n` from one that it has reached. -/
def Residency.flood (r : Residency) (n : Nat) : Residency :=
  if r.hold = .running ∧ r.broken.isNone ∧ !r.dbg ∧ r.halted ≠ [] then
    (if r.halted.any (fun m => r.joined m n) then { r with halted := insertNat n r.halted } else r).standStill
  else r

def execTokenHop (rid route branch stage : Nat) (s : State) : Out := inMotion rid (·.tokenHop rid route branch stage) s

/-- The source of a route's circuit. -/
def Residency.routeSource (r : Residency) (route : Nat) : Option Nat :=
  ((r.plan.img.routes[route]?).bind (fun x => r.plan.img.routeSrc x))

/-- The head of unit `u`'s output queue may be taken: by its circuit, or, where the output feeds no route, at once. -/
def Residency.canTake (r : Residency) (u : Nat) : Bool :=
  ((r.units[u]?).map (fun x => !x.core.out.isEmpty)).getD false && r.outRoom u false

/-- The circuit takes the head of an output queue (R154, R158). -/
def State.takeHead (s : State) (rid u : Nat) : State :=
  match s.res.find? rid with
  | some r =>
    match r.units[u]? with
    | some x =>
      (match x.core.out with
       | w :: ws =>
         let n := x.core.outOrd - tokens x.core.out
         let r := (r.setUnit u { x with core := { x.core with out := ws } }).place u false w
         let s := (s.putRes rid r).onChannel rid u 0 1 n w
         s.headEvent rid u true
       | [] => s)
    | none => s
  | none => s

/-- The circuit takes the head of unit `u`'s output queue where it may. -/
def State.takeNow (s : State) (rid u : Nat) : Option State :=
  match s.res.find? rid with
  | some r => if r.canTake u ∧ !r.halts u then some (s.takeHead rid u) else none
  | none => none

def execFanoutTake (rid route : Nat) (s : State) : Out :=
  inMotion rid (fun s => ((s.res.find? rid).bind (fun r => r.routeSource route)).bind (s.takeNow rid)) s

def ChWord.probes : ChWord → Bool
  | .tok t => isProbe t
  | _ => false

/-- The probes on the circuit into input a of unit `u`, behind its store where it has one, and at the input. -/
def Residency.probesAt (r : Residency) (u : Nat) : Nat :=
  let on (l : List ChWord) : Nat := (l.filter ChWord.probes).length
  let part (b : BranchSt) : Nat := on b.slack + on (b.hops.filterMap id)
  on (((r.units[u]?).map (fun x => x.inp.getD 0 [])).getD []) +
    (match r.connTo u 0 with
     | some (i, c) =>
       (match r.plan.storeOn c with
        | some j => ((r.stores[j]?).map (fun x => part x.tail)).getD 0
        | none => ((r.branches[i]?).map part).getD 0)
     | none => 0)

/-- A probe enters the circuit that feeds input a of unit `u`, behind every token on it, where the circuit has room (R282,
R311). -/
def Residency.injectProbe (r : Residency) (u : Nat) : Option Residency :=
  let w : ChWord := .tok { v := { VReg.zeros with lm := 0#8 }, rank := 0, cut := false, prb := true }
  let free := r.inputRoom u 0
  let enter (r : Residency) (x : Option ChWord) : Residency :=
    match x with
    | some w => r.onUnit u (·.arrive 0 w)
    | none => r
  match r.connTo u 0 with
  | none => none
  | some (i, c) =>
    match r.plan.storeOn c with
    | some j =>
      (r.stores[j]?).bind (fun x =>
        if x.core.out.isEmpty ∧ x.tail.room 0 free then
          (let y := x.tail.push 0 w
           some (enter { r with stores := r.stores.set j { x with tail := y.1 } } y.2))
        else none)
    | none =>
      (r.branches[i]?).bind (fun b =>
        if b.room c.slack free then
          (let y := b.push c.slack w
           some (enter { r with branches := r.branches.set i y.1 } y.2))
        else none)

/-- A PROBE of unit `u` whose bubble is not on its way, because the circuit had no room, or a rollback or a restore emptied it
(R353, R375), sends it. -/
def State.sendProbe (s : State) (rid u : Nat) : State :=
  match s.res.find? rid with
  | some r =>
    if r.flowing ∧ r.probesAt u < (s.cmds.filter (fun c => c.2.job = .probe rid u)).length then
      (match r.injectProbe u with
       | some r => s.putRes rid r
       | none => s)
    else s
  | none => s

/-! ### Cuts (R346, R347, R431) -/

/-- Consuming word `w` at input `i`: the count of cuts and EOS of the input. After an EOS a further token opens a new
pass (log 24). -/
def UnitCore.takeWord (c : UnitCore) (i : Nat) (w : ChWord) : UnitCore :=
  let n := c.cuts.getD i 0
  match w with
  | .tok t =>
    if isProbe t then c
    else { c with cuts := if t.cut then c.cuts.set i (n + 1) else c.cuts, eos := c.eos.set i (decide (t.rank = 7)),
                  endedAt := if t.rank = 7 then c.endedAt.set i true else c.endedAt,
                  ended := c.ended || decide (t.rank = 7) }
  | .cutOnly => { c with cuts := c.cuts.set i (n + 1) }
  | .switch => c

/-- Some input has delivered a cut that the unit has not saved. -/
def UnitCore.savesDue (c : UnitCore) : Bool := c.cuts.any (fun n => c.cut < n)

/-- The words consumed from inputs that have not delivered the cut of an open save are logged (R347); every word from a BE's
link, which the sender does not send again (log 27). -/
def UnitSt.logTaken (x : UnitSt) (link : Bool) (taken : List (Nat × ChWord)) : UnitSt :=
  { x with saves := x.saves.map (fun sv => (taken.filter (fun p => !p.2.probes)).foldl (fun (sv : Save) p =>
      if link ∨ x.core.cuts.getD p.1 0 < sv.k then
        { sv with logs := modifyAt sv.logs p.1 (· ++ [p.2]) }
      else sv) sv) }

/-- A log of an input holds a sixteenth token (R347). -/
def UnitSt.overflowed (x : UnitSt) : Bool := x.saves.any (fun sv => sv.logs.any (fun l => 15 < tokens l))

/-- The heads of the inputs in `ports` are consumed. -/
def UnitSt.consume (x : UnitSt) (link : Bool) (ports : List Nat) : UnitSt :=
  let taken := ports.filterMap (fun i => ((x.inp.getD i []).head?).map (fun w => (i, w)))
  let y := x.logTaken link taken
  { y with core := taken.foldl (fun c p => c.takeWord p.1 p.2) y.core,
           inp := ports.foldl (fun l i => modifyAt l i List.tail) y.inp,
           again := ports.foldl (fun l i => modifyAt l i (· - 1)) y.again }

/-- The unit saves its next cut, its output queue and pipeline with it (R347, R348). -/
def UnitSt.save (x : UnitSt) : UnitSt :=
  let core := { x.core with cut := x.core.cut + 1 }
  { x with core := core, saves := x.saves ++ [{ k := core.cut, core := core, logs := [[], [], []] }] }

/-- A unit whose next firing saves a cut holds while the cut before is not complete (R347). -/
def Residency.mayCut (r : Residency) (c : UnitCore) : Bool := c.cut ≤ r.cut

/-- A word enters the output queue. -/
def UnitCore.put (c : UnitCore) (w : ChWord) : UnitCore :=
  { c with out := c.out ++ [w], words := c.words + 1, outOrd := c.outOrd + (if w.isTok then 1 else 0) }

/-- The marker that a firing's result carries: `cut` only where the firing saves a cut (R347). -/
def UnitSt.emit (x : UnitSt) (hasOut : Bool) (res : Option Token) (saves : Bool) : UnitSt :=
  let put (c : UnitCore) (w : ChWord) : UnitCore := if hasOut then c.put w else c
  match res with
  | some t =>
    let t := { t with cut := saves }
    { x with core := put { x.core with st := t.v } (.tok t) }
  | none => if saves then { x with core := put x.core .cutOnly } else x

/-- The last cut that a unit of the region has saved. -/
def Residency.top (r : Residency) : Nat := r.units.foldl (fun m y => max m y.core.cut) r.cut

/-- Before its next pass a source saves a cut that the region has begun meanwhile, which travels as a cut-only word (log
24). -/
def Residency.caughtUp (r : Residency) (u : Nat) (x : UnitSt) : UnitSt :=
  let hasOut := !(r.outs u false).isEmpty
  (List.range (r.top - x.core.cut)).foldl (fun (x : UnitSt) _ =>
    ({ x with core := { x.core with bound := true } }.emit hasOut none true).save) x

/-! ### Sources (R122, R173, R180, R346, R369) -/

/-- A source of a region: an AG stream that reads a pattern, a CNT element, or a BE that receives from its link. A lookup
stream takes its cuts from its queries, so it is none (log 25). -/
def Residency.isSource (r : Residency) (u : Nat) : Bool :=
  match r.rec' u with
  | some (.elem e) =>
    if e.kind = 2 then !(portDecl e.word).out && !r.plan.img.isLookup u
    else if e.kind = 3 then !e.ldir
    else match e.op with
      | some (o, w) => o = .cnt || (o ≠ .panq && (inputSels o w).isEmpty)
      | none => false
  | _ => false

/-- A sink of a region (R218). -/
def Residency.isSink (r : Residency) (u : Nat) : Bool :=
  match r.rec' u with
  | some (.elem e) =>
    if e.kind = 2 then (portDecl e.word).out || (r.outs u false).isEmpty
    else if e.kind = 3 then e.ldir || (r.outs u false).isEmpty
    else e.op.isSome && (r.outs u false).isEmpty
  | some (.rop o) => (r.outs u false).isEmpty || (o.op = 0 && (r.outs u true).isEmpty)
  | none => false

/-- A source sets CUT on a token with END `rank` (R346, R369); an EOS closes a window (log 24). A pre-emption asks for one boundary cut, and for another only
where a cut that is complete was none. -/
def Residency.cutDue (r : Residency) (x : UnitSt) (rank : Nat) : Bool :=
  x.core.cut < x.cutTo || rank = 7 ||
    (if r.preReq then (r.plan.img.prank ≤ rank || rank = 7) && !(x.core.bound && decide (r.cut < x.core.cut))
     else x.core.since + 1 = r.plan.img.mper)

/-- A source emits a token. -/
def Residency.sourceEmit (r : Residency) (u : Nat) (x : UnitSt) (t : Token) : Residency :=
  let hasOut := !(r.outs u false).isEmpty
  if r.cutDue x t.rank then
    let b := decide (r.plan.img.prank ≤ t.rank ∨ t.rank = 7)
    r.setUnit u (({ x with core := { x.core with since := 0, bound := b } }.emit hasOut (some t) true).save)
  else r.setUnit u ({ x with core := { x.core with since := x.core.since + 1 } }.emit hasOut (some t) false)

/-- A source may emit a token with END `rank`. -/
def Residency.sourceMay (r : Residency) (x : UnitSt) (rank : Nat) : Bool := !r.cutDue x rank || r.mayCut x.core

/-- A cut is asked of every source of a region (R310, R349). -/
def Residency.askCut (r : Residency) : Residency :=
  { r with units := r.units.zipIdx.map (fun p => if r.isSource p.2 then { p.1 with cutTo := r.top + 1 } else p.1) }

/-- Sink `u` with a full window buffer asks for a cut, once for each. -/
def Residency.fullCut (r : Residency) (u : Nat) : Residency :=
  (r.onUnit u (fun x => { x with cutTo := r.top + 1 })).askCut

/-- A sink that has asked for a cut stalls while entries of complete windows are still in its buffer (R349, log 89). -/
def Residency.draining (r : Residency) (x : UnitSt) : Bool :=
  decide (x.core.cut < x.cutTo) && (x.buf.any (fun e => e.win ≤ r.cut) || x.undo.any (fun d => d.win ≤ r.cut))

/-- The gos that a leaf's unit has been given since the configuration started: one for a unit that no leaf names (R165,
R166). -/
def Residency.gosFor (r : Residency) (u : Nat) : Nat :=
  let leaf := r.plan.img.ctls.find? (fun c => c.type = 3 && r.plan.img.elemAt c.lx c.ly c.lstr = some u)
  match leaf with
  | none => 1
  | some c =>
    if c.node = 0 then 1
    else
      let kids := ((r.plan.img.ctls.filter (fun d => d.parent = c.parent && d.node ≠ 0)).map (·.node))
      let i := (kids.filter (· < c.node)).length
      ((r.nodes.find? c.parent).map (fun n => n.started.getD i 0)).getD 0

/-- The gos of a leaf's unit in the whole configuration: the iterations of every node above it (R165). -/
def Image.totalGos (im : Image) (n : Nat) : Nat :=
  ((List.range 32).foldl (fun (a : Nat × Nat) _ =>
    match im.ctls.find? (fun c => c.node = a.1) with
    | some c => if a.1 = 0 then a else (c.parent, a.2 * ((im.ctls.find? (fun d => d.node = c.parent)).map (·.iter)).getD 1)
    | none => a) (n, 1)).2

/-- The gos that a unit is given in all. -/
def Residency.lastGo (r : Residency) (u : Nat) : Nat :=
  match r.plan.img.ctls.find? (fun c => c.type = 3 && r.plan.img.elemAt c.lx c.ly c.lstr = some u) with
  | some c => r.plan.img.totalGos c.node
  | none => 1

/-- No leaf names the unit. -/
def Residency.loose (r : Residency) (u : Nat) : Bool :=
  !r.plan.img.ctls.any (fun c => c.type = 3 && r.plan.img.elemAt c.lx c.ly c.lstr = some u)

/-! ### Faults (R345, R352) -/

/-- A KIND 1 record of an element fault; `port` is the input of a parity fault, otherwise 0. -/
def Residency.faultRecord (r : Residency) (u why port : Nat) (flags : Flags) (firing token : Nat) : PendRec :=
  let p := r.plan.siteOf u
  { body := layout 96 [(0, 4, r.lid), (4, 1, 1), (5, 1, why), (6, 1, r.island), (7, 1, r.cfg), (8, 4, r.iter % 2 ^ 32),
      (12, 1, p.1), (13, 1, p.2), (14, 1, port), (15, 1, flags.toNat), (16, 8, r.cut + 1), (24, 4, firing),
      (28, 8, token % 2 ^ 48)], cls := 1, cause := 6, owner := r.owner, rid := some r.lid, kind := 1, stream := 0 }

/-- The ordinal of unit `x`'s next firing within the open window. -/
def UnitSt.firing (x : UnitSt) (cut : Nat) : Nat :=
  x.core.fires - ((x.saves.find? (fun sv => sv.k = cut)).map (fun sv => sv.core.fires)).getD 0

/-- Unit `u` reports an element fault: no unit fires until the region has rolled back (R352). -/
def Residency.elementFault (r : Residency) (u why port : Nat) (flags : Flags) : Residency :=
  match r.units[u]? with
  | some x =>
    { r with broken := some (r.faultRecord u why port flags (x.firing r.cut) x.core.outOrd) }
  | none => r

/-- A site reports WHY 2 or 3 (R361). -/
def State.siteReport (s : State) (rid u : Nat) : State :=
  match s.res.find? rid with
  | some r =>
    let p := r.plan.siteOf u
    let k := 4096 * r.island + 64 * (r.ox + p.1) + (r.oy + p.2)
    { s with reports := s.reports.put k (((s.reports.getD k []) ++ [s.cy]).drop ((s.reports.getD k []).length - 2)) }
  | none => s

end Sys2Proof.Machine
end

