-- ==== Sys2Proof/Machine/Firing.lean ====
section
/-! DEFINITION. One firing of an element: its readiness, its operation, its markers and its effects (R95, R98 to R101,
R114 to R116, R121 to R127, R149, R152, R154, R155, R311, R346, R347, R396, R431, R432). -/

namespace Sys2Proof.Machine

/-! ### Inputs -/

/-- The inputs that a firing reads (R95, R114); KMERGE's are in `kmergeSides`. A BE that receives reads its link, at input a; one that
sends reads what its PASS names (log 99). -/
def firingReads (o : LOp) (w : LaneW) (e : ElemRec) (c : UnitCore) : List Nat :=
  if e.kind = 3 ∧ (!e.ldir ∨ (inputSels o w).isEmpty) then [0]
  else
    let sels := inputSels o w
    let sels := if o.isAcc ∧ !c.fresh then sels.filter (fun p => p.1 = 0) else sels
    (sels.map (·.2)).eraseDups

/-- The token at the head of an input. -/
def UnitSt.head (x : UnitSt) (i : Nat) : Option Token :=
  match x.inp.getD i [] with
  | .tok t :: _ => some t
  | _ => none

def UnitSt.reg (x : UnitSt) (i : Nat) : VReg := ((x.head i).map (·.v)).getD { VReg.zeros with lm := 0#8 }

/-- The END of a result: the largest among the tokens consumed (R101). -/
def endOf (ts : List Token) : Nat := ts.foldl (fun m t => max m t.rank) 0

/-! ### BE links (R149, R396) -/

/-- The BE joined to the BE at (x, y) of an island. -/
def beLink (isl x y : Nat) : Nat × Nat × Nat :=
  let d := isl / 16
  let row := isl % 16 / 4
  let c := isl % 4
  if x = 0 then (if c = 0 then ((d + 3) % 4 * 16 + row * 4 + 3, 39, y) else (isl - 1, 39, y))
  else (if c = 3 then ((d + 1) % 4 * 16 + row * 4, 0, y) else (isl + 1, 0, y))

/-- The receiving BE of a placed residency at a site. -/
def State.beAt (s : State) (isl x y : Nat) : Option (Nat × Nat) :=
  match s.holder isl x y with
  | some (rid, r) =>
    match r.elemOn x y with
    | some u => match r.plan.img.elems[u]? with
      | some e => if e.kind = 3 ∧ !e.ldir then some (rid, u) else none
      | none => none
    | none => none
  | none => none

/-- The BE that a sending BE's token goes to, if it can take one. -/
def State.linkFree (s : State) (r : Residency) (e : ElemRec) : Option (Nat × Nat) :=
  let l := beLink r.island (r.ox + e.x) (r.oy + e.y)
  match s.beAt l.1 l.2.1 l.2.2 with
  | some (rid, u) =>
    match (s.res.find? rid).bind (fun q => q.units[u]?) with
    | some x => if (x.inp.getD 0 []).isEmpty then some (rid, u) else none
    | none => none
  | none => none

/-! ### Operations -/

/-- What an element's operation gives. -/
structure Fired where
  /-- The result, with END and PRB set, and whether it is emitted. -/
  res   : Option Token
  flags : Flags
  /-- The unit's state after the firing, its inputs and cuts apart. -/
  core  : UnitCore
  /-- The state to which a probe is answered (R116). -/
  probe : Option VReg
  undo  : List Undo
  flights : List Flight

def Fired.plain (c : UnitCore) (t : Token) (fl : Flags) : Fired :=
  { res := some t, flags := fl, core := c, probe := none, undo := [], flights := [] }

/-- The rounding mode of an element: RND 7 means RNE (R98). -/
def elemMode (w : LaneW) : Num.RMode := Num.RMode.ofCode (if w.rnd = 7#3 then 0 else w.rnd.toNat)

/-- An accumulator's firing (R114 to R116). END and PRB are those of the token that ASEL names; of no other token are they
read. -/
def fireAcc (o : LOp) (w : LaneW) (x : UnitSt) (c : UnitCore) : Fired :=
  let aPort := (inputSels o w).find? (fun p => p.1 = 0)
  let t := ((aPort.bind (fun p => x.head p.2))).getD { v := VReg.zeros, rank := 0, cut := false, prb := false }
  let s0 := if c.fresh then
      (match (inputSels o w).find? (fun p => p.1 = 2) with
       | some p => { x.reg p.2 with lm := 0#8 }
       | none => c.acc)
    else c.acc
  let a := operand o w 0 w.asel x.reg c.st
  let r := accumulate o (elemMode w) a.act s0 a.v
  let m := s0.lm ||| (if o = .accd then pairMask a.act else a.act)
  let acc := { r.1 with lm := m }
  let k := w.emit.toNat
  let e := t.rank
  let emits := k ≠ 0 && (if k = 7 then e = 7 else k ≤ e)
  let rank := if e = 7 then 7 else if k < e then e - k else 0
  let again := emits || t.prb
  { res := if emits then some { v := acc, rank := rank, cut := false, prb := false } else none, flags := r.2,
    core := { c with acc := if again then accReset o w else acc, fresh := again },
    probe := if t.prb then some acc else none, undo := [], flights := [] }

/-- The indices of CNT at a position (R122). -/
def cntIndices (ext : List Nat) (k : Nat) : List Nat :=
  match ext with
  | [] => []
  | e :: es => k % e :: cntIndices es (k / e)

/-- CNT's token at a position, innermost level first. -/
def cntAt (w : LaneW) (k : Nat) : Token :=
  let ext := cntExtents w
  let last := decide (k + 1 = prod ext)
  { v := cntToken (cntIndices ext k), rank := if last ∧ w.emit = 1#3 then 7 else endRank ext k, cut := false, prb := false }

def fireCnt (w : LaneW) (c : UnitCore) : Fired :=
  let k := if c.pass then c.cnt else 0
  let last := decide (k + 1 = prod (cntExtents w))
  let c := { c with cnt := if last then 0 else k + 1, pass := !last, begun := if c.pass then c.begun else c.begun + 1 }
  Fired.plain c (cntAt w k) 0

/-- The open sides of a KMERGE and the inputs they name. -/
def kmergeSides (w : LaneW) (c : UnitCore) : List (Nat × Nat) :=
  (inputSels .kmerge w).filter (fun p => if p.1 = 0 then c.openA else c.openB)

/-- The side that a KMERGE takes from, once every open side has a token (R123). -/
def kmergeTakes (w : LaneW) (x : UnitSt) : Option (Nat × Nat) :=
  let sides := kmergeSides w x.core
  if sides.all (fun p => (x.head p.2).isSome) then
    match sides with
    | [p] => some p
    | [a, b] =>
      if (x.reg a.2).lm = 0#8 then some a
      else if kmergeTakesB (w.fmt == 3) (x.reg a.2) (x.reg b.2) ∨ (x.reg b.2).lm = 0#8 then some b
      else some a
    | _ => none
  else none

def fireKmerge (side : Nat) (t : Token) (c : UnitCore) : Fired :=
  let a := side = 0
  let closes := 1 ≤ t.rank
  let c := if !closes then c
    else if a then { c with openA := false, endA := t.rank } else { c with openB := false, endB := t.rank }
  let both := closes && !c.openA && !c.openB
  let bubble := t.v.lm = 0#8
  let rank := if both then max c.endA c.endB else 0
  { res := if both ∨ !bubble then some { t with rank := rank, cut := false } else none, flags := 0,
    core := if both then { c with openA := true, openB := true } else c, probe := none, undo := [], flights := [] }

/-- A site of a residency as the requester of an update, in a record (R389). -/
def Residency.siteWho (r : Residency) (x y : Nat) : Nat := 2 ^ 24 + chanField r.island (r.ox + x) (r.oy + y) 0

/-- The number of the ME at a site of a residency. -/
def Residency.meAt (r : Residency) (x y : Nat) : Nat := r.island * 384 + meIndex (r.ox + x) (r.oy + y)

/-- The address of the table entry that lane `i` names (R124). -/
def lutAddr (me : Nat) (t : Tile) (a : Opd) (i : Nat) : Nat := meBase me + t.base.toNat * 64 + 8 * (i32 (a.v.lane i)).toNat

/-- The entries that a lookup reads are corrected (R230). -/
def State.lutMend (s : State) (me : Nat) (t : Tile) (a : Opd) : State :=
  (List.range 8).foldl (fun (s : State) i =>
    if a.act.getLsbD i && decide ((i32 (a.v.lane i)).toNat < t.size.toNat * 8) then s.corrected (lutAddr me t a i) 8 else s) s

/-- A table lookup of master `m` (R124); what an entry that it may not read gives is free, as for one that is uncorrectable (R418,
log 26). -/
def State.lutLanes (s : State) (m me : Nat) (t : Tile) (a : Opd) : VReg :=
  let n := t.size.toNat * 8
  let at' (i : Nat) : Nat := lutAddr me t a i
  let hit (i : Nat) : Bool := (i32 (a.v.lane i)).toNat < n
  VReg.build (fun i =>
      if !a.act.getLsbD i then a.v.lane i
      else if !hit i then 0#36
      else if s.isBad (at' i) 8 ∨ !s.accepts m (at' i) .read then (Config.badWord s.tick (at' i)).setWidth 36
      else BitVec.ofNat 36 (s.readMem (at' i) 8))
    (mask8 (fun i => a.act.getLsbD i && hit i))

/-- One lane of a read-modify-write firing of master `m` (R125, R126): memory, output lane and whether it was updated, flags, undo. A
lane that the ME's table refuses is skipped (R418, log 26). `seen` says that watch slots are evaluated (R383). -/
def State.rmwLane (s : State) (seen : Bool) (m who me win : Nat) (o : LOp) (w : LaneW) (a b : Lane) : State × Option Lane × Flags × List Undo :=
  let n := rmwBytes o w.fmt.toNat
  let off := (a.extractLsb' 0 17).toNat
  let pa := meBase me + off
  if a.extractLsb' 17 19 ≠ 0#19 ∨ off % n ≠ 0 ∨ !s.accepts m pa .atomic then (s, none, 0#5, [])
  else if s.isBad pa n then (s, none, Num.nv, [])
  else
    let undo : Undo := { win := win, word := pa / 8, old := s.readMem (pa / 8 * 8) 8, full := s.isFull pa }
    let s := (if seen then s.atomicEvent me who pa else s).arrive me
    let x := s.update o w.fmt.toNat (elemMode w) pa b (w.param.getLsbD 0)
    (x.1, some x.2.1, x.2.2, [undo])

/-- The active lanes of a firing that its run has not reached. -/
def LaneRun.left (k : LaneRun) (act : BitVec 8) : BitVec 8 := mask8 (fun i => act.getLsbD i && decide (k.next ≤ i))

/-- The lanes of a read-modify-write firing from the run's next on, up to before lane `stop`, one after the other. -/
def State.rmwLanes (s : State) (seen : Bool) (m who me win : Nat) (o : LOp) (w : LaneW) (act : BitVec 8) (a b : VReg) (k : LaneRun) (stop : Nat) :
    State × LaneRun × List Undo :=
  (List.range (stop - k.next)).foldl (fun (acc : State × LaneRun × List Undo) _ =>
    let (s, k, undo) := acc
    if act.getLsbD k.next then
      let x := s.rmwLane seen m who me win o w (a.lane k.next) (b.lane k.next)
      (x.1, { next := k.next + 1, olds := k.olds ++ [x.2.1], flags := k.flags ||| x.2.2.1 }, undo ++ x.2.2.2)
    else (s, { k with next := k.next + 1, olds := k.olds ++ [none] }, undo)) (s, k, [])

/-- The result of a read-modify-write firing whose lanes have all been updated (R125). -/
def LaneRun.result (k : LaneRun) (act : BitVec 8) (a : VReg) : VReg :=
  VReg.build (fun i => if act.getLsbD i then ((k.olds.getD i none).getD 0#36) else a.lane i)
    (mask8 (fun i => act.getLsbD i && (k.olds.getD i none).isSome))

/-- The entries that a PANQ firing forms, with their pans (R127). -/
def panqEntries (v : VReg) : List (Nat × PanWord) :=
  let one (b : Nat) : List (Nat × PanWord) :=
    if v.lm.getLsbD b then
      [((i32 (v.lane b)).toNat, (0#20 ++ v.lane (b + 3) ++ (v.lane (b + 2)).setWidth 8 ++ i32 (v.lane (b + 1)) : PanWord))]
    else []
  one 0 ++ one 4

def firePanq (s : State) (rid u : Nat) (t : Token) (c : UnitCore) : Fired :=
  let es := panqEntries t.v
  let good (e : Nat × PanWord) : Bool := e.1 < 4096 && (s.pans.find? e.1).isSome
  { res := none, flags := if es.all good then 0 else Num.nv, core := c, probe := none, undo := [],
    flights := (es.filter good).map (fun e => { pan := e.1, word := e.2, rid := rid, unit := u }) }

/-- Any other operation: the markers of R101 on its result. -/
def fireLane (o : LOp) (w : LaneW) (x : UnitSt) (c : UnitCore) (ts : List Token) : Fired :=
  let opd (pos : Nat) (sel : BitVec 3) : Opd := operand o w pos sel x.reg c.st
  let r := laneOp o w (elemMode w) (opd 0 w.asel) (opd 1 w.bsel) (opd 2 w.csel) VReg.zeros VReg.zeros
  Fired.plain c { v := r.1, rank := endOf ts, cut := false, prb := ts.any (·.prb) } r.2

/-! ### The firing -/

/-- The operation that element record `u` executes in the fabric. -/
def Residency.opOf (r : Residency) (u : Nat) : Option (ElemRec × LOp × LaneW) :=
  match r.plan.img.elems[u]? with
  | some e => if e.kind = 2 then none else e.op.map (fun p => (e, p.1, p.2))
  | none => none

/-- A 32-bit counter that saturates. -/
def addSat (a : BitVec 32) (n : Nat) : BitVec 32 := BitVec.ofNat 32 (min (2 ^ 32 - 1) (a.toNat + n))

/-- The stall counters after firing number `ord` of a configuration, whose interval ran `excess` cycles past the II. The first
firing closes no interval (R387). -/
def Stalls.fired (x : Stalls) (sce : Bool) (ord excess : Nat) : Stalls :=
  if !sce then { x with fires := x.fires + 1 }
  else if ord = 0 then { x with fires := x.fires + 1, extra := [0, 0, 0, 0] }
  else
    let more := decide (x.worst.toNat < excess)
    { x with
      excess := (x.excess.zip x.extra).map (fun p => addSat p.1 p.2), extra := [0, 0, 0, 0], fires := x.fires + 1,
      worst := if more then addSat 0 excess else x.worst, wfir := if more then BitVec.ofNat 32 ord else x.wfir }

/-- `n` cycles in which an element could not fire though its II had passed, with what it lacks: an input, or 3 for room in its
output queue (R155). -/
def Stalls.stalled (x : Stalls) (n : Nat) : Option Nat → Stalls
  | none => x
  | some 3 => { x with full := addSat x.full n, extra := modifyAt x.extra 3 (· + n) }
  | some i => { x with empty := addSat x.empty n, blame := BitVec.ofNat 2 i, extra := modifyAt x.extra i (· + n) }

/-- The inputs that the next firing of an element reads, in the order a, b, c. -/
def readsNext (o : LOp) (w : LaneW) (e : ElemRec) (c : UnitCore) : List Nat :=
  sortBy id (if o = .cnt then [] else if o = .kmerge then (kmergeSides w c).map (·.2) else firingReads o w e c)

/-- What an element lacks: the first empty input in the order a, b, c, else room in its output queue (R155). -/
def Residency.lacks (r : Residency) (u : Nat) (x : UnitSt) : Option Nat :=
  match r.opOf u with
  | some (e, o, w) =>
    match (readsNext o w e x.core).find? (fun i => (x.head i).isNone) with
    | some i => some i
    | none => if (Unit'.elem e).depth ≤ x.core.out.length then some 3 else none
  | none => none

/-- The counters of an element still run: it has not consumed EOS on every input that it reads, or, for CNT, not emitted its
last token (R155). -/
def Residency.counting (r : Residency) (u : Nat) (x : UnitSt) : Bool :=
  match r.opOf u with
  | some (_, .cnt, _) => x.core.pass || x.core.begun < r.lastGo u
  | some _ => !(r.plan.img.reads u).all (fun i => x.core.endedAt.getD i false)
  | none => false

/-- `n` cycles pass for a region in motion (R152, R155, R387). -/
def Residency.elapse (r : Residency) (n : Nat) : Residency :=
  { r with units := r.units.zipIdx.map (fun p =>
      let x := p.1
      let core := { x.core with age := x.core.age.map (· + n) }
      match r.rec' p.2 with
      | some (.elem e) =>
        let late := match x.core.age with
          | some a => n - (e.ii - a)
          | none => n
        if r.halts p.2 then x
        else if e.sce ∧ 0 < late ∧ r.counting p.2 x then
          { x with core := { core with stalls := core.stalls.stalled late (r.lacks p.2 x) } }
        else { x with core := core }
      | _ => { x with core := core }) }

/-- A firing may begin: II cycles have passed since the last one (R152); under WSTEP the II is ignored (R356). -/
def Residency.iiPassed (r : Residency) (e : ElemRec) (x : UnitSt) : Bool :=
  r.hold = .fault || (match x.core.age with
    | some a => e.ii ≤ a
    | none => true)

/-- The inputs that the unit consumes if it fires now; none where R152 forbids it. -/
def State.firePorts (s : State) (r : Residency) (u : Nat) (o : LOp) (w : LaneW) (e : ElemRec) (x : UnitSt) : Option (List Nat) :=
  if x.switched ∨ !r.iiPassed e x ∨ (r.isSource u ∧ r.ending) then none
  else if o = .cnt then
    let k := if x.core.pass then x.core.cnt else 0
    if (x.core.pass || x.core.begun < r.gosFor u) && r.sourceMay x (cntAt w k).rank then some [] else none
  else if o = .kmerge then (kmergeTakes w x).map (fun p => [p.2])
  else
    let ports := firingReads o w e x.core
    if !ports.all (fun i => (x.head i).isSome) then none
    else
      let ok : Bool := match o with
        | .lut => (s.tile (r.meAt e.x e.y) (w.param.toNat % 16)).defd
            && (s.tile (r.meAt e.x e.y) (w.param.toNat % 16)).st = 2#2
        | .panq => !s.flights.any (fun f => f.2.rid = r.lid && f.2.unit = u)
        | .pass => e.kind ≠ 3 || (if e.ldir then (s.linkFree r e).isSome
            else r.sourceMay x (((x.head 0).map (·.rank)).getD 0))
        | _ => true
      if ok then some ports else none

/-- The window-buffer entries that a read-modify-write firing still needs beside those in use (R349). -/
def rmwFull (x : UnitSt) (act : BitVec 8) : Bool := 4096 < 2 * x.undo.length + 2 * popc ((x.run.left act).setWidth 64)

/-- The lanes of unit `x`'s read-modify-write firing up to before lane `stop`. -/
def State.rmwRun (s : State) (r : Residency) (o : LOp) (w : LaneW) (e : ElemRec) (x : UnitSt) (stop : Nat) : State × LaneRun × List Undo :=
  let a := operand o w 0 w.asel x.reg x.core.st
  let b := operand o w 1 w.bsel x.reg x.core.st
  s.rmwLanes (r.hold ≠ .fault) (resMaster r.lid) (r.siteWho e.x e.y) (r.meAt e.x e.y) (x.core.cut + 1) o w (a.act &&& b.act) a.v b.v x.run stop

/-- The operation of a firing, with its memory effects (a trial where its flags fault). -/
def State.fireOp (s : State) (r : Residency) (u : Nat) (o : LOp) (w : LaneW) (e : ElemRec) (x : UnitSt) (ports : List Nat) :
    State × Fired :=
  let c := x.core
  let ts := ports.filterMap x.head
  match o with
  | .cnt => (s, fireCnt w c)
  | .kmerge =>
    (match kmergeTakes w x with
     | some p => (s, fireKmerge p.1 ((x.head p.2).getD { v := VReg.zeros, rank := 0, cut := false, prb := false }) c)
     | none => (s, Fired.plain c { v := VReg.zeros, rank := 0, cut := false, prb := false } 0))
  | .panq => (s, firePanq s r.lid u ((x.head 0).getD { v := VReg.zeros, rank := 0, cut := false, prb := false }) c)
  | .lut =>
    let me := r.meAt e.x e.y
    let a := operand o w 0 w.asel x.reg c.st
    let t := s.tile me (w.param.toNat % 16)
    let v := s.lutLanes (resMaster r.lid) me t a
    (s.lutMend me t a, Fired.plain c { v := v, rank := endOf ts, cut := false, prb := ts.any (·.prb) } 0)
  | _ =>
    if o.isAcc then (s, fireAcc o w x c)
    else if o.isRmw then
      let a := operand o w 0 w.asel x.reg c.st
      let b := operand o w 1 w.bsel x.reg c.st
      let y := s.rmwRun r o w e x 8
      (y.1, { res := some { v := y.2.1.result (a.act &&& b.act) a.v, rank := endOf ts, cut := false, prb := ts.any (·.prb) },
              flags := y.2.1.flags, core := c, probe := none, undo := y.2.2, flights := [] })
    else (s, fireLane o w x c ts)

/-- The state returns to the probe's issuer, and the oldest PROBE of the unit completes (R311). -/
def State.answerProbe (s : State) (rid u : Nat) (v : VReg) : State :=
  match List.find? (fun c => c.2.job = .probe rid u) s.cmds with
  | some (id, c) =>
    let s := s.cmdDone id
    match c.instr, c.src with
    | .probe _ _ _ _ _ vd, some t => s.setCtx t ((s.ctx t).setV vd v)
    | _, _ => s
  | none => s

/-- The result of trying to fire a unit. -/
inductive Tried where
  /-- It cannot fire (R152). -/
  | no
  /-- A read-modify-write element whose window buffer is full asks for a cut (R349). -/
  | full
  /-- A cut log of it overflows (R347). -/
  | overflow
  /-- An enabled flag: the firing has no effect (R85, R352). -/
  | fault (fl : Flags)
  | done (s : State) (fl : Flags)

/-- Try to fire element `u` of residency `rid`. `free` says that its output has room. -/
def State.tryFire (s : State) (rid u : Nat) (o : LOp) (w : LaneW) (free : Bool) : Tried :=
  match s.res.find? rid with
  | none => .no
  | some r =>
    match r.units[u]?, r.opOf u with
    | some x0, some (e, o', w') =>
      let opens := (o = .cnt ∧ !x0.core.pass) ∨ (e.kind = 3 ∧ !e.ldir ∧ x0.core.eos.getD 0 false)
      let x := if opens then r.caughtUp u x0 else x0
      if o' ≠ o ∨ w' ≠ w ∨ !free then .no
      else match s.firePorts r u o w e x with
        | none => .no
        | some ports =>
          let link := e.kind = 3 && !e.ldir
          let y := x.consume link ports
          let a := operand o w 0 w.asel x.reg x.core.st
          let saves := !link && y.core.savesDue
          if saves ∧ !r.mayCut x.core then .no
          else if o.isRmw ∧ r.hold ≠ .fault ∧ r.draining x then .no
          else if o.isRmw ∧ rmwFull x a.act then (if x.core.cut < x.cutTo then .no else .full)
          else if !link ∧ y.overflowed then .overflow
          else
            let (s1, f) := s.fireOp r u o w e x ports
            let r := (s1.res.find? rid).getD r
            let hit := if r.masked.isSome then 0#5 else trapped w f.flags
            if hit ≠ 0#5 then .fault f.flags
            else
              let core := { f.core with cuts := y.core.cuts, eos := y.core.eos, endedAt := y.core.endedAt, ended := y.core.ended, sticky := x.core.sticky ||| f.flags,
                                        fires := x.core.fires + 1, age := some 0,
                                        stalls := x.core.stalls.fired e.sce x.core.fires (x.core.age.getD 0 - e.ii) }
              let y := { y with core := core, undo := x.undo ++ f.undo, run := LaneRun.idle }
              let hasOut := !(r.outs u false).isEmpty
              let src := r.isSource u
              let res := if src then f.res.map (fun t => { t with prb := false }) else f.res
              let r1 := match src, res with
                | true, some t => r.sourceEmit u y t
                | _, _ =>
                  let z := y.emit hasOut res saves
                  r.setUnit u (if saves then z.save else z)
              let s2 := (s1.putRes rid r1)
              let s2 := ports.foldl (fun (s : State) i =>
                match (x.inp.getD i []).head? with
                | some wd => s.eatenAt rid u i wd
                | none => s) s2
              let s2 := match f.probe with
                | some v => s2.answerProbe rid u v
                | none => s2
              let s2 := f.flights.foldl (fun (s : State) fl => { s.fresh with flights := s.flights.put s.nextId fl }) s2
              let s2 := if e.kind = 3 ∧ e.ldir then
                  (match s.linkFree r e, res with
                   | some (q, v), some t => s2.onRes q (fun z => z.onUnit v (·.arrive 0 (.tok { t with cut := false, prb := false })))
                   | _, _ => s2)
                else s2
              .done (s2.headEvent rid u x.core.out.isEmpty) f.flags
    | _, _ => .no

/-- The lane that a read-modify-write firing of unit `u` updates next, where another active lane comes after it (R126). -/
def Residency.laneNext (r : Residency) (u : Nat) (o : LOp) (w : LaneW) : Option Nat :=
  (r.units[u]?).bind (fun x =>
    let left := x.run.left ((operand o w 0 w.asel x.reg x.core.st).act &&& (operand o w 1 w.bsel x.reg x.core.st).act)
    if o.isRmw ∧ 2 ≤ popc (left.setWidth 64) then (List.range 8).find? left.getLsbD else none)

/-- One lane of a read-modify-write firing that has more; other agents' requests may come before the next (R126). -/
def State.laneStep (s : State) (rid u : Nat) (o : LOp) (w : LaneW) (i : Nat) : State :=
  match (s.res.find? rid).bind (fun r => (r.units[u]?).map (fun x => (r, x))) with
  | some (r, x) =>
    match r.plan.img.elems[u]? with
    | some e =>
      let y := s.rmwRun r o w e x (i + 1)
      y.1.onRes rid (·.setUnit u { x with undo := x.undo ++ y.2.2, run := y.2.1 })
    | none => s
  | none => s

/-- A firing in the fabric (R152, R352), or the next lane of one that reads, modifies and writes several (R126). -/
def fire (o : LOp) (w : LaneW) (rid u : Nat) (s : State) : Out :=
  match s.res.find? rid with
  | none => .next s
  | some r =>
    let free := match r.units[u]?, r.rec' u with
      | some x, some un => decide (x.core.out.length < un.depth)
      | _, _ => false
    if !r.flowing ∨ r.halts u then .next s
    else match s.tryFire rid u o w free, r.laneNext u o w with
      | .no, _ => .next s
      | .full, _ => .next (s.putRes rid (r.fullCut u))
      | .overflow, _ => .next (s.putRes rid (r.elementFault u 4 0 0))
      | _, some i =>
        let t := s.laneStep rid u o w i
        .next (if s.logFits t then t else s)
      | .fault fl, none => .next (s.putRes rid (r.elementFault u 1 0 fl))
      | .done t _, none => .next (if s.logFits t then t else s)

/-- A lane operation at its site. -/
def laneAt (o : LOp) (at' : LaneAt) (w : LaneW) (s : State) : Out :=
  match at' with
  | .vop vd va vb vc => vop o vd va vb vc w s
  | .fire rid u => fire o w rid u s

end Sys2Proof.Machine
end

