-- ==== Sys2Proof/Machine/Pans.lean ====
section
/-! DEFINITION. Expert pans: definition, acceptance, spills, fires, batch buffers and weights (R320 to R336, R339, R340, R367,
R392, R393, R407, R408). -/

namespace Sys2Proof.Machine

/-! ### Accesses of the master distributor -/

/-- Where a virtual address of the master distributor lies, or the spill cause of its failure (R333). -/
def State.mdPlace (s : State) (va : Nat) (k : Acc) : Except Nat Nat :=
  if inClm va then .ok va
  else match s.walkNow va k with
    | .page e => .ok (e.to va)
    | .ecc => .error 4
    | _ => .error 2

/-- The home takes an access of the master distributor to memory. -/
def State.mdHome (s : State) (pa : Nat) (k : Acc) : Bool :=
  match s.home pa with
  | .reg => false
  | .peer _ => false
  | _ => s.accepts mdMaster pa k

/-- The bytes of a write of the master distributor under way take in those from `pa` on. -/
def MdWrite.covers (w : MdWrite) (pa n : Nat) : Bool := decide (pa < w.pa + w.n) && decide (w.pa < pa + n)

/-- Four bytes read, at a physical address; a write of the master distributor that is still under way there comes first (R246). -/
def State.mdWord (s : State) (pa : Nat) : State × Except Nat Nat :=
  match s.mdWrites.reverse.find? (·.covers pa 4) with
  | some w => (s, .ok (w.v / 256 ^ (pa - w.pa) % 2 ^ 32))
  | none =>
    if !s.mdHome pa .read then (s, .error 3) else if s.isBad pa 4 then (s, .error 4) else (s.corrected pa 4, .ok (s.load pa 4))

/-- The words at `addrs`, each a place with the virtual address it is known by; or a cause and an address. -/
def State.mdWords (s : State) : List (Except Nat Nat × Nat) → State × Except (Nat × Nat) (List Nat)
  | [] => (s, .ok [])
  | a :: l =>
    match a.1 with
    | .error c => (s, .error (c, a.2))
    | .ok pa =>
      match s.mdWord pa with
      | (s, .error c) => (s, .error (c, a.2))
      | (s, .ok w) =>
        match s.mdWords l with
        | (s, .ok ws) => (s, .ok (w :: ws))
        | x => x

/-- The aligned words of 8 bytes, or of 4 where there is no such, as which values are written: place, virtual address, bytes and
value (R244). -/
def pieces : List ((Nat × Nat) × Nat) → List ((Nat × Nat) × Nat × Nat)
  | [] => []
  | [x] => [(x.1, 4, x.2)]
  | x :: y :: l => if x.1.1 % 8 = 0 ∧ y.1.1 = x.1.1 + 4 then (x.1, 8, x.2 + y.2 * 2 ^ 32) :: pieces l else (x.1, 4, x.2) :: pieces (y :: l)

/-- Words are to be written at the places given, which are checked first (R248). -/
def State.mdStore (s : State) (pan : Nat) (buf : Option Nat) (addrs : List (Except Nat Nat × Nat)) (ws : List Nat) :
    Except (Nat × Nat) State :=
  let bad (a : Except Nat Nat × Nat) : Option (Nat × Nat) := match a.1 with
    | .error c => some (c, a.2)
    | .ok pa => if s.mdHome pa .write then none else some (3, a.2)
  match addrs.findSome? bad with
  | some e => .error e
  | none =>
    let places := addrs.filterMap (fun a => (a.1.toOption).map (fun pa => (pa, a.2)))
    .ok { s with mdWrites := s.mdWrites ++ (pieces (places.zip ws)).map (fun p =>
      { pan := pan, buf := buf, pa := p.1.1, va := p.1.2, n := p.2.1, v := p.2.2 }) }

/-- Three words from a virtual address. -/
def State.threeAt (s : State) (va : Nat) (k : Acc) : List (Except Nat Nat × Nat) :=
  (List.range 3).map (fun i => (s.mdPlace (va + 4 * i) k, va + 4 * i))

/-- The translations of three words are corrected as they are read (R230). -/
def State.threeMend (s : State) (va : Nat) (k : Acc) : State := (s.mendWalk va k).mendWalk (va + 8) k

def panWordOf (ws : List Nat) : PanWord := BitVec.ofNat 96 (ws.getD 0 0 + ws.getD 1 0 * 2 ^ 32 + ws.getD 2 0 * 2 ^ 64)
def panWords (w : PanWord) : List Nat := (List.range 3).map (fun i => bitsOf w.toNat (32 * i + 31) (32 * i))

/-! ### The pan table -/

def State.putPan (s : State) (n : Nat) (p : Pan) : State := { s with pans := s.pans.put n p }

/-- The entries that no fire has taken (R328). -/
def Pan.count (p : Pan) : Nat := p.rlen - p.taken + p.blen

/-- Entries of the bittern area are due to move into free ring slots (R333). -/
def Pan.refillDue (p : Pan) : Bool := 0 < p.blen && p.rlen < p.rcnt

/-- The condition of R328. -/
def Pan.due (p : Pan) (now : Word) : Bool :=
  0 < p.count && (p.f ≤ p.count || ((p.times.head?).map (fun t => decide ((p.age : Int) ≤ (now - t).toInt))).getD false)

/-- The pan as it stands before an operation: one that has become READY since the last, which only its age can have brought about, has
been so from that moment (R328, R330). -/
def Pan.sync (p : Pan) (now : Word) : Pan :=
  if !p.fired && p.readyAt.isNone && p.due now then
    { p with readyAt := some (((p.times.head?).getD now) + BitVec.ofNat 64 p.age) }
  else p

def State.pan? (s : State) (n : Nat) : Option Pan := (s.pans.find? n).map (·.sync s.gcyc)

/-- READY as it stands after an operation: the time at which the pan became READY is kept. -/
def Pan.touch (p : Pan) (now : Word) : Pan :=
  { p with readyAt := if !p.fired && p.due now then some (p.readyAt.getD now) else none }

/-- A pan enters HELD, with a spill fault to its owner (R329, R333); one that is HELD already waits for one step more. -/
def State.panHold (s : State) (n : Nat) (p : Pan) (step : HeldStep) (cause addr : Nat) : State :=
  (s.putPan n (if p.held.isNone then { p with held := some step } else { p with also := p.also ++ [step] })).postRecord
    (spillRecord p.owner n cause addr s.gcyc)

/-- The pan is HELD on a step. -/
def Pan.stuck (p : Pan) (step : HeldStep) : Bool := p.held = some step || p.also.contains step

/-- The write at place `i` of those under way is made, behind those before it that it overlaps; where its home's table refuses it now, the
pan enters HELD (R248, R254, R420). -/
def State.mdWrite (s : State) (i : Nat) : State :=
  match s.mdWrites[i]? with
  | none => s
  | some w =>
    let step : HeldStep := match w.buf with
      | some b => .buffer b
      | none => .write
    if (s.mdWrites.take i).any (·.covers w.pa w.n) ∨ s.inCopy w.pa then s
    else if s.mdHome w.pa .write then
      (((({ s with mdWrites := s.mdWrites.eraseIdx i } : State).meshWrote w.pa).store w.pa w.n w.v).setFull w.pa w.n)
    else match s.pans.find? w.pan with
      | some p => if p.stuck step then s else s.panHold w.pan p step (if w.buf.isSome then 7 else 3) w.va
      | none => { s with mdWrites := s.mdWrites.eraseIdx i }

def Pan.slotVa (p : Pan) (i : Nat) : Nat := p.ringVa + 12 * (i % p.rcnt)

/-- The words of ring slot `i`. -/
def Pan.slotAt (p : Pan) (i : Nat) : List (Except Nat Nat × Nat) :=
  (List.range 3).map (fun j => (.ok (p.ring + 12 * (i % p.rcnt) + 4 * j), p.slotVa i))

/-! ### The scope of a pan that holds entries (R340) -/

/-- The count is taken when a pan's count rises from 0. -/
def State.panScope (s : State) (n : Nat) : State :=
  match s.pans.find? n with
  | none => s
  | some p =>
    if p.count = 0 ∨ p.scope.isSome then s
    else match (s.mendWalk (p.tmpl + 20) .read).mdWords [(s.mdPlace (p.tmpl + 20) .read, p.tmpl)] with
      | (s, .error (c, a)) => s.panHold n p .template c a
      | (s, .ok ws) =>
        let h := ws.headD 0
        if (s.liveScope h).isSome then (s.countUp h).putPan n { p with scope := some h }
        else s.panHold n p .template 6 p.tmpl

def BufUse.unposted : BufUse → Bool
  | .fired _ _ _ _ => true
  | _ => false

/-- The count is given back once the pan's count is 0 and its last batch has been posted or sent. -/
def State.panSettle (s : State) (n : Nat) : State :=
  match s.pans.find? n with
  | none => s
  | some p =>
    match p.scope with
    | some h =>
      if p.count = 0 ∧ p.away.isEmpty ∧ !p.bufs.any BufUse.unposted then (s.putPan n { p with scope := none }).countDown h else s
    | none => s

/-! ### What a fire waits for (R327 to R330, R393, R408) -/

/-- The recorded fire that a replay enforces next, as counter 0, n and kind (R393). -/
def State.replayFire (s : State) (n : Nat) : Option (Nat × Nat × Nat × Bool) :=
  (s.expected 0 2 n).map (fun x =>
    let k := recChan x.2 % 4096
    (x.1, recOrd x.2, if k = 0 then 4096 else k, recChan x.2 / 4096 % 2 = 0))

def Pan.mayWork (p : Pan) : Bool := (p.held = none || p.held = some .spill) && p.also.isEmpty

/-- A fire may be taken, as far as buffers, faults, the peer and order allow. -/
def State.mayFire (s : State) (p : Pan) : Bool :=
  !p.fired && !p.refillDue && 0 < p.count && p.mayWork
    && (if !p.present && p.fbk = 1 then !p.stopped && !s.peerBars.any (fun b => b.1 = p.fbdev && b.2.1 = p.fbpan)
        else p.bufs.contains .free)

/-- In a replay counter 0 has come to the recorded fire that is next: the fire is made before another entry is taken. -/
def State.fireDue (s : State) (n : Nat) (p : Pan) : Bool :=
  s.replaying 0 && s.mayFire p && (match s.replayFire n with
    | some (_, ord, _, _) => (p.c0.setWidth 32).toNat = ord
    | none => false)

/-! ### Acceptance and refill (R321, R333) -/

/-- The pan takes entry `w`: into the ring, or spilled. False where the pan is held, a recorded fire is due or the spill failed. -/
def State.panAccept (s : State) (n : Nat) (p : Pan) (w : PanWord) : State × Bool :=
  if p.held.isSome ∨ s.fireDue n p then (s, false)
  else
    let taken (s : State) (p : Pan) : State × Bool :=
      let p := { p with c0 := p.c0 + 1, times := p.times ++ [s.gcyc] }.touch s.gcyc
      ((s.putPan n p).panScope n, true)
    if p.blen = 0 ∧ p.rlen < p.rcnt then
      match s.mdStore n none (p.slotAt (p.rpos + p.rlen)) (panWords w) with
      | .ok s => taken s { p with rlen := p.rlen + 1 }
      | .error (c, a) => (s.panHold n p .spill c a, false)
    else if p.blen = p.bcnt then (s.panHold n p .spill 1 p.bitt, false)
    else
      let va := p.bitt + 12 * ((p.bpos + p.blen) % p.bcnt)
      match (s.threeMend va .write).mdStore n none (s.threeAt va .write) (panWords w) with
      | .ok s => taken s { p with blen := p.blen + 1, c2 := p.c2 + 1 }
      | .error (c, a) => (s.panHold n p .spill c a, false)

/-- The rank of an entry among those that arrive in one cycle: its source's island, then y, then x (R321). -/
def State.flightRank (s : State) (f : Flight) : Nat :=
  match s.res.find? f.rid with
  | some r =>
    let p := r.plan.siteOf f.unit
    r.island * 4096 + (r.oy + p.2) * 64 + (r.ox + p.1)
  | none => 2 ^ 20 + f.rid

/-- An entry whose pan is not defined is discarded, which raises NV at its element (R127, R352). -/
def State.discardEntry (s : State) (f : Flight) : State :=
  s.onRes f.rid (fun r =>
    let enabled : Bool := match r.opOf f.unit with
      | some (_, _, w) => r.masked.isNone && trapped w Num.nv != 0#5
      | none => false
    if enabled ∧ r.broken.isNone then r.elementFault f.unit 1 0 Num.nv
    else r.onUnit f.unit (fun x => { x with core := { x.core with sticky := x.core.sticky ||| Num.nv } }))

/-- PAN_ENTRY_ARRIVAL: the oldest entry on its way from one element to one pan is taken. -/
def execPanEntryArrival (flight : Nat) (s : State) : Out :=
  match s.flights.find? flight with
  | none => .next s
  | some f =>
    let first := s.flights.all (fun q => flight ≤ q.1 || q.2.rid ≠ f.rid || q.2.unit ≠ f.unit || q.2.pan ≠ f.pan)
    if !first then .next s
    else
      match s.pan? f.pan with
      | none => .next ({ s with flights := s.flights.drop flight }.discardEntry f)
      | some p =>
        let t := s.inTurn 1 (s.flightRank f) (s.flightRank f)
        match t.panAccept f.pan p f.word with
        | (t, true) => .next { t with flights := t.flights.drop flight }
        | (t, false) => .next (if p.held.isSome ∨ s.fireDue f.pan p then s else t)

/-- PAN_REFILL: the oldest spilled entry moves into a free ring slot. -/
def State.panRefill (s : State) (n : Nat) : State :=
  match s.pan? n with
  | none => s
  | some p =>
    if !p.refillDue ∨ !p.mayWork then s
    else
      let va := p.bitt + 12 * p.bpos
      match (s.threeMend va .read).mdWords (s.threeAt va .read) with
      | (s, .error e) => s.panHold n p .refill e.1 e.2
      | (s, .ok ws) =>
        match s.mdStore n none (p.slotAt (p.rpos + p.rlen)) ws with
        | .error e => s.panHold n p .refill e.1 e.2
        | .ok t =>
          t.putPan n ({ p with rlen := p.rlen + 1, blen := p.blen - 1, bpos := (p.bpos + 1) % p.bcnt }.touch s.gcyc)

def execPanRefill (pan : Nat) (s : State) : Out := .next (s.panRefill pan)

/-- PAN_AGE_LIMIT: the oldest entry has reached the age limit. -/
def execPanAgeLimit (pan : Nat) (s : State) : Out :=
  .next { s with pans := s.pans.adjust pan (fun p => (p.sync s.gcyc).touch s.gcyc) }

/-! ### Weights (R332) -/

/-- start_fetch. -/
def State.startFetch (s : State) (n : Nat) : State :=
  match s.pans.find? n with
  | none => s
  | some p =>
    if p.fetch.isSome then s
    else
      let id := s.nextId
      let i : Instr := .fetchw (.start id) { wait := 0, seten := false, setslot := 0 } (BitVec.ofNat 46 (p.wxfer / 64))
        (BitVec.ofNat 12 n)
      let c : Cmd := { newCmd none i .md 0 none with accepted := true, accNo := id }
      { (s.fresh.putPan n { p with fetch := some id }) with cmds := s.cmds.put id c }

/-- The weights are present: waiting batches lose their extra count. -/
def State.weightsHere (s : State) (n : Nat) : State :=
  match s.pans.find? n with
  | none => s
  | some p =>
    let here (b : BufUse) : BufUse := match b with
      | .fired k thr subst _ => .fired k thr subst false
      | b => b
    let s := s.putPan n { p with present := true, waiting := [], bufs := p.bufs.map here }
    p.waiting.foldl (fun (s : State) lid => s.predDone (lid % 4096)) s

/-- WEIGHT_FETCH_COMPLETE: the fetch that the master distributor issued for the pan has ended. -/
def execWeightFetchComplete (pan : Nat) (s : State) : Out :=
  match s.pans.find? pan with
  | none => .next s
  | some p =>
    match p.fetch.bind (fun id => (s.cmds.find? id).map (fun c => (id, c))) with
    | some (id, c) =>
      if c.job ≠ .done ∨ c.follow ≠ 0 ∨ c.count.isSome then .next s
      else if !c.err then
        .next ({ s with cmds := s.cmds.drop id, pans := s.pans.put pan { p with fetch := none } }.weightsHere pan)
      else .next ({ s with cmds := s.cmds.drop id }.panHold pan { p with fetch := none } .fetch 5 p.wxfer)
    | none => .next s

/-! ### Batch buffers (R331) -/

/-- S of R322, and the base of buffer `b`. -/
def Pan.bufVa (p : Pan) (b : Nat) : Nat := p.buf + b * (128 + 64 * ((p.bcap + 3) / 4))

/-- The stored entry of a batch. -/
def batchEntry (w : PanWord) : List Nat :=
  [(w.extractLsb' 0 32).toNat, (w.extractLsb' 32 8).toNat,
   (Num.convOut .f32 127 (.mode .rne) (Num.unpackFF (w.extractLsb' 40 36))).1, 0]

/-- The 32-bit words of a pattern: base, and extent and stride of each dimension. -/
def patternWords (base : Nat) (dims : List (Nat × Nat)) : List Nat :=
  [base % 2 ^ 32, base / 2 ^ 32, dims.length, 0] ++ dims.flatMap (fun d => [d.1, d.2])
    ++ List.replicate (12 - 2 * dims.length) 0

/-- The words of buffer `b` that holds the entries `ws`. -/
def Pan.bufWords (p : Pan) (b : Nat) (ws : List PanWord) : List Nat :=
  patternWords (p.bufVa b + 128) [(2, 4), (ws.length, 16)] ++ patternWords (p.bufVa b + 136) [(ws.length, 16)]
    ++ ws.flatMap batchEntry

/-- The `n` oldest ring entries. -/
def State.oldest (s : State) (p : Pan) (n : Nat) : State × Except (Nat × Nat) (List PanWord) :=
  match s.mdWords ((List.range n).flatMap (fun i => p.slotAt (p.rpos + i))) with
  | (s, .ok ws) => (s, .ok ((List.range n).map (fun i => panWordOf (ws.drop (3 * i)))))
  | (s, .error e) => (s, .error e)

/-- The writes of the posted batch in buffer `b` are made; once all have been acknowledged the batch has left the ring, and its entry's
count is released (R331). A pan HELD on another step goes on with it (R334). -/
def State.bufferWritten (s : State) (n b : Nat) : State :=
  match s.pans.find? n with
  | none => s
  | some p =>
    match p.bufs[b]? with
    | some (.writing lid k) =>
      if p.stuck (.buffer b) then s
      else match s.oldest p k with
        | (s, .error (c, a)) => s.panHold n p (.buffer b) c a
        | (s, .ok ws) =>
          let words := p.bufWords b ws
          let va (i : Nat) : Nat := p.bufVa b + 4 * i
          let vas := (List.range words.length).map va
          match s.mdStore n (some b) (vas.map (fun a => (s.mdPlace a .write, a))) words with
          | .error (_, a) => s.panHold n p (.buffer b) 7 a
          | .ok t => (vas.foldl (fun (s : State) a => s.mendWalk a .write) t).putPan n { p with bufs := p.bufs.set b (.flushing lid k) }
    | some (.flushing lid k) =>
      if s.mdWrites.any (fun w => w.pan = n && w.buf = some b) then s
      else
        let p := { p with rpos := (p.rpos + k) % p.rcnt, rlen := p.rlen - k, taken := 0, fired := false,
                          bufs := p.bufs.set b (.posted lid) }.touch s.gcyc
        (s.putPan n p).predDone (lid % 4096)
    | _ => s

def execBatchBufferWritten (pan buf : Nat) (s : State) : Out := .next (s.bufferWritten pan buf)

/-- The buffers of a residency that has ended are free (R331). -/
def State.panResEnd (s : State) (lid : Nat) : State :=
  { s with pans := s.pans.map (fun p => (p.1, { p.2 with bufs := p.2.bufs.map (fun b =>
      match b with
      | .posted l => if l = lid then .free else b
      | _ => b) })) }

/-- The pan and buffer posted with a launch id. -/
def State.batchOf (s : State) (lid : Nat) : Option (Pan × Nat) :=
  s.pans.findSome? (fun p => (p.2.bufs.findIdx? (fun b => b = .posted lid)).map (fun b => (p.2, b)))

/-! ### Fires (R327 to R330) -/

/-- The oldest PANDRAIN of a pan whose fire has not been taken. -/
def State.draining (s : State) (n : Nat) : Option Nat :=
  (List.find? (fun c => c.2.job = .unit && (match c.2.instr with
    | .pandrain _ _ pan => pan.toNat = n
    | _ => false)) s.cmds).map (·.1)

/-- The PANDRAIN whose fire took buffer `b` completes: its batch has been posted (R327). -/
def State.drained (s : State) (n b : Nat) : State :=
  match List.find? (fun c => c.2.job = .drain b && (match c.2.instr with
    | .pandrain _ _ pan => pan.toNat = n
    | _ => false)) s.cmds with
  | some (id, _) => s.cmdDone id
  | none => s

/-- Counter 1 in the half of the fire's kind, saturating (R336). -/
def Pan.countFire (p : Pan) (thr : Bool) : Pan :=
  if thr then { p with thr := satAdd32 true p.thr 1 } else { p with tim := satAdd32 true p.tim 1 }

/-- The batch in buffer `b`, of which the fire was taken, is posted and counted (R329). -/
def State.panPost (s : State) (n b : Nat) : State :=
  match s.pans.find? n with
  | none => s
  | some p =>
    match p.bufs[b]? with
    | some (.fired k thr subst late) =>
      let t := if subst then p.fbtmpl else p.tmpl
      let extra := if late then 2 else 1
      let got := (s.fetch mdMaster t 64).bind (fun bs => launchRecord bs p.owner)
      let s := s.mend t 64
      let fail : State := s.panHold n p (.post b) 6 t
      match got with
      | none => fail
      | some (e, preds) =>
        match s.liveScope e.scope with
        | none => fail
        | some i =>
          if (s.scope i).closed ∧ p.scope ≠ some e.scope then fail
          else match s.newEntry { e with pri := p.pri } preds extra with
            | none => fail
            | some (s, lid) =>
              let p := { p.countFire thr with
                bufs := p.bufs.set b (.writing lid k), c3 := if subst then p.c3 + 1 else p.c3,
                waiting := if extra = 2 then p.waiting ++ [lid] else p.waiting }
              ((s.putPan n p).drained n b).panSettle n
    | _ => s

/-- Entries to a peer's pan, up to five in a flit (R407). -/
def State.sendPan (s : State) (n fire : Nat) (thr : Bool) : List PanWord → Nat → State
  | [], _ => s
  | _, 0 => s
  | ws, fuel + 1 =>
    match s.pans.find? n with
    | none => s
    | some p =>
      let now := ws.take 5
      let r := s.request p.fbdev 7 2 p.fbpan now.length (now.flatMap (fun w => bytesOf 12 w.toNat))
      (r.1.putPan n { p with away := p.away ++ [{ dev := p.fbdev, pan := p.fbpan, seq := r.2, ents := now, fire := fire, thr := thr, back := false }] }).sendPan n fire thr
        (ws.drop 5) fuel

/-- The pan must be fired: by R328, by a PANDRAIN, or as recorded. A recorded fire that counter 0 has passed is due as well: it can
no longer be made (R393). -/
def State.panWants (s : State) (n : Nat) (p : Pan) : Bool :=
  if s.replaying 0 then
    (match s.replayFire n with
     | some (_, ord, _, _) =>
       let past : Int := (p.c0.setWidth 32 - BitVec.ofNat 32 ord).toInt
       (past = 0 && s.mayFire p) || 0 < past
     | none => false)
  else s.mayFire p && (p.due s.gcyc || (s.draining n).isSome)

/-- Pan `a` is taken before pan `b`: the fire of a PANDRAIN, which is the next operation (R327), then by R330. -/
def State.panBefore (s : State) (a b : Nat × Pan) : Bool :=
  let wait (p : Pan) : Int := ((p.readyAt).map s.since).getD 0
  let old (p : Pan) : Bool := 65536 ≤ wait p
  let age (p : Pan) : Int := ((p.times.head?).map s.since).getD 0
  match s.draining a.1, s.draining b.1 with
  | some i, some j => i < j
  | some _, none => true
  | none, some _ => false
  | none, none =>
    if old a.2 && old b.2 then wait b.2 < wait a.2
    else if old a.2 || old b.2 then old a.2
    else if a.2.pri ≠ b.2.pri then a.2.pri < b.2.pri
    else age b.2 < age a.2

/-- The pan whose fire is taken next. -/
def State.panNext (s : State) : Option Nat :=
  if !s.mdReady ∨ s.failover then none
  else
    (s.pans.foldl (fun (acc : Option (Nat × Pan)) y =>
      let x := (y.1, y.2.sync s.gcyc)
      if !s.panWants x.1 x.2 then acc
      else match acc with
        | none => some x
        | some a => if s.panBefore x a then some x else acc) none).map (·.1)

/-- The record of a fire (R389, R392). -/
def State.recordFire (s : State) (n k : Nat) (thr : Bool) (p : Pan) : State :=
  let r := traceRecord 2 s.gcyc (4 * 32) (k % 4096 + (if thr then 0 else 4096)) (p.c0.toNat % 2 ^ 32) n
  let s := s.sendTrace 0 r
  match s.replaying 0, s.replayFire n with
  | true, some (i, _, _, _) => s.useRecord 0 i
  | _, _ => s.logRecord 0 r

/-- fire(p) of R329, for `k` entries; the fire of a PANDRAIN completes it (R327). A fallback for which no route or no ready port leads to the
peer fails, and its entries stay (R415, log 103). -/
def State.panFire (s : State) (n k : Nat) (thr : Bool) : State :=
  let s := match s.pans.find? n with
    | some p => if p.present then s else s.startFetch n
    | none => s
  match s.pan? n with
  | none => s
  | some p =>
    if !p.present ∧ p.fbk = 1 then
      if (s.routeTo p.fbdev).isNone ∨ !s.portReady p.fbdev then s.panHold n p .fallback 3 0
      else match s.oldest p k with
      | (s, .error (c, a)) => s.panHold n p .fallback c a
      | (s, .ok ws) =>
        let s := s.recordFire n k thr p
        let q := { p with times := p.times.drop k, rpos := (p.rpos + k) % p.rcnt, rlen := p.rlen - k, readyAt := none }.touch s.gcyc
        let t := { s.fresh with pans := s.pans.put n q }.sendPan n s.nextId thr ws k
        (match s.draining n with
         | some id => t.cmdDone id
         | none => t)
    else
      match p.bufs.findIdx? (· = .free) with
      | none => s
      | some b =>
        let s := s.recordFire n k thr p
        let p := { p with times := p.times.drop k, readyAt := none, taken := k, fired := true,
                          bufs := p.bufs.set b (.fired k thr (!p.present && p.fbk = 2) (!p.present && p.fbk = 0)) }
        let s := match s.draining n with
          | some id => s.setCmd id (fun c => { c with job := .drain b })
          | none => s
        (s.putPan n p).panPost n b

/-- The fire of pan `n` as it stands. A recorded fire that cannot be made is a divergence; one whose record finds no room in the log
waits (R392, R393). -/
def State.fireNow (s : State) (n : Nat) : State :=
  match s.pan? n with
  | none => s
  | some p =>
    let t := match s.replaying 0, s.replayFire n with
      | true, some (i, ord, k, thr) =>
        if (p.c0.setWidth 32).toNat ≠ ord ∨ p.count < k then (s.useRecord 0 i).diverge 0 0 p.c0.toNat 2 n n i
        else s.panFire n k thr
      | _, _ => s.panFire n (min p.count p.f) (decide (p.f ≤ p.count))
    if s.logFits t then t else s

/-- The rank of a fire in its base-die cycle: behind every entry that arrives in it (R328). -/
def fireRank : Nat := 2 ^ 41

/-- PAN_FIRE: the master distributor takes the fire of the pan that comes first, at most one in a base-die cycle and after the
arrivals of that cycle (R328, R330). -/
def execPanFire (pan : Nat) (s : State) : Out :=
  let t := s.inTurn 1 fireRank (fireRank + 1)
  .next (if t.panNext = some pan then t.fireNow pan else s)

/-! ### Fallback answers (R407, R408) -/

/-- A PANQ flit is acknowledged; with the fire's last, counters 1 and 3 count it. -/
def State.panAcked (s : State) (dev seq : Nat) : State :=
  let is (a : Away) : Bool := a.dev = dev && a.seq = seq
  match List.find? (fun p => p.2.away.any is) s.pans with
  | some (n, p) =>
    let hit := p.away.filter is
    let p := { p with away := p.away.filter (fun a => !is a) }
    let p := match hit with
      | a :: _ => if p.away.any (fun b => b.fire = a.fire) then p else { p.countFire a.thr with c3 := p.c3 + 1 }
      | [] => p
    (s.putPan n p).panSettle n
  | none => s

/-- How far sequence number `b` lies behind `a`. -/
def seqAfter (a b : Nat) : Nat := (b + 4096 - a) % 4096

/-- Flits that a peer has refused are sent again, in the order in which they left, with the pan that each is of. -/
def State.resend (s : State) : List (Nat × Away) → State
  | [] => s
  | (n, a) :: l =>
    (match s.pans.find? n with
     | some q =>
       if (s.routeTo a.dev).isNone ∨ !s.portReady a.dev then
         (if q.stuck .fallback then s.putPan n { q with stopped := true } else s.panHold n { q with stopped := true } .fallback 3 0)
       else
       let r := s.request a.dev 7 2 a.pan a.ents.length (a.ents.flatMap (fun (w : PanWord) => bytesOf 12 w.toNat))
       (r.1.putPan n { q with away := q.away.filter (fun (b : Away) => !(b.dev = a.dev && b.seq = a.seq)) ++ [{ a with seq := r.2, back := false }] })
     | none => s).resend l

/-- The refused flits to pan `pan` of device `dev`, or those of one pan of this device. -/
def State.sendBack (s : State) (dev pan first : Nat) (own : Option Nat) : State :=
  let l := s.pans.flatMap (fun p => (p.2.away.filter (fun a => a.back && a.dev = dev && a.pan = pan)).map (fun a => (p.1, a)))
  s.resend (sortBy (fun x => seqAfter first x.2.seq) (l.filter (fun x => own.all (· = x.1))))

/-- RESUME of a pan that an undefined pan of a peer has refused. -/
def State.resendPan (s : State) (n : Nat) : State :=
  match s.pans.find? n with
  | none => s
  | some p =>
    let s := s.putPan n { p with stopped := false }
    match p.away.find? (·.back) with
    | some a => s.sendBack a.dev a.pan a.seq (some n)
    | none => s

/-- PNACK names the first refused flit. From a HELD pan, it and every later flit to that pan is to be sent again after PRESUME, and
nothing more is sent there meanwhile; from an undefined pan, it is a spill fault of the sending pan (R408). -/
def State.panRefusedBy (s : State) (dev pan seq : Nat) (undef : Bool) : State :=
  let later (a : Away) : Bool := a.dev = dev && a.pan = pan && seqAfter seq a.seq < 2048
  let mark (p : Pan) : Pan := { p with away := p.away.map (fun a => { a with back := a.back || later a }) }
  if undef then
    match List.find? (fun p => p.2.away.any (fun a => a.dev = dev && a.seq = seq)) s.pans with
    | some (n, p) =>
      let p := { mark p with stopped := true }
      if p.stuck .fallback then s.putPan n p else s.panHold n p .fallback 6 0
    | none => s
  else
    { s with pans := s.pans.map (fun p => (p.1, mark p.2)),
             peerBars := s.peerBars.filter (fun b => !(b.1 = dev && b.2.1 = pan)) ++ [(dev, pan, seq)] }

/-- PRESUME: the peer's pan takes entries again, first those that it refused. -/
def State.peerResumes (s : State) (dev pan : Nat) : State :=
  let is (b : Nat × Nat × Nat) : Bool := b.1 = dev && b.2.1 = pan
  let first := ((s.peerBars.find? is).map (·.2.2)).getD 0
  { s with peerBars := s.peerBars.filter (fun b => !is b) }.sendBack dev pan first none

/-! ### RESUME (R326, R334) -/

/-- The peers refused while a pan was HELD are told to go on (R408). -/
def State.panReleased (s : State) (n : Nat) : State :=
  let s := (s.refused.filter (fun r => r.2 = n)).foldl (fun (s : State) r =>
    s.emit { op := 9, cls := 1, src := s.link.devid.toNat, dst := r.1, seq := 0, len := 0, addr := n, payload := [] }) s
  { s with refused := s.refused.filter (fun r => r.2 ≠ n) }

/-- A failed step is made again; one that waits behind a step that has failed again goes on waiting. -/
def State.panRetry (s : State) (n : Nat) (step : HeldStep) : State :=
  match s.pans.find? n with
  | none => s
  | some p =>
    if p.held.isSome then s.putPan n { p with also := p.also ++ [step] }
    else match step with
      | .refill => s.panRefill n
      | .template => s.panScope n
      | .fetch => s.startFetch n
      | .buffer b => s.bufferWritten n b
      | .post b => s.panPost n b
      | .fallback => s.resendPan n
      | .spill => s
      | .write => s

/-- HELD is cleared and the failed steps made again. -/
def State.panResume (s : State) (n : Nat) : State :=
  match s.pan? n with
  | none => s
  | some p =>
    let s0 := s.putPan n ({ p with held := none, also := [] }.touch s.gcyc)
    let s1 := (p.held.toList ++ p.also).foldl (fun (s : State) x => s.panRetry n x) s0
    if ((s1.pans.find? n).bind (·.held)).isNone then s1.panReleased n else s1

/-! ### PANDEF (R322, R323, R325) -/

/-- The physical address of a ring that lies in one ME, readable and writable, outside reorder mode. -/
def State.ringHome (s : State) (va bytes : Nat) : Option Nat :=
  match s.reach va .readWrite with
  | none => none
  | some pa =>
    let ends := [va, min (va + bytes - 1) (va / 65536 * 65536 + 65536), min (va + bytes - 1) (va / 65536 * 65536 + 131072), va + bytes - 1]
    match s.home pa with
    | .me n =>
      if ends.all (fun a => s.reach a .readWrite = some (pa + (a - va)) && s.home (pa + (a - va)) = .me n) && !s.meTaken n
          && s.grants n mdMaster pa .read && s.grants n mdMaster pa .write
          && s.grants n mdMaster (pa + bytes - 1) .read && s.grants n mdMaster (pa + bytes - 1) .write then some pa
      else none
    | _ => none

/-- A definition record that follows R322 and R323. -/
def State.panOf (s : State) (bs : List Byte) (owner : Nat) : Option Pan :=
  let f := fieldAt bs
  let rcnt := f 16 2 + 1
  let fpw := f 18 2
  let fill := fpw % 4096 + 1
  let whome := fpw / 16384
  let fbk := f 36 1
  let fbdev := f 38 2
  let fbpan := f 40 2
  let bcap := f 42 2
  let addrs := [f 0 8, f 8 8, f 24 8, f 48 8, f 56 8, f 64 8]
  let ok := addrs.all (· < 2 ^ 52) && f 0 8 % 64 = 0 && f 8 8 % 4 = 0 && rcnt ≤ 10922 && f 23 1 = 0 && f 24 8 % 4 = 0
    && fbk < 3 && f 37 1 < 16 && fbdev < 1024 && fbpan < 4096 && bcap < 4096 && f 44 4 = 0 && f 48 8 % 64 = 0
    && (fbk = 2 || f 48 8 = 0) && f 56 8 % 64 = 0 && f 64 8 % 64 = 0 && f 72 56 = 0
    && fill ≤ rcnt && fill ≤ bcap + 1 && !(whome = 3 && fbk = 1 && fbdev = s.link.devid.toNat) && !(fbk = 2 && f 48 8 = 0)
  if ok then
    (s.ringHome (f 8 8) (rcnt * 12)).map (fun pa =>
      { owner := owner, tmpl := f 0 8, ringVa := f 8 8, ring := pa, rcnt := rcnt, f := fill, pri := fpw / 4096 % 4,
        whome := whome, age := f 20 3, bitt := f 24 8, bcnt := f 32 4, fbk := fbk, fbdev := fbdev, fbpan := fbpan,
        bcap := bcap + 1, fbtmpl := f 48 8, wxfer := f 56 8, buf := f 64 8, rpos := 0, rlen := 0, bpos := 0, blen := 0,
        taken := 0, times := [], fired := false, held := none, also := [], readyAt := none,
        bufs := List.replicate (f 37 1 + 1) .free, present := whome = 0 || f 56 8 = 0, fetch := none, waiting := [],
        c0 := 0, thr := 0, tim := 0, c2 := 0, c3 := 0, scope := none, away := [], stopped := false })
  else none

end Sys2Proof.Machine
end

