-- ==== Sys2Proof/Machine/Routers.lean ====
section
/-! DEFINITION. Router operators, cut-only words, reorder stores, the controller tree and switch markers (R159 to R166,
R169, R180, R181, R197 to R201, R347, R393, R431). -/

namespace Sys2Proof.Machine

/-! ### Saving AG streams with their units -/

/-- The stream that unit `u` is saves the cuts that the unit has saved (R348). -/
def Residency.syncStream (r : Residency) (u : Nat) : Residency :=
  match r.units[u]?, r.streams.find? u with
  | some x, some st =>
    let last := st.saves.foldl (fun m p => max m p.1) 0
    let new := (List.range (x.core.cut - last)).map (fun i => (last + 1 + i, st.core))
    { r with streams := r.streams.put u { st with saves := st.saves ++ new } }
  | _, _ => r

/-! ### Router operators -/

/-- A predicate (R159). -/
def predHolds (t : Token) : Bool := t.v.lm.getLsbD 0 && i32 (t.v.lane 0) != 0

/-- A bubble with a token's markers. -/
def hollow (t : Token) : Token := { t with v := { t.v with lm := 0#8 } }

/-- What an operator takes: the inputs consumed, its state after it, the data token if any and the outputs to which it
goes whole. -/
structure RopTake where
  ports : List Nat
  core  : UnitCore
  data  : Option Token
  toT   : Bool
  toF   : Bool

/-- The next take of an operator; `want` is the input that a replay enforces on an unpredicated MERGE. -/
def ropTake (o : RopRec) (x : UnitSt) (want : Option Nat) : Option RopTake :=
  let c := x.core
  match o.op with
  | 0 =>
    match x.head 0, x.head 1 with
    | some d, some p =>
      let b := d.v.lm = 0#8
      some { ports := [0, 1], core := c, data := some d, toT := b || predHolds p, toF := b || !predHolds p }
    | _, _ => none
  | 1 =>
    match x.head 0, x.head 1 with
    | some d, some p => some { ports := [0, 1], core := c, data := some d, toT := predHolds p, toF := false }
    | _, _ => none
  | 2 =>
    if o.mode = 0 then
      match c.pred with
      | none => (x.head 1).map (fun p => { ports := [1], core := { c with pred := some (predHolds p) }, data := none, toT := false,
                                           toF := false })
      | some b =>
        let i := if b then 2 else 0
        (x.head i).map (fun t => { ports := [i], core := { c with pred := none }, data := some t, toT := true, toF := false })
    else
      let both := (x.head 0).isSome && (x.head 2).isSome
      let i := match want with
        | some k => if k = 0 then 0 else 2
        | none => if both then (if c.last1 then 0 else 2) else if (x.head 0).isSome then 0 else 2
      (x.head i).map (fun t => { ports := [i], core := { c with last1 := i = 2 }, data := some t, toT := true, toF := false })
  | _ =>
    if c.loop then
      (x.head 2).map (fun t =>
        if t.rank < o.rank then { ports := [2], core := c, data := some t, toT := true, toF := false }
        else { ports := [2], core := { c with loop := false }, data := none, toT := false, toF := false })
    else (x.head 0).map (fun t => { ports := [0], core := { c with loop := true }, data := some t, toT := true, toF := false })

/-- The word that an output of an operator receives, whole or as a bubble with the data token's markers (R160, R161, R431). CUT
passes once for each cut on each output (R347): with the firing that saves it, or with a data token that carries it. `passed`
counts the output's, `got` the cuts delivered with the data. -/
def RopTake.word (k : RopTake) (whole saves : Bool) (passed got : Nat) : Option ChWord :=
  match k.data with
  | some t =>
    let late := t.cut && decide (passed < got)
    if whole then some (.tok { t with cut := saves || late })
    else if t.rank ≠ 0 ∨ t.cut ∨ t.prb then some (.tok { hollow t with cut := late })
    else none
  | none => if saves then some .cutOnly else none

/-- A word that carries a cut. -/
def ChWord.isCut : ChWord → Bool
  | .tok t => t.cut
  | .cutOnly => true
  | .switch => false

/-- A word leaves an operator through an output. -/
def State.ropPut (s : State) (rid u : Nat) (f : Bool) (w : ChWord) : State :=
  match s.res.find? rid with
  | some r =>
    let n := ((r.units[u]?).map (fun x => if f then x.core.cnt else x.core.outOrd)).getD 0
    let r := if w.isTok then r.onUnit u (fun x =>
        { x with core := if f then { x.core with cnt := n + 1 } else { x.core with outOrd := n + 1 } }) else r
    let r := if w.isCut then r.onUnit u (fun x =>
        { x with core := { x.core with outCuts := modifyAt x.core.outCuts (if f then 1 else 0) (· + 1) } }) else r
    let port := if f then 2 else 1
    ((s.putRes rid (r.place u f w)).onChannel rid u port 0 n w).onChannel rid u port 1 n w
  | none => s

/-- The output channel of an operator in a record (R389). -/
def Residency.ropChan (r : Residency) (o : RopRec) : Nat := chanField r.island (r.ox + o.x) (r.oy + o.y) 1

/-- The consumed words of inputs are counted at the ends of their connections. -/
def State.consumedAt (s : State) (rid u : Nat) (x : UnitSt) (ports : List Nat) : State :=
  ports.foldl (fun (s : State) i =>
    match (x.inp.getD i []).head? with
    | some w => s.eatenAt rid u i w
    | none => s) s

/-- `l` and the units upstream of it, as far as unit `u`. -/
def Residency.upstream (r : Residency) (u : Nat) : Nat → List Nat → List Nat
  | 0, l => l
  | fuel + 1, l =>
    let into := l.flatMap (fun v => [0, 1, 2].filterMap (fun i => (r.connTo v i).map (fun c => c.2.src)))
    let new := into.eraseDups.filter (fun v => v ≠ u && !l.contains v)
    if new.isEmpty then l else r.upstream u fuel (l ++ new)

/-- No word stands between the ends of connection `n`. -/
def Residency.clearConn (r : Residency) (n : Nat) (c : Conn) : Bool :=
  ((r.branches[n]?).map (fun b => b.load == 0)).getD true &&
    (((r.plan.storeOn c).bind (fun j => r.stores[j]?)).map (fun x =>
      x.inp.isEmpty && x.core.out.isEmpty && x.core.slots.isEmpty && x.tail.load == 0)).getD true

/-- Unit `u` holds nothing, and begins no further pass of its own. What a BE's link brings is not known. -/
def Residency.spent (r : Residency) (u : Nat) : Bool :=
  match r.units[u]? with
  | none => true
  | some x =>
    let link := match r.rec' u with
      | some (.elem e) => e.kind = 3 && !e.ldir
      | _ => false
    let idle := match r.streams.find? u with
      | some st => !st.core.active && st.core.held.isEmpty
      | none => true
    !link && idle && x.core.out.isEmpty && x.inp.all List.isEmpty &&
      (!r.isSource u || (!x.core.pass && decide (r.lastGo u ≤ x.core.begun)))

/-- No token can come to input `i` of unit `u` any more until `u` takes another one (R393). -/
def Residency.dry (r : Residency) (u i : Nat) : Bool :=
  match r.connTo u i with
  | none => true
  | some (n, c) =>
    let up := r.upstream u r.units.length [c.src]
    r.clearConn n c && up.all (fun v => r.spent v &&
      [0, 1, 2].all (fun j => ((r.connTo v j).map (fun c => r.clearConn c.1 c.2)).getD true))

/-- A take of operator `op` of residency `rid`; `room` says whether an output has room. -/
def State.tryRop (s : State) (rid op : Nat) (o : RopRec) (room : Residency → Bool → Bool) : Option State :=
  match s.res.find? rid with
  | none => none
  | some r =>
    let u := r.plan.img.elems.length + op
    let die := dieOf r.island
    let free := o.op = 2 && o.mode = 1
    let key := r.ropChan o
    let watched := free && r.hold ≠ .fault
    let want := if watched ∧ s.replaying die then s.expected die 4 key else none
    match r.units[u]? with
    | none => none
    | some x =>
      if x.switched then none
      else match ropTake o x (want.map (fun p => recData p.2 % 2)) with
        | none =>
          -- the recorded choice cannot occur any more, and the other input holds a token (R393)
          (match want with
           | some (i, e) =>
             let k := if recData e % 2 = 0 then 0 else 2
             if r.dry u k ∧ (x.head (2 - k)).isSome then
               some ((s.useRecord die i).diverge die key (x.core.outOrd % 2 ^ 32) 4 (recData e) (1 - recData e % 2) i)
             else none
           | none => none)
        | some k =>
          let y := x.consume false k.ports
          let saves := y.core.savesDue
          let got := y.core.cuts.getD (k.ports.headD 0) 0
          let wT := k.word k.toT saves (x.core.outCuts.getD 0 0) got
          let wF := if o.op = 0 then k.word k.toF saves (x.core.outCuts.getD 1 0) got else none
          if (wT.isSome ∧ !room r false) ∨ (wF.isSome ∧ !room r true) ∨ (saves ∧ !r.mayCut x.core) then none
          else if y.overflowed then some (s.putRes rid (r.elementFault u 4 0 0))
          else
            let core := { k.core with cuts := y.core.cuts, eos := y.core.eos, endedAt := y.core.endedAt, ended := y.core.ended, fires := x.core.fires + 1 }
            let y := { y with core := core }
            let y := if saves then y.save else y
            let ord := x.core.outOrd
            let s := s.putRes rid (r.setUnit u y)
            let s := s.consumedAt rid u x k.ports
            let s := match want with
              | some (i, _) => s.useRecord die i
              | none =>
                if watched ∧ !s.replaying die ∧ s.logged r.lid then
                  s.logRecord die (traceRecord 4 s.gcyc 32 key (ord % 2 ^ 32) (if k.ports = [2] then 1 else 0))
                else s
            let s := match wT with
              | some w => s.ropPut rid u false w
              | none => s
            some (match wF with
              | some w => s.ropPut rid u true w
              | none => s)

/-- An event of operator `op`, which must be of kind `kind` and mode `mode`. -/
def ropEvent (kind mode : Nat) (rid op : Nat) (s : State) : Out :=
  match s.res.find? rid with
  | some r =>
    match r.plan.img.rops[op]? with
    | some o =>
      if o.op = kind ∧ o.mode = mode then
        inMotionAt rid (r.plan.img.elems.length + op) (·.tryRop rid op o (fun r f => r.outRoom (r.plan.img.elems.length + op) f)) s
      else .next s
    | none => .next s
  | none => .next s

def execSteer (rid op : Nat) (s : State) : Out := ropEvent 0 0 rid op s
def execFilter (rid op : Nat) (s : State) : Out := ropEvent 1 0 rid op s
def execMerge (rid op : Nat) (s : State) : Out := ropEvent 2 0 rid op s
def execUmerge (rid op : Nat) (s : State) : Out := ropEvent 2 1 rid op s
def execCarry (rid op : Nat) (s : State) : Out := ropEvent 3 0 rid op s

/-! ### Reorder stores (R197 to R201) -/

/-- The elements of a block: producer token and lane, consumer token and lane. -/
def StorePlan.elems (p : StorePlan) : List (Nat × Nat × Nat × Nat) :=
  (blockCoords p.bp).map (fun co => (position false p.bp co, position true p.bp co, position false p.bc co, position true p.bc co))

def cycleExts (lv : List Level) : List Nat := (lv.filter (fun l => !l.lane)).map (·.ext)

/-- The outermost level is a ragged cycle level. -/
def raggedOuter (lv : List Level) : Bool :=
  match lv.getLast? with
  | some l => l.rag && !l.lane
  | none => false

/-- The lowest-numbered free slots for `n` elements (R197). -/
def StorePlan.freeSlots (p : StorePlan) (m : Map SlotVal) (n : Nat) : Option (List Nat) :=
  let w := if p.ty = 1 then 2 else 1
  let l := ((List.range (p.slots / w)).map (· * w)).filter (fun i => (m.find? i).isNone)
  if l.length < n then none else some (l.take n)

/-- Some ragged shared cycle level ends with END `e` (R183, R200). -/
def StorePlan.raggedShared (p : StorePlan) (e : Nat) : Bool :=
  let rp := (cycleExts p.bp).length
  ((p.shared.filter (fun l => !l.lane)).zipIdx).any (fun l => l.1.rag && decide (rp + l.2 + 1 ≤ e))

/-- The END of a producer token ends a ragged level, of the block or outside it (R200). -/
def StorePlan.raggedEnd (p : StorePlan) (e : Nat) : Bool :=
  (raggedOuter p.bp && decide ((cycleExts p.bp).length ≤ e)) || p.raggedShared e

/-- The shared cycle levels that end with a block whose last token has END `e`, and the places of the block after it. A level ends
with the count of its blocks; a ragged one ends with `e`, and so does each level inside it (R199, R200). -/
def StorePlan.endShared (p : StorePlan) (e : Nat) (pos : List Nat) : Nat × List Nat :=
  let rp := (cycleExts p.bp).length
  let lv := (p.shared.filter (fun l => !l.lane)).zipIdx
  let place (i : Nat) : Nat := pos.getD i 0
  let forced (i : Nat) : Bool := e = 7 || lv.any (fun l => l.1.rag && decide (i ≤ l.2) && decide (rp + l.2 + 1 ≤ e))
  let n := (lv.takeWhile (fun l => forced l.2 || (!l.1.rag && decide (l.1.ext ≤ place l.2 + 1)))).length
  (n, lv.map (fun l => if l.2 < n then 0 else if l.2 = n then place l.2 + 1 else place l.2))

/-- A producer token is written (R197, R199 to R201). A bubble that stands for an empty run of a ragged shared level takes the
place of a whole block (R187, R200). Elements of a block that has been read already, delivered again after a rollback, are
dropped. -/
def StorePlan.write (p : StorePlan) (c : StoreCore) (t : Token) : Option StoreCore :=
  let np := prod (cycleExts p.bp)
  let (n, pos) := p.endShared t.rank c.wpos
  let void := t.v.lm = 0#8 ∧ c.wtok = 0 ∧ p.raggedShared t.rank
  let es := sortBy (fun e : (Nat × Nat × Nat × Nat) × Nat => e.1.2.1) (p.elems.zipIdx.filter (fun e => e.1.1 = c.wtok))
  let es := if t.v.lm = 0#8 ∨ c.wblock < c.rblock then [] else es
  match p.freeSlots c.slots es.length with
  | none => none
  | some free =>
    let slots := (es.zip free).foldl (fun (m : Map SlotVal) e =>
      let lane := e.1.1.2.1
      m.put e.2 { block := c.wblock, elem := e.1.2,
                  lane := if p.ty = 1 then t.v.pair lane else (t.v.lane lane).setWidth 72,
                  set := t.v.lm.getLsbD (if p.ty = 1 then 2 * lane else lane) }) c.slots
    let ends := decide (c.wtok + 1 = np) || decide (t.rank = 7) || p.raggedEnd t.rank
    let cuts := c.wcuts + (if t.cut then 1 else 0)
    let prb := c.wprb || t.prb
    let c := { c with slots := slots, eos := decide (t.rank = 7) }
    let c := if ends then
        { c with closed := if c.wblock < c.rblock then c.closed
                           else c.closed.put c.wblock (if t.rank = 7 then 7 else n, cuts, prb, decide void),
                 wpos := pos, wblock := c.wblock + 1, wtok := 0, wcuts := 0, wprb := false }
      else { c with wtok := c.wtok + 1, wcuts := cuts, wprb := prb }
    some (if t.cut then { c with marks := c.marks ++ [(c.wblock, c.wtok, c.wpos)] } else c)

/-- The store as its cut saves it: without the elements written after the producer's token of that cut (R201). -/
def StorePlan.atMark (p : StorePlan) (c : StoreCore) (m : Nat × Nat × List Nat) : StoreCore :=
  let early (b k : Nat) : Bool := b < m.1 || (b = m.1 && k < m.2.1)
  { c with slots := c.slots.filter (fun x => early x.2.block ((p.elems[x.2.elem]?.map (·.1)).getD 0)),
           closed := c.closed.filter (fun x => x.1 < m.1), wblock := m.1, wtok := m.2.1, wpos := m.2.2, wcuts := 0, wprb := false,
           marks := [], out := [] }

/-- A cut saved by a store. -/
def StoreSt.save (p : StorePlan) (x : StoreSt) : StoreSt :=
  let m := x.core.marks.headD (x.core.wblock, x.core.wtok, x.core.wpos)
  let core := { x.core with cut := x.core.cut + 1, marks := x.core.marks.tail }
  { x with core := core, saves := x.saves ++ [(core.cut, p.atMark core m)] }

/-- The tokens of one position of a block's outermost ragged cycle level (R200). -/
def StorePlan.step (p : StorePlan) : Nat := max 1 (prod (cycleExts p.bc.dropLast))

/-- The next consumer token of a store, whether it is the last of its block, and the cuts that follow it; none while the
store must wait (R198 to R200). In a ragged outermost level the block ends behind the last position that holds a present element,
or with a single bubble. -/
def StorePlan.next (p : StorePlan) (c : StoreCore) : Option (Token × Bool × Nat) :=
  let es := p.elems
  let rc := (cycleExts p.bc).length
  let nc := prod (cycleExts p.bc)
  let done := c.rblock < c.wblock
  let mine := es.zipIdx.filter (fun e => e.1.2.2.1 = c.rtok)
  let here (i : Nat) : Option SlotVal := (List.find? (fun x => x.2.block = c.rblock && x.2.elem = i) c.slots).map (·.2)
  let from_ (k : Nat) : Bool :=
    c.slots.any (fun x => x.2.block = c.rblock && x.2.set && decide (k ≤ ((es[x.2.elem]?.map (·.2.2.1)).getD 0)))
  let later := from_ ((c.rtok / p.step + 1) * p.step)
  let ends := decide ((c.rtok + 1) % p.step = 0) || (c.rtok = 0 && !from_ 0)
  let (e, cuts, prb, void) := c.closed.getD c.rblock (0, 0, false, false)
  let arrived := done || mine.all (fun e => c.wblock = c.rblock && e.1.1 < c.wtok)
  let rag := raggedOuter p.bc
  if !arrived ∨ (c.rtok + 1 = nc ∧ !done) ∨ (rag ∧ !done ∧ ends ∧ !later) then none
  else
    let last := c.rtok + 1 = nc || void || (rag && done && ends && !later)
    let at' (l : Nat) : Option SlotVal := ((mine.find? (fun e => e.1.2.2.2 = l)).bind (fun e => here e.2))
    let lane (i : Nat) : Lane :=
      if p.ty = 1 then (match at' (i / 2) with
        | some v => (v.lane >>> (36 * (i % 2))).setWidth 36
        | none => 0#36)
      else (match at' i with
        | some v => v.lane.setWidth 36
        | none => 0#36)
    let lm := mask8 (fun i => match at' (if p.ty = 1 then i / 2 else i) with
      | some v => v.set
      | none => false)
    let rank := if last then (if e = 7 then 7 else e + rc) else endRank (cycleExts p.bc) c.rtok
    some ({ v := VReg.build lane lm, rank := rank, cut := last && decide (0 < cuts), prb := last && prb }, last,
          if last then cuts else 0)

/-- After reading the token. -/
def StorePlan.readOff (p : StorePlan) (c : StoreCore) (t : Token) (last : Bool) (cuts : Nat) : StoreCore :=
  let es := p.elems
  let gone (x : SlotVal) : Bool := x.block = c.rblock && (last || ((es[x.elem]?.map (·.2.2.1)).getD 0) = c.rtok)
  { c with slots := c.slots.filter (fun x => !gone x.2), out := c.out ++ [.tok t] ++ List.replicate (cuts - 1) ChWord.cutOnly,
           rblock := if last then c.rblock + 1 else c.rblock, rtok := if last then 0 else c.rtok + 1,
           closed := if last then c.closed.drop c.rblock else c.closed, outOrd := c.outOrd + 1 }

def Residency.onStore (r : Residency) (j : Nat) (x : StoreSt) : Residency := { r with stores := r.stores.set j x }

/-- A producer token at store `j`'s input is written. -/
def State.storeWrite (s : State) (rid j : Nat) : Option State :=
  match s.res.find? rid with
  | none => none
  | some r =>
    match r.stores[j]?, r.plan.stores[j]? with
    | some x, some p =>
      (match x.inp with
       | .tok t :: ws =>
         (p.write x.core t).map (fun c =>
           let s := s.putRes rid (r.onStore j { x with core := c, inp := ws })
           match r.connTo p.dst p.dport with
           | some (n, _) => s.consumed rid n (.tok t)
           | none => s)
       | _ => none)
    | _, _ => none

/-- Store `j` reads its next consumer token, if its output queue has room. -/
def State.storeRead (s : State) (rid j : Nat) : Option State :=
  match s.res.find? rid with
  | none => none
  | some r =>
    match r.stores[j]?, r.plan.stores[j]? with
    | some x, some p =>
      if p.mes.length + 2 ≤ x.core.out.length then none
      else match p.next x.core with
        | none => none
        | some (t, last, cuts) =>
          if 0 < cuts ∧ r.cut < x.core.cut then none
          else
            let y := { x with core := p.readOff x.core t last cuts }
            let s := s.putRes rid (r.onStore j ((List.range cuts).foldl (fun x _ => x.save p) y))
            some (if x.core.out.isEmpty then s.storeHead rid j else s)
    | _, _ => none

/-- An event at store `j`. -/
def storeEvent (rid j : Nat) (f : State → Option State) (s : State) : Out :=
  inMotionAt rid (((s.res.find? rid).map (·.units.length)).getD 0 + j) f s

/-- An event of the controller tree. -/
def treeEvent (rid : Nat) (f : State → Option State) (s : State) : Out :=
  inMotionAt rid (((s.res.find? rid).map (·.treeNo)).getD 0) f s

def execReorderStoreWrite (rid store : Nat) (s : State) : Out := storeEvent rid store (·.storeWrite rid store) s
def execReorderStoreRead (rid store : Nat) (s : State) : Out := storeEvent rid store (·.storeRead rid store) s

/-! ### Cut-only words (R431) -/

/-- A lookup stream has queries that it has not answered whole; a word behind them waits for its turn (R279). -/
def Residency.answering (r : Residency) (u : Nat) : Bool :=
  match r.rec' u, r.streams.find? u with
  | some (.elem e), some st => !(portDecl e.word).out && !st.core.held.isEmpty
  | _, _ => false

/-- Unit `u` takes a cut-only word at an input. -/
def Residency.takeCutOnly (r : Residency) (u port : Nat) : Option Residency :=
  match r.units[u]?, r.rec' u with
  | some x, some un =>
    (match (x.inp.getD port []).head? with
     | some .cutOnly =>
       let y := x.consume false [port]
       if r.answering u ∨ x.run.next ≠ 0 then none
       else if !y.core.savesDue then some (r.setUnit u y)
       else
         let rop := r.plan.img.elems.length ≤ u
         let room := if rop then r.outRoom u false && r.outRoom u true else decide (x.core.out.length < un.depth)
         if !r.mayCut x.core ∨ !room then none
         else if rop then some (((r.setUnit u y.save).place u false ChWord.cutOnly).place u true ChWord.cutOnly)
         else
           let hasOut := !(r.outs u false).isEmpty
           some ((r.setUnit u (y.emit hasOut none true).save).syncStream u)
     | _ => none)
  | _, _ => none

/-- A store counts a cut-only word without a position, saves its state and passes it on. -/
def Residency.storeCutOnly (r : Residency) (j : Nat) : Option Residency :=
  match r.stores[j]?, r.plan.stores[j]? with
  | some x, some p =>
    (match x.inp with
     | .cutOnly :: ws =>
       if p.mes.length + 2 ≤ x.core.out.length ∨ r.cut < x.core.cut ∨ x.core.marks ≠ [] then none
       else
         let x := { x with inp := ws, core := { x.core with out := x.core.out ++ [ChWord.cutOnly] } }
         some (r.onStore j (x.save p))
     | _ => none)
  | _, _ => none

/-- CUT_ONLY_WORD_TAKE: numbers from the units' count on name the stores. -/
def execCutOnlyWordTake (rid unit port : Nat) (s : State) : Out :=
  inMotionAt rid unit (fun s => (s.res.find? rid).bind (fun r =>
    let n := r.units.length
    (if unit < n then r.takeCutOnly unit port else r.storeCutOnly (unit - n)).map (s.putRes rid))) s

/-! ### The controller tree (R165, R166) -/

/-- The children of a node, in order. -/
def Image.kids (im : Image) (n : Nat) : List Nat :=
  sortBy id ((im.ctls.filter (fun c => c.parent = n && c.node ≠ 0)).map (·.node))

def Image.ctl (im : Image) (n : Nat) : Option CtlRec := im.ctls.find? (fun c => c.node = n)

def NodeSt.init (kids : Nat) : NodeSt := { ended := 0, started := List.replicate kids 0, finished := List.replicate kids 0 }

/-- The tree at configuration. -/
def Image.nodes (im : Image) : Map NodeSt :=
  (im.ctls.filter (fun c => c.type ≠ 3)).foldl (fun m c => m.put c.node (NodeSt.init (im.kids c.node).length)) []

def Residency.node (r : Residency) (n : Nat) : NodeSt := r.nodes.getD n (NodeSt.init 0)

/-- The gos given to node `n` so far. -/
def Residency.given (r : Residency) (n : Nat) : Nat :=
  if n = 0 then 1
  else match r.plan.img.ctl n with
    | some c => (r.node c.parent).started.getD ((r.plan.img.kids c.parent).findIdx (· = n)) 0
    | none => 0

/-- Every node and leaf has been given its last go. -/
def Residency.allGiven (r : Residency) : Bool := r.plan.img.ctls.all (fun c => r.given c.node = r.plan.img.totalGos c.node)

/-- The gos that node or leaf `n` has carried out. A leaf has, once the last token of its pass has left its output queue, and
a writing leaf once no write of that pass is left in its buffer (R165, R252). -/
def Residency.carried (r : Residency) (n : Nat) : Nat :=
  match r.plan.img.ctl n with
  | some c =>
    if c.type = 3 then
      match r.plan.img.elemAt c.lx c.ly c.lstr with
      | some u =>
        match r.units[u]? with
        | some x =>
          let st := r.streams.find? u
          let busy := x.core.pass || ((st.map (·.core.active)).getD false) || !x.core.out.isEmpty
          x.core.begun - (if busy then 1 else 0) - ((st.map (·.ends.length)).getD 0)
        | none => 0
      | none => 0
    else (r.node n).ended
  | none => 0

/-- Child `i` of node `n` may start its next iteration, counted over every go of the node (R166). -/
def Residency.mayGo (r : Residency) (n i : Nat) : Bool :=
  match r.plan.img.ctl n with
  | some c =>
    let st := r.node n
    let s := st.started.getD i 0
    let f (j : Nat) : Nat := st.finished.getD j 0
    let last := st.started.length - 1
    s < r.given n * c.iter && f i = s &&
      (match c.type with
       | 0 => if i = 0 then f last = s else f (i - 1) = s + 1
       | 1 => i = 0 || s + 1 ≤ f (i - 1)
       | _ => st.finished.all (· = s))
  | none => false

/-- A go reaches node `n` from its parent; under STRM every child receives one in the same cycle. -/
def Residency.go (r : Residency) (n : Nat) : Option Residency :=
  match r.plan.img.ctl n with
  | some c =>
    if n = 0 then none
    else
      let p := c.parent
      let i := (r.plan.img.kids p).findIdx (· = n)
      if r.mayGo p i then
        let st := r.node p
        let strm := ((r.plan.img.ctl p).map (·.type)) = some 2
        let started := st.started.zipIdx.map (fun x => if strm ∨ x.2 = i then x.1 + 1 else x.1)
        some { r with nodes := r.nodes.put p { st with started := started } }
      else none
  | none => none

/-- The iterations that a node has completed over all its gos. -/
def iterationsDone (type : Nat) (fi : List Nat) : Nat :=
  match type, fi with
  | 2, x :: xs => xs.foldl min x
  | _, l => l.getLast?.getD 0

/-- A done of node `n` reaches its parent; the root's ends the tree's work (R165). -/
def Residency.done (r : Residency) (n : Nat) : Option Residency :=
  if n = 0 then (if r.carried 0 = 1 ∧ !r.rootDone then some { r with rootDone := true, iter := max r.iter 1 } else none)
  else match r.plan.img.ctl n with
    | some c =>
      let p := c.parent
      let i := (r.plan.img.kids p).findIdx (· = n)
      let st := r.node p
      if st.finished.getD i 0 < min (r.carried n) (st.started.getD i 0) then
        let finished := modifyAt st.finished i (· + 1)
        let d := (r.plan.img.ctl p).map (fun d => (d.type, max 1 d.iter))
        let k := iterationsDone ((d.map (·.1)).getD 0) finished
        let st := { st with finished := finished, ended := k / (d.map (·.2)).getD 1 }
        some { r with nodes := r.nodes.put p st, iter := if p = 0 then k else r.iter }
      else none
    | none => none

/-- The gos that a leaf has taken up in its state of cut `k`, and those that it has carried out. -/
def Residency.leafAt (r : Residency) (k u : Nat) : Nat × Nat :=
  match (r.units[u]?).bind (fun x => x.saves.find? (fun v => v.k = k)) with
  | some v =>
    let active := ((r.streams.find? u).bind (fun st => (List.find? (fun c => c.1 = k) st.saves).map (·.2.active))).getD false
    (v.core.begun, v.core.begun - (if v.core.pass || active then 1 else 0))
  | none => (0, 0)

/-- The gos that node `n` and everything under it have been given in the state of cut `k`, those it has carried out, and its counts:
what the cut states of its leaves show (R348, log 102). A done that its parent has not received is received again. -/
def Residency.treeAt (r : Residency) (k : Nat) : Nat → Nat → (Nat × Nat) × NodeSt
  | 0, _ => ((0, 0), NodeSt.init 0)
  | fuel + 1, n =>
    match r.plan.img.ctl n with
    | none => ((0, 0), NodeSt.init 0)
    | some c =>
      if c.type = 3 then ((((r.plan.img.elemAt c.lx c.ly c.lstr).map (r.leafAt k)).getD (0, 0)), NodeSt.init 0)
      else
        let kids := (r.plan.img.kids n).map (fun m => (r.treeAt k fuel m).1)
        let top := kids.foldl (fun a x => max a x.1) 0
        let finished := (kids.zip (r.node n).finished).map (fun x => min x.1.2 x.2)
        let iter := max 1 c.iter
        let ended := iterationsDone c.type finished / iter
        (((top + iter - 1) / iter, ended),
          { ended := ended, started := kids.map (fun x => if c.type = 2 then top else x.1), finished := finished })

/-- The controller tree at cut `k`, with the iterations of its root (R348, R371). -/
def Residency.treeCut (r : Residency) (k : Nat) : Map NodeSt × Nat :=
  (r.nodes.map (fun p => (p.1, (r.treeAt k 32 p.1).2)),
    match r.plan.img.ctl 0 with
    | some c => iterationsDone c.type (r.treeAt k 32 0).2.finished
    | none => 0)

def execControllerGo (rid node : Nat) (s : State) : Out :=
  treeEvent rid (fun s => (s.res.find? rid).bind (fun r => (r.go node).map (s.putRes rid))) s

/-- A write of leaf `n` is not acknowledged yet (R252). -/
def State.leafBusy (s : State) (rid : Nat) (r : Residency) (n : Nat) : Bool :=
  match (r.plan.img.ctl n).bind (fun c => if c.type = 3 then r.plan.img.elemAt c.lx c.ly c.lstr else none) with
  | some u => s.reqs.any (fun q => match q.2.owner, q.2.op with
      | .stream i j _, .write _ _ => i = rid && j = u
      | .stream i j _, .half _ _ => i = rid && j = u
      | _, _ => false) || ((r.streams.find? u).map (fun st => !st.back.isEmpty)).getD false
  | none => false

def execControllerDone (rid node : Nat) (s : State) : Out :=
  treeEvent rid (fun s => (s.res.find? rid).bind (fun r =>
    if s.leafBusy rid r node then none else (r.done node).map (s.putRes rid))) s

/-! ### Switch markers (R180, R181) -/

/-- The inputs of a unit that a circuit feeds. -/
def Residency.fed (r : Residency) (u : Nat) : List Nat := [0, 1, 2].filter (fun i => (r.connTo u i).isSome)

def isMarker (w : Option ChWord) : Bool := w == some .switch

/-- Unit `u` takes the markers at its inputs, or injects one as a source, and waits for the switch (log 28). -/
def Residency.takeMarker (r : Residency) (u : Nat) : Option Residency :=
  match r.units[u]?, r.rec' u, r.switch with
  | some x, some un, some sw =>
    let ports := r.fed u
    let rop := r.plan.img.elems.length ≤ u
    let room := if rop then r.outRoom u false && r.outRoom u true
      else if r.isSource u then decide (x.core.out.length < un.depth) else x.core.out.isEmpty
    if sw.fired ∧ !x.switched ∧ ports.all (fun i => isMarker (x.inp.getD i []).head?) ∧ room then
      let y := { x with switched := true, inp := ports.foldl (fun l i => modifyAt l i List.tail) x.inp }
      some (if rop then ((r.setUnit u y).place u false .switch).place u true .switch
        else
          let hasOut := !(r.outs u false).isEmpty
          r.setUnit u { y with core := if hasOut then y.core.put .switch else y.core })
    else none
  | _, _, _ => none

/-- A store passes a marker once it has been read empty. -/
def Residency.storeMarker (r : Residency) (j : Nat) : Option Residency :=
  match r.stores[j]? with
  | some x =>
    (match x.inp with
     | .switch :: ws =>
       if x.core.slots.isEmpty ∧ x.core.rblock = x.core.wblock ∧ x.core.out.isEmpty then
         some (r.onStore j { x with inp := ws, core := { x.core with out := [.switch] } })
       else none
     | _ => none)
  | none => none

end Sys2Proof.Machine
end

