-- ==== Sys2Proof/Machine/Streams.lean ====
section
/-! DEFINITION. AG streams: reading, delivering and writing, lookup and scatter streams, and memory-port faults (R85 to R90,
R173, R236 to R242, R278 to R280, R299, R349, R350, R358). -/

namespace Sys2Proof.Machine

/-! ### A stream and its port -/

/-- A stream with its record, its declaration and its port's type. -/
structure AgView where
  e  : ElemRec
  p  : PortDecl
  d  : OD
  st : StreamSt
  x  : UnitSt

def Residency.ag (r : Residency) (u : Nat) : Option AgView :=
  match r.plan.img.elems[u]?, r.streams.find? u, r.units[u]? with
  | some e, some st, some x =>
    if e.kind = 2 then
      let p := portDecl e.word
      let d := (if p.out then r.plan.ins.find? u else r.plan.outs.find? u).getD { ty := 0, rank := 0, lanes := 1, lv := [] }
      some { e := e, p := p, d := d, st := st, x := x }
    else none
  | _, _, _ => none

def AgView.lanes (v : AgView) : Nat := max 1 v.d.laneCount

/-- Tokens of a burst: one where the port has no block scale (R87, R241). -/
def AgView.burst (v : AgView) : Nat := if v.p.bs then v.p.burst else 1

/-- Bytes of an access to an element. -/
def AgView.size (v : AgView) : Nat := max 1 (storageBits v.p.sfmt / 8)

/-- The address of element `k`, and whether it is the high half of its byte (R236). -/
def AgView.elemAt (v : AgView) (p : Pattern) (k : Nat) : Nat × Bool :=
  if v.p.sfmt = 6 then
    let o := p.offset k
    ((((p.base : Int) + o / 2) % 2 ^ 64).toNat, decide (o % 2 = 1))
  else (p.addr k, false)

/-- The number of the burst that token `t` of the pass lies in, from the binding's first token (R240). -/
def AgView.burstOf (v : AgView) (t : Nat) : Nat := v.st.core.bursts + t / v.p.burst

def Residency.setStream (r : Residency) (u : Nat) (st : StreamSt) : Residency := { r with streams := r.streams.put u st }
def Residency.onStream (r : Residency) (u : Nat) (f : StreamSt → StreamSt) : Residency :=
  { r with streams := r.streams.adjust u f }

/-- Tokens of the pass that have been taken from the output queue (R238). -/
def AgView.taken (v : AgView) : Nat := v.st.core.tokens - tokens v.x.core.out

/-! ### Translation (R239) -/

/-- Where an access goes: a physical address, a walk to wait for, or a fault with its WHY (R242). -/
inductive Spot where
  | pa (a : Nat)
  | walk
  | fail (why : Nat)
  deriving DecidableEq, Repr

/-- What a page gives a stream. -/
def Found.spot : Found → Spot
  | .pa a => .pa a
  | .denied => .fail 2
  | .miss => .walk
  | .fault => .fail 1

/-- A stream's lookup; `now` is that of the core that steps it, in the core's own pages (R54, R356). -/
def State.streamPlace (s : State) (now : Bool) (st : StreamSt) (va : Nat) (k : Acc) : Spot :=
  if inClm va then .pa va
  else if 2 ^ 52 ≤ va then .fail 1
  else if now then
    match s.me.peeked with
    | some (a, why, _) => if a = va ∧ why ≠ 0 ∧ why ≠ 5 then .fail why else (s.me.lookupAll va k).1.spot
    | none => (s.me.lookupAll va k).1.spot
  else match (st.entry.filter (fun e => e.covers va)) with
    | some e => (e.give va k).spot
    | none => .walk

/-- The stream waits for a walk. -/
def State.streamWalk (s : State) (rid u va : Nat) (k : Acc) : State :=
  match s.res.find? rid with
  | some r =>
    (s.startWalk r.island (.stream rid u) va k).putRes rid (r.onStream u (fun st => { st with entry := none, walking := true }))
  | none => s

/-! ### Memory-port faults (R242, R358) -/

/-- The record of a fault at element `k` of a stream. -/
def Residency.portRecord (r : Residency) (u : Nat) (v : AgView) (why va k : Nat) : PendRec :=
  let i : List Nat := match v.st.core.bound with
    | some (.pattern p) => (p.dims.foldl (fun (acc : List Nat × Nat) d => (acc.1 ++ [acc.2 % d.1], acc.2 / d.1)) ([], k)).1
    | _ => []
  { body := layout 96 ([(0, 4, r.lid), (4, 1, 2), (5, 1, why), (6, 1, r.island), (7, 1, r.cfg), (8, 4, r.iter % 2 ^ 32),
      (12, 1, v.e.x), (13, 1, v.e.y), (14, 1, v.p.wp), (16, 8, r.cut + 1), (36, 8, va)]
      ++ i.zipIdx.map (fun p => (44 + 4 * p.2, 4, p.1))), cls := 1, cause := 6, owner := r.owner, rid := some r.lid, kind := 2,
    stream := u }

/-- The stream stops at element `k` and a record is written. A writing stream's accesses that were issued before stay issued. -/
def State.freeze (s : State) (rid u why va k : Nat) : State :=
  match s.res.find? rid with
  | some r =>
    match r.ag u with
    | some v =>
      let r := r.onStream u (fun st => { st with frozen := true, core := if v.p.out then st.core else { st.core with issued := min st.core.issued k } })
      if v.st.frozen then s.putRes rid r else (s.putRes rid r).postRecord (r.portRecord u v why va k)
    | none => s
  | none => s

/-- What an action of a stream gives. -/
inductive AgGot where
  | no
  | ok (s : State)
  /-- A translation is needed: an address and a kind. -/
  | walk (va : Nat) (k : Acc)
  /-- A memory-port fault: WHY, address and element. -/
  | fail (why va k : Nat)

/-- An action of a stream in the fabric. -/
def State.agAct (s : State) (rid u : Nat) (g : AgGot) : Option State :=
  match g with
  | .no => none
  | .ok s => some s
  | .walk va k => some (s.streamWalk rid u va k)
  | .fail why va k => some (s.freeze rid u why va k)

/-! ### Passes (R165, R299) -/

/-- A binding's command completes: its tiles and its slot (R295, R299). -/
def State.endBinding (s : State) (id : Nat) : State := ((s.endTiles id 0).endTiles id 2).cmdDone id

/-- A stream whose next pass may begin begins it. -/
def Residency.startPass (r : Residency) (u : Nat) (v : AgView) : Option Residency :=
  if v.st.core.active then some r
  else if v.st.core.bound.isSome ∧ v.x.core.begun < r.gosFor u ∧ !v.x.switched ∧ !(r.isSource u ∧ r.ending) then
    let x := if v.p.out then v.x else r.caughtUp u v.x
    let x := { x with core := { x.core with begun := x.core.begun + 1 } }
    some (((r.setUnit u x).syncStream u).onStream u (fun st =>
      let c := match st.next with
        | some b => { st.core with bound := some b, bursts := 0 }
        | none => st.core
      { st with core := { c with active := true, issued := 0, tokens := 0, held := [] }, next := none }))
  else none

/-- The state of a stream after the last token of its pass, which ends the burst under way: the next pass of the binding begins a burst of
the next number (R240). DESIGN CHOICE: log 108. -/
def AgView.passEnd (v : AgView) (c : StreamCore) : StreamCore :=
  { c with active := false, issued := 0, tokens := 0, held := [], bursts := c.bursts + (c.tokens + v.p.burst - 1) / v.p.burst }

/-- Accesses of a stream are under way. -/
def State.streamBusy (s : State) (rid u : Nat) : Bool :=
  s.reqs.any (fun q => match q.2.owner with
    | .stream i j _ => i = rid && j = u
    | _ => false)

/-- A writing stream whose first pass has ended and whose writes have all been acknowledged completes its command (R299). -/
def State.settleStream (s : State) (rid u : Nat) : State :=
  match (s.res.find? rid).bind (fun r => r.streams.find? u) with
  | some st =>
    match st.cmd, st.left with
    | some id, some 0 =>
      if s.streamBusy rid u ∨ !st.back.isEmpty then s
      else (s.onRes rid (fun r => r.onStream u (fun st => { st with cmd := none, left := none }))).endBinding id
    | _, _ => s
  | none => s

/-! ### Grid streams (R279, R280) -/

/-- A query whose coordinate is whole. -/
def Region.asked (g : Region) (t : Token) : Bool := (List.range g.d).all (fun i => t.v.lm.getLsbD i)

def Region.coordOf (g : Region) (t : Token) : List Num.FV := (List.range g.d).map (fun i => Num.unpackFF (t.v.lane i))

/-- The words that a query reads, level by level in the order (k, f). -/
def Region.queryWords (g : Region) (t : Token) : List Nat :=
  if g.asked t then (List.range g.l).flatMap (fun l => g.touched l (g.corners l (g.coordOf t)).1) else []

/-- The tokens of a query's results, and of a scatter's gradients. -/
def Region.width (g : Region) : Nat := (g.l * g.f + 7) / 8

/-- The most words that a query reads. -/
def Region.words (g : Region) : Nat := g.l * (2 ^ g.d * g.f)

/-- The results of a query from its words, and the flags. -/
def Region.results (g : Region) (t : Token) (words : List Nat) : List Lane × Flags :=
  let n := 2 ^ g.d * g.f
  let rs := (List.range g.l).map (fun l =>
    let ks := g.corners l (g.coordOf t)
    let x := levelResults g.ef g.f (ks.1.map (·.2)) ((words.drop (l * n)).take n)
    (x.1, ks.2 ||| x.2))
  (rs.flatMap (·.1), rs.foldl (fun a r => a ||| r.2) 0#5)

/-- The output tokens of a query; the last carries the query's markers (R279). -/
def Region.answer (g : Region) (t : Token) (words : List Nat) : List Token × Flags :=
  let (rs, fl) := if g.asked t then g.results t words else ([], 0#5)
  let n := g.width
  ((List.range n).map (fun i =>
    let last := i + 1 = n
    { v := VReg.build (fun j => rs.getD (8 * i + j) 0#36) (mask8 (fun j => decide (8 * i + j < rs.length))),
      rank := if last then t.rank else 0, cut := last && t.cut, prb := last && t.prb }), fl)

/-- The adds of a query with its gradient tokens, level by level in the order (k, f), and the flags. -/
def Region.scatter (g : Region) (q : Token) (grads : List Token) : List (Nat × Lane) × Flags :=
  if g.asked q then
    let grad (n : Nat) : Option Num.FV := (grads[n / 8]?).bind (fun t =>
      if t.v.lm.getLsbD (n % 8) then some (Num.unpackFF (t.v.lane (n % 8))) else none)
    let ls := (List.range g.l).map (fun l =>
      let ks := g.corners l (g.coordOf q)
      let x := g.adds l ks.1 ((List.range g.f).map (fun f => grad (l * g.f + f)))
      (x.1, ks.2 ||| x.2))
    (ls.flatMap (·.1), ls.foldl (fun a x => a ||| x.2) 0#5)
  else ([], 0#5)

/-! ### Reading -/

/-- An access that the stream has issued or whose answer it holds. -/
def State.issued' (s : State) (rid u : Nat) (st : StreamSt) (key : Nat) : Bool :=
  (st.answers.find? key).isSome || s.reqs.any (fun q => q.2.owner = .stream rid u key)

/-- The next access of a reading stream: its key, address and bytes, and the element it belongs to; at most 64 tokens ahead of
those taken from its output (R238). A lookup stream's is a word of a query that it holds, numbered over the queries of the
pass (R279). -/
def State.nextRead (s : State) (rid u : Nat) (v : AgView) : Option (Nat × Nat × Nat × Nat) :=
  match v.st.core.bound with
  | some (.pattern p) =>
    let c := v.st.core
    let stopAt := min p.count ((v.taken + 64) * v.lanes)
    let b (k : Nat) : Nat := v.burstOf (k / v.lanes)
    let scaleDue (k : Nat) : Bool := v.p.bs && !s.issued' rid u v.st (2 * b k + 1)
    (firstFrom (fun k => scaleDue k || !s.issued' rid u v.st (2 * k)) c.issued (stopAt - c.issued)).map (fun k =>
      if scaleDue k then (2 * b k + 1, (p.scale + b k) % 2 ^ 64, 1, k) else (2 * k, (v.elemAt p k).1, v.size, k))
  | some (.grid g) =>
    let c := v.st.core
    let base := c.tokens / g.width
    let near := c.held.zipIdx.filter (fun q => (base + q.2 + 1) * g.width ≤ v.taken + 64)
    let words := near.flatMap (fun q => (g.queryWords q.1).zipIdx.map (fun w => ((base + q.2) * g.words + w.2, w.1)))
    (words.find? (fun w => c.issued ≤ w.1 && !s.issued' rid u v.st (2 * w.1))).map (fun w =>
      (2 * w.1, w.2, featureBytes g.ef, w.1))
  | none => none

/-- A reading stream issues its next access. -/
def State.agRead (s : State) (rid u : Nat) : AgGot :=
  match s.res.find? rid with
  | none => .no
  | some r0 =>
    match (r0.ag u).bind (fun v => if v.p.out ∨ v.st.frozen ∨ v.st.walking then none else r0.startPass u v) with
    | none => .no
    | some r =>
      match r.ag u with
      | none => .no
      | some v =>
        match s.nextRead rid u v with
        | none => .no
        | some (key, va, n, k) =>
          if va % n ≠ 0 then .fail 3 va k
          else match s.streamPlace false v.st va .read with
            | .walk => .walk va .read
            | .fail why => .fail why va k
            | .pa pa =>
              let q : Req := { master := resMaster r.lid, owner := .stream rid u key, op := .read n, pa := pa, split := 40,
                               pa2 := 0, ea := va, st := .sent }
              let r := r.onStream u (fun st => { st with core := { st.core with issued := if key % 2 = 0 then k + 1 else k } })
              let s := s.putRes rid r
              .ok { s.fresh with reqs := s.reqs.put s.nextId q }

def execAgStreamRead (rid stream : Nat) (s : State) : Out :=
  inMotionAt rid stream (fun s => s.agAct rid stream (s.agRead rid stream)) s

/-! ### Delivering -/

/-- An element of a reading port on its lane: the lane's 36 bits, or the pair's 72, and the flags (R86 to R88). -/
def AgView.lift (v : AgView) (e8 n : Nat) : BitVec 72 × Flags :=
  let f := v.p.sfmt
  if f = 0 then
    let x := Num.convIn .f64 127 n
    (Num.packFD x.1, x.2)
  else if f ≤ 6 then
    let x := Num.convIn (sfloat f) e8 n
    ((Num.packFF x.1).setWidth 72, x.2)
  else if storageBits f = 64 then (pairOfI32 (BitVec.ofNat 32 n) (BitVec.ofNat 32 (n / 2 ^ 32)), 0#5)
  else ((intIn f n).setWidth 72, 0#5)

/-- The tokens of a pass of a reading stream: whole instances, whose positions past the pattern's end travel masked (R237). -/
def AgView.passTokens (v : AgView) (p : Pattern) : Nat :=
  let per := prod (cycleExts v.d.lv)
  (p.count + per * v.lanes - 1) / (per * v.lanes) * per

/-- Token `t` of a pass over pattern `p`, from its answers. -/
def AgView.tokenOf (v : AgView) (p : Pattern) (t : Nat) : Token × Flags :=
  let pair := v.d.ty = 1
  let e8 := if v.p.bs then v.st.answers.getD (2 * v.burstOf t + 1) 0 else 127
  let has (l : Nat) : Bool := decide (l < v.lanes) && decide (t * v.lanes + l < p.count)
  let raw (l : Nat) : Nat :=
    let k := t * v.lanes + l
    let n := v.st.answers.getD (2 * k) 0
    if v.p.sfmt = 6 then (if (v.elemAt p k).2 then n / 16 else n % 16) else n
  let vals := (List.range v.lanes).map (fun l => if has l then v.lift e8 (raw l) else (0#72, 0#5))
  let at' (l : Nat) : BitVec 72 := (vals.getD l (0#72, 0#5)).1
  let lane (i : Nat) : Lane :=
    if pair then (at' (i / 2) >>> (36 * (i % 2))).setWidth 36 else (at' i).setWidth 36
  let per := prod (cycleExts v.d.lv)
  let last := decide (v.passTokens p ≤ t + 1)
  ({ v := VReg.build lane (mask8 (fun i => has (if pair then i / 2 else i))),
     rank := if last then 7 else endRank (cycleExts v.d.lv) (t % per), cut := false, prb := false },
   vals.foldl (fun a x => a ||| x.2) 0#5)

/-- A reading stream delivers its next token; a lookup stream the next token of the answer to its oldest query, all of whose words
are there. -/
def State.agDeliver (s : State) (rid u : Nat) (room : Bool) : AgGot :=
  match s.res.find? rid with
  | none => .no
  | some r =>
    match r.ag u with
    | none => .no
    | some v =>
      let c := v.st.core
      if v.p.out ∨ v.st.frozen ∨ !room ∨ (r.isSource u ∧ r.ending) then .no
      else
        let finish (r : Residency) (last : Bool) (s : State) : State :=
          let s := (s.putRes rid r).headEvent rid u v.x.core.out.isEmpty
          match last && v.st.next.isNone, v.st.cmd with
          | true, some id => (s.onRes rid (fun r => r.onStream u (fun st => { st with cmd := none }))).endBinding id
          | _, _ => s
        match v.st.core.bound with
        | some (.pattern p) =>
          let t := c.tokens
          let ks := (List.range v.lanes).filter (fun l => t * v.lanes + l < p.count)
          let got := ks.all (fun l => (v.st.answers.find? (2 * (t * v.lanes + l))).isSome)
          let b := 2 * v.burstOf t + 1
          let scaled := !v.p.bs || ks.isEmpty || (v.st.answers.find? b).isSome
          if !c.active ∨ !got ∨ !scaled then .no
          else
            let (tok, fl) := v.tokenOf p t
            if !r.sourceMay v.x tok.rank then .no
            else
              let last := tok.rank = 7
              let answers := ks.foldl (fun m l => m.drop (2 * (t * v.lanes + l))) v.st.answers
              let answers := if last ∨ (t + 1) % v.p.burst = 0 then answers.drop b else answers
              let c := { c with tokens := t + 1 }
              let c := if last then v.passEnd c else c
              let x := { v.x with core := { v.x.core with sticky := v.x.core.sticky ||| fl, fires := v.x.core.fires + 1 } }
              let r := r.setStream u { v.st with core := c, answers := answers }
              .ok (finish ((r.sourceEmit u x tok).syncStream u) last s)
        | some (.grid g) =>
          (match c.held with
           | q :: qs =>
             let n := (g.queryWords q).length
             let keys := (List.range n).map (fun k => 2 * (c.tokens / g.width * g.words + k))
             if !keys.all (fun k => (v.st.answers.find? k).isSome) then .no
             else
               let (ts, fl) := g.answer q (keys.map (fun k => v.st.answers.getD k 0))
               let i := c.tokens % g.width
               let whole := i + 1 = g.width
               let last := whole && q.rank = 7
               let t := ts.getD i q
               let hasOut := !(r.outs u false).isEmpty
               let core := { v.x.core with fires := v.x.core.fires + 1, sticky := v.x.core.sticky ||| fl }
               let x := { v.x with core := if hasOut then core.put (.tok t) else core }
               let c := { c with tokens := c.tokens + 1, held := if whole then qs else c.held }
               let c := if last then v.passEnd c else c
               let answers := if whole then keys.foldl (fun m k => m.drop k) v.st.answers else v.st.answers
               .ok (finish ((r.setUnit u x).setStream u { v.st with core := c, answers := answers }) last s)
           | [] => .no)
        | none => .no

/-- The output queue of a unit has room. -/
def Residency.queueRoom (r : Residency) (u : Nat) : Bool :=
  match r.units[u]?, r.rec' u with
  | some x, some un => decide (x.core.out.length < un.depth)
  | _, _ => false

def State.unitRoom (s : State) (rid u : Nat) : Bool := ((s.res.find? rid).map (fun r => r.queueRoom u)).getD false

def execAgStreamDeliver (rid stream : Nat) (s : State) : Out :=
  inMotionAt rid stream (fun s => s.agAct rid stream (s.agDeliver rid stream (s.unitRoom rid stream))) s

/-! ### Taking a token -/

/-- A stream takes the next `n` words at its input, after which its own state is `c`. `eos`, where given, says whether they
end the stream. `saves` holds back the third cut (R347). -/
def State.agTakeN (s : State) (rid u n : Nat) (eos : Option Bool) (c : StreamCore) (after : StreamCore → StreamCore) : AgGot :=
  match s.res.find? rid with
  | none => .no
  | some r =>
    match r.units[u]? with
    | none => .no
    | some x =>
      let y := (List.range n).foldl (fun (y : UnitSt) _ => y.consume false [0]) x
      let ended := (eos.map (fun b => y.core.eos.set 0 b)).getD y.core.eos
      let y := { y with core := { y.core with fires := y.core.fires + 1, eos := ended } }
      let saves := y.core.savesDue
      if saves ∧ !r.mayCut x.core then .no
      else if y.overflowed then .ok (s.putRes rid (r.elementFault u 4 0 0))
      else
        let r := (r.setUnit u (if saves then y.save else y)).onStream u (fun st => { st with core := c })
        let r := (r.syncStream u).onStream u (fun st => { st with core := after st.core })
        .ok ((List.range n).foldl (fun (s : State) i =>
          s.consumedAt rid u { x with inp := modifyAt x.inp 0 (List.drop i) } [0]) (s.putRes rid r))

/-- A stream takes the word at its input. -/
def State.agTake (s : State) (rid u : Nat) (c : StreamCore) (after : StreamCore → StreamCore) : AgGot :=
  s.agTakeN rid u 1 none c after

/-- GRID_LOOKUP_QUERY: the query at the input enters the stream's queue of 64 (R238, R279). -/
def State.gridQuery (s : State) (rid u : Nat) : AgGot :=
  match s.res.find? rid with
  | none => .no
  | some r0 =>
    match (r0.ag u).bind (fun v => if v.p.out ∨ v.st.frozen then none else r0.startPass u v) with
    | none =>
      -- a query after the last pass is discarded
      (match r0.ag u with
       | some v =>
         if !v.p.out ∧ !v.st.core.active ∧ (v.x.head 0).isSome ∧ 0 < v.x.core.begun ∧ r0.gosFor u ≤ v.x.core.begun
             ∧ (r0.loose u ∨ r0.rootDone) then s.agTakeN rid u 1 (some true) v.st.core id
         else .no
       | none => .no)
    | some r =>
      match r.ag u with
      | none => .no
      | some v =>
        match v.st.core.bound, v.x.head 0, v.st.core.held with
        | some (.grid _), some t, held =>
          if 64 ≤ held.length ∨ ((held.getLast?).map (·.rank)) = some 7 then .no
          else
            let cut := (v.x.consume false [0]).core.savesDue
            (s.putRes rid r).agTake rid u { v.st.core with held := held ++ [{ t with cut := cut }] } id
        | _, _, _ => .no

def execGridLookupQuery (rid stream : Nat) (s : State) : Out :=
  inMotionAt rid stream (fun s => s.agAct rid stream (s.gridQuery rid stream)) s

/-! ### Writing -/

/-- The exponent of a finite value that is not zero. -/
def exponentOf : Num.FV → Option Int
  | .fin _ m e => some (e + Nat.log2 m)
  | _ => none

/-- The largest exponent of a format (R87). No port but those of R87's table is given one: with BS = 1 an F64 or integer port takes
that of F4E2. DESIGN CHOICE: log 90. -/
def topOf (f : Nat) : Int :=
  match f with
  | 1 | 3 => 127
  | 2 | 5 => 15
  | 4 => 8
  | _ => 2

/-- The scale that the AG chooses for a burst (R87). -/
def chosenScale (f : Nat) (xs : List Num.FV) : Nat :=
  match xs.filterMap exponentOf with
  | [] => 127
  | e :: es => (clampInt 0 254 (es.foldl max e - topOf f + 127)).toNat

/-- One draw of a port's generator (R90). -/
def drawGen (x : BitVec 32) : BitVec 32 :=
  let x := x ^^^ (x <<< 13)
  let x := x ^^^ (x >>> 17)
  x ^^^ (x <<< 5)

/-- Element `l` of a token at a writing port: active, and its bits. -/
def AgView.active (v : AgView) (t : Token) (l : Nat) : Bool := t.v.lm.getLsbD (if v.d.ty = 1 then 2 * l else l)

def AgView.bitsAt (v : AgView) (t : Token) (l : Nat) : BitVec 72 :=
  if v.d.ty = 1 then t.v.pair l else (t.v.lane l).setWidth 72

/-- The stored bits of an element and the flags, with the port's rounding and random bits `rnd` (R86 to R90). RND 5 of an F64
port rounds stochastically as for the six formats that R119 names. DESIGN CHOICE: log 91. -/
def AgView.lower (v : AgView) (e8 : Nat) (rnd : BitVec 32) (b : BitVec 72) : Nat × Flags :=
  let f := v.p.sfmt
  let how : Num.OutRound := if v.p.rnd = 5 then .sr 32 rnd.toNat else .mode (Num.RMode.ofCode (if v.p.rnd = 7 then 0 else v.p.rnd))
  if f = 0 then Num.convOut .f64 127 how (Num.unpackFD b)
  else if f ≤ 6 then Num.convOut (sfloat f) e8 how (Num.unpackFF (b.setWidth 36))
  else if storageBits f = 64 then (pairTo64 b, 0#5)
  else (intOut f (b.setWidth 36), 0#5)

/-- A write is placed in the stream's window buffer, checked (R242, R349, R350). A full buffer asks for a cut and holds the stream
until every write of a complete window has left it: were it to stand still until the cut asked for is complete, it could never take the
token that carries it. DEDUCED: log 89. -/
def State.agPlace (s : State) (rid u : Nat) (v : AgView) (now : Bool) (va n k : Nat) (align : Bool) (kind : Acc)
    (refused : Nat → Bool) (op : Nat → BufOp) (f : UnitSt → UnitSt) (c : StreamCore) : AgGot :=
  if align ∧ va % n ≠ 0 then .fail 3 va k
  else if 4096 ≤ v.x.buf.length then
    (if v.x.core.cut < v.x.cutTo then .no else .ok (s.onRes rid (fun r => r.fullCut u)))
  else if !now ∧ (s.res.find? rid).any (·.draining v.x) then .no
  else match s.streamPlace now v.st va kind with
    | .walk => .walk va kind
    | .fail why => .fail why va k
    | .pa pa =>
      if refused pa then .fail 2 va k
      else
        let e : BufEntry := { win := v.x.core.cut + 1, pa := pa, va := va, k := k, op := op pa }
        .ok (s.onRes rid (fun r => (r.onUnit u (fun x => f { x with buf := x.buf ++ [e] })).onStream u (fun st =>
          { st with core := c })))

/-- The positions of the burst under way that are still to be placed: element, token, lane. Active lanes past the end of the
pattern write nothing, and enter neither the choice of the scale nor the draws of the generator (R87, R90). DESIGN CHOICE: log
92. -/
def AgView.positions (v : AgView) (p : Pattern) (ts : List Token) : List (Nat × Token × Nat) :=
  let base := v.st.core.tokens - v.st.core.held.length
  (ts.zipIdx.flatMap (fun t => (List.range v.lanes).map (fun l => ((base + t.2) * v.lanes + l, t.1, l)))).filter
    (fun x => v.active x.2.1 x.2.2 && decide (x.1 < p.count))

/-- The stream takes the last `n` words of a pass, of a burst or of a query; `last` says whether they end the pass. -/
def State.agTakeLast (s : State) (rid u : Nat) (v : AgView) (n : Nat) (last : Bool) (c : StreamCore) : AgGot :=
  if last then
    (match s.agTakeN rid u n (some true) (v.passEnd c) id with
     | .ok s =>
       let left := v.x.buf.length
       .ok ((s.onRes rid (fun r => r.onStream u (fun st =>
         { st with left := if st.cmd.isSome ∧ st.left.isNone ∧ st.next.isNone then some left else st.left,
                   ends := if left = 0 then st.ends else st.ends ++ [left] }))).settleStream rid u)
     | g => g)
  else s.agTakeN rid u n none c id

/-- The master of a sink's checks: the residency, or the core that steps it (R356, R418). -/
def State.sinkMaster (s : State) (r : Residency) (now : Bool) : Nat := if now then s.cur else resMaster r.lid

/-- One action of a writing stream over a pattern with the token `t` at its input: it takes the token into a burst that
is not whole, or places an element, or the burst's scale, or takes the burst's last token. -/
def State.agWritePattern (s : State) (rid u : Nat) (r : Residency) (v : AgView) (now : Bool) (p : Pattern) (t : Token) : AgGot :=
  let c := v.st.core
  let ts := c.held ++ [t]
  let total := c.tokens + 1
  if ts.length < v.burst ∧ t.rank ≠ 7 then s.agTake rid u { c with held := ts, tokens := total } id
  else
    let ps := v.positions p ts
    let xs := ps.map (fun x => Num.unpackFF ((v.bitsAt x.2.1 x.2.2).setWidth 36))
    let e8 := if v.p.bs then chosenScale v.p.sfmt xs else 127
    match ps.find? (fun x => c.issued ≤ x.1) with
    | some (k, tok, l) =>
      let gen := if v.p.rnd = 5 then drawGen c.gen else c.gen
      let (bits, fl) := v.lower e8 gen (v.bitsAt tok l)
      let (va, odd) := v.elemAt p k
      let op (pa : Nat) : BufOp :=
        if v.p.sfmt = 6 then .half odd bits else if s.home pa = .reg then .reg v.size bits else .write v.size bits
      s.agPlace rid u v now va v.size k true .write (fun pa => s.placeRefused (s.sinkMaster r now) pa v.size) op
        (fun x => { x with core := { x.core with sticky := x.core.sticky ||| fl } }) { c with issued := k + 1, gen := gen }
    | none =>
      if v.p.bs ∧ c.issued ≤ total * v.lanes then
        let b := v.burstOf (total - 1)
        s.agPlace rid u v now ((p.scale + b) % 2 ^ 64) 1 (total * v.lanes) false .write
          (fun pa => s.placeRefused (s.sinkMaster r now) pa 1) (fun _ => .write 1 e8) id { c with issued := total * v.lanes + 1 }
      else s.agTakeLast rid u v 1 (t.rank = 7) { c with held := [], tokens := total, issued := total * v.lanes }

/-- The tokens at the front of an input. -/
def frontTokens : List ChWord → List Token
  | .tok t :: ws => t :: frontTokens ws
  | _ => []

/-- One action of a scatter stream with the token `t` at its input (R280, R339). A query that carries CUT is taken with its
last gradient token; any other token of a query is taken as it comes, and only the last can end the pass. -/
def State.agWriteGrid (s : State) (rid u : Nat) (r : Residency) (v : AgView) (now : Bool) (g : Region) (t : Token) : AgGot :=
  let c := v.st.core
  let whole := c.held.isEmpty && t.cut
  let here := if whole then (frontTokens (v.x.inp.getD 0 [])).take (g.width + 1) else [t]
  let ts := c.held ++ here
  let total := c.tokens + here.length
  if ts.length < g.width + 1 then
    (if whole then .no else s.agTakeN rid u 1 (some false) { c with held := ts, tokens := total } id)
  else
    match ts with
    | q :: grads =>
      let (adds, fl) := g.scatter q grads
      (match adds[c.issued]? with
       | some (va, x) =>
         s.agPlace rid u v now va (featureBytes g.ef) c.issued true .atomic (s.addRefused (s.sinkMaster r now) g.ef)
           (fun _ => .add g.ef x) (fun y => { y with core := { y.core with sticky := y.core.sticky ||| fl } })
           { c with issued := c.issued + 1 }
       | none =>
         let last := q.rank = 7 || ((grads.getLast?).map (fun t => decide (t.rank = 7))).getD false
         s.agTakeLast rid u v here.length last { c with held := [], tokens := total, issued := 0 })
    | [] => .no

/-- AG_STREAM_WRITE and GRID_SCATTER_QUERY: one action of a sink stream. -/
def State.agWrite (s : State) (rid u : Nat) (now grid : Bool) : AgGot :=
  match s.res.find? rid with
  | none => .no
  | some r0 =>
    match r0.ag u with
    | none => .no
    | some v0 =>
      match v0.x.head 0 with
      | none => .no
      | some t =>
        if !v0.p.out ∨ v0.st.frozen ∨ v0.st.walking ∨ v0.x.switched then .no
        else match r0.startPass u v0 with
          | none =>
            if !grid ∧ 0 < v0.x.core.begun ∧ r0.gosFor u ≤ v0.x.core.begun ∧ (r0.loose u ∨ r0.rootDone) then
              s.agTakeN rid u 1 (some true) v0.st.core id
            else .no
          | some r =>
            match r.ag u with
            | none => .no
            | some v =>
              let s := s.putRes rid r
              match v.st.core.bound with
              | some (.pattern p) => if grid then .no else s.agWritePattern rid u r v now p t
              | some (.grid g) => if grid then s.agWriteGrid rid u r v now g t else .no
              | none => .no

def execAgStreamWrite (rid stream : Nat) (s : State) : Out :=
  inMotionAt rid stream (fun s => s.agAct rid stream (s.agWrite rid stream false false)) s

def execGridScatterQuery (rid stream : Nat) (s : State) : Out :=
  inMotionAt rid stream (fun s => s.agAct rid stream (s.agWrite rid stream false true)) s

/-! ### Answers -/

/-- The element that an access of a stream belongs to. -/
def AgView.keyElem (v : AgView) (key : Nat) : Nat :=
  if key % 2 = 0 then key / 2 else (key / 2 - v.st.core.bursts) * v.p.burst * v.lanes

/-- Every read of the first pass has returned: the tile that it drains is EMPTY (R233, R295). -/
def State.readsBack (s : State) (rid u : Nat) : State :=
  match (s.res.find? rid).bind (fun r => r.ag u) with
  | some v =>
    (match v.st.core.bound, v.st.cmd with
     | some (.pattern p), some id =>
       if v.st.core.active ∧ p.count ≤ v.st.core.issued ∧ !s.streamBusy rid u then s.endTiles id 2 else s
     | _, _ => s)
  | none => s

/-- The buffered write that a stream's request `r` was. -/
def Req.asEntry (r : Req) (key win : Nat) : List BufEntry :=
  let e (op : BufOp) : List BufEntry := [{ win := win, pa := r.pa, va := r.ea, k := key / 2, op := op }]
  match r.op with
  | .write n v => e (.write n v.toNat)
  | .half odd v => e (.half odd v)
  | _ => []

/-- A stream that was frozen goes on: its translation entry is dropped, and what a peer refused is written again (R358). -/
def Residency.unfreeze (r : Residency) (u : Nat) : Residency :=
  match r.streams.find? u with
  | some st =>
    let n := st.back.length
    (r.onUnit u (fun x => { x with buf := st.back ++ x.buf })).setStream u
      { st with frozen := false, entry := none, back := [], left := st.left.map (· + n), ends := st.ends.map (· + n) }
  | none => r

/-- An answer or acknowledgement returns to a stream, or a fault freezes it (R242, R404). -/
def State.streamAnswer (s : State) (rid u : Nat) : Option State :=
  let mine (q : Nat × Req) : Option (Nat × Nat × Req × Answer) :=
    match q.2.owner, q.2.st with
    | .stream i j k, .answered a => if i = rid ∧ j = u then some (q.1, k, q.2, a) else none
    | _, _ => none
  match (s.reqs.filterMap mine), (s.res.find? rid).bind (fun r => r.ag u) with
  | (id, key, q, a) :: _, some v =>
    let s := { s with reqs := s.reqs.drop id }
    let keep (n : Nat) : State := s.onRes rid (fun r => r.onStream u (fun st => { st with answers := st.answers.put key n }))
    let fault (why : Nat) : State :=
      let s := s.onRes rid (fun r => r.onStream u (fun st => { st with back := st.back ++ q.asEntry key (r.committed + 1) }))
      s.freeze rid u why q.ea (v.keyElem key)
    let s' := match a with
      | .value n _ => if v.p.out then s else (keep n).readsBack rid u
      | .denied _ => fault 2
      | .uncorrectable _ => fault 4
      | .unmapped _ => fault 1
    some (if v.p.out then s'.settleStream rid u else s')
  | (id, _, _, _) :: _, none => some { s with reqs := s.reqs.drop id }
  | [], _ => none

def execAgStreamAccessAnswer (rid stream : Nat) (s : State) : Out := .next ((s.streamAnswer rid stream).getD s)

/-- The walk of a stream ends (R228, R239). -/
def State.streamWalkDone (s : State) (rid u va : Nat) (g : WalkGot) : State :=
  let s := s.onRes rid (fun r => r.onStream u (fun st => { st with walking := false }))
  let elem := (((s.res.find? rid).bind (fun r => r.streams.find? u)).map (fun st => st.core.issued)).getD 0
  match g with
  | .page e => s.onRes rid (fun r => r.onStream u (fun st => { st with entry := some e }))
  | .denied => s.freeze rid u 2 va elem
  | .ecc => s.freeze rid u 4 va elem
  | _ => s.freeze rid u 1 va elem

end Sys2Proof.Machine
end

