-- ==== Sys2Proof/Machine/Windows.lean ====
section
/-! DEFINITION. Complete cuts, the commit of windows, rollback, and one step of WSTEP (R346 to R359, R369, R370, R431,
R432). -/

namespace Sys2Proof.Machine

/-! ### Units at rest -/

/-- An input has delivered EOS, or nothing yet; CARRY's input f rests where no loop is under way (log 24). -/
def Residency.restAt (r : Residency) (u i : Nat) : Bool :=
  match r.units[u]? with
  | none => true
  | some x =>
    let loops := match r.rec' u with
      | some (.rop o) => o.op = 3 && i = 2 && !x.core.loop
      | _ => false
    x.core.eos.getD i false || loops ||
      (match r.connTo u i with
       | some (n, c) =>
         (match (r.plan.storeOn c).bind (fun j => r.stores[j]?) with
          | some st => st.core.outOrd = 0
          | none => r.eaten.getD n 0 = 0)
       | none => true)

/-- A unit is between passes: nothing of it is in motion. -/
def Residency.idle (r : Residency) (u : Nat) : Bool :=
  match r.units[u]? with
  | none => true
  | some x =>
    let st := r.streams.find? u
    let still := match st with
      | some st => !st.core.active && st.core.held.isEmpty
      | none => true
    let link := match r.rec' u with
      | some (.elem e) => e.kind = 3 && !e.ldir
      | _ => false
    x.core.out.isEmpty && still && !x.core.pass &&
      (if link then (x.inp.getD 0 []).isEmpty && (x.core.eos.getD 0 false || x.core.fires = 0)
       else (r.plan.img.reads u).all (fun i => r.restAt u i && (x.inp.getD i []).isEmpty))

/-- A store holds nothing. -/
def StoreSt.empty (x : StoreSt) : Bool :=
  x.inp.isEmpty && x.core.slots.isEmpty && x.core.closed.isEmpty && x.core.wtok = 0 && x.core.out.isEmpty && x.tail.load == 0

/-- Nothing is on its way over connection `i`. -/
def Residency.connEmpty (r : Residency) (i : Nat) (c : Conn) : Bool :=
  ((r.branches[i]?).map (fun b => b.load == 0)).getD true
    && ((r.units[c.dst]?).map (fun x => (x.inp.getD c.dport []).isEmpty)).getD true
    && (match (r.plan.storeOn c).bind (fun j => r.stores[j]?) with
        | some st => st.empty
        | none => true)

/-! ### Complete cuts (R348) -/

/-- A connection is between passes. -/
def Residency.resting (r : Residency) (i : Nat) (c : Conn) : Bool :=
  r.restAt c.dst c.dport && r.connEmpty i c && r.idle c.src

/-- Cut `k` has been saved by every unit and store of the region and no fault has been reported. What is between passes, with
nothing on its way to it, counts as having saved it (log 24). -/
def Residency.cutReady (r : Residency) (k : Nat) : Bool :=
  let read (c : Conn) : Bool := (r.plan.img.reads c.dst).contains c.dport
  r.broken.isNone
    && r.units.zipIdx.all (fun p => decide (k ≤ p.1.core.cut) ||
      (r.idle p.2 && r.plan.conns.zipIdx.all (fun q => q.1.dst ≠ p.2 || !read q.1 || r.resting q.2 q.1)))
    && r.plan.conns.zipIdx.all (fun p =>
      match (r.plan.storeOn p.1).bind (fun j => r.stores[j]?) with
      | some st => decide (k ≤ st.core.cut) || r.resting p.2 p.1
      | none => true)

/-- A unit between passes saves cut `k` as it stands. -/
def Residency.bump (r : Residency) (k u : Nat) : Residency :=
  match r.units[u]? with
  | some x =>
    if x.core.cut < k then
      (r.setUnit u ({ x with core := { x.core with cut := k - 1, bound := true } }.save)).syncStream u
    else r
  | none => r

/-- The inputs of a connection at rest count cut `k` as delivered, in the unit and in its saved cut. -/
def Residency.bumpConn (r : Residency) (k : Nat) (c : Conn) : Residency :=
  let lift (x : UnitCore) : UnitCore := if x.cuts.getD c.dport 0 < k then { x with cuts := x.cuts.set c.dport k } else x
  let r := r.onUnit c.dst (fun x =>
    { x with core := lift x.core,
             saves := x.saves.map (fun sv => if sv.k = k then { sv with core := lift sv.core } else sv) })
  match r.plan.storeOn c with
  | some j => { r with stores := modifyAt r.stores j (fun st =>
      if st.core.cut < k then
        (let core := { st.core with cut := k }
         { st with core := core, saves := st.saves ++ [(k, core)] })
      else st) }
  | none => r

/-- A switch or a configuration step is under way: its end is the boundary that a pre-emption waits for (R375). -/
def Residency.stepping (r : Residency) : Bool := r.ending || ((r.switch.map (·.fired)).getD false)

/-- Cut `k` is complete. -/
def Residency.complete (r : Residency) (k : Nat) : Residency :=
  let still := (r.plan.conns.zipIdx.filter (fun p => r.resting p.2 p.1)).map (·.1)
  let r := (List.range r.units.length).foldl (fun r u => r.bump k u) r
  let r := still.foldl (fun r c => r.bumpConn k c) r
  let edge := r.units.zipIdx.all (fun p => !r.isSource p.2 ||
    ((p.1.saves.find? (fun sv => sv.k = k)).map (fun sv => sv.core.bound)).getD true)
  let masked := r.masked.filter (fun m => decide (k < m))
  let r : Residency := { r with cut := k, nodeSaves := r.nodeSaves ++ [(k, r.treeCut k)], masked := masked }
  if (r.preReq ∧ edge ∧ !r.stepping) ∨ r.repairReq then { r with hold := .saving } else r

/-- A MARK of the residency waits for cut `k` or a later one. -/
def State.marked (s : State) (r : Residency) (k : Nat) : Bool :=
  s.cmds.any (fun c => match c.2.disp, c.2.job with
    | .region lid, .mark m => lid = r.lid && k ≤ m
    | _, _ => false)

/-- Every source has emitted tokens: where all are at rest, all have delivered EOS (R346). -/
def Residency.sourcesRan (r : Residency) : Bool := r.units.zipIdx.all (fun p => !r.isSource p.2 || 0 < p.1.core.fires)

/-- The region closes window `k`: a unit has saved its cut, or a MARK or a pre-emption waits for it after the sources have
ended, or a repair waits, or every stream has ended and writes are still buffered (R310, R351, R361, R369). -/
def State.closes (s : State) (r : Residency) (k : Nat) : Bool :=
  decide (k ≤ r.top) || ((s.marked r k || (r.preReq && !r.stepping)) && r.sourcesRan) || r.repairReq ||
    ((List.range r.units.length).all r.idle && r.units.any (fun x => !x.buf.isEmpty || !x.undo.isEmpty))

/-! ### Commit (R349 to R351) -/

/-- A buffered write is performed at its home, where it never faults, or sent to a peer, which may refuse it (R350, R404). -/
def State.performEntry (s : State) (rid u : Nat) (r : Residency) (e : BufEntry) : State :=
  let master := resMaster r.lid
  match s.home e.pa with
  | .peer _ =>
    let send (op : AccOp) : State :=
      let q : Req := { master := master, owner := .stream rid u (2 * e.k), op := op, pa := e.pa, split := 40, pa2 := 0, ea := e.va,
                       st := .sent }
      { s.fresh with reqs := s.reqs.put s.nextId q }
    (match e.op with
     | .write n v => send (.write n (BitVec.ofNat 64 v))
     | .half odd v => send (.half odd v)
     | _ => s)
  | _ =>
    match e.op with
    | .write n v => ((s.meshWrote e.pa).store e.pa n v).setFull e.pa n
    | .half odd v =>
      (((s.meshWrote e.pa).corrected e.pa 1).store e.pa 1 (halfByte odd (s.load e.pa 1) v)).setFull e.pa 1
    | .add ef t =>
      if s.isBad e.pa (rmwBytes .mfadd ef) then s
      else ((s.arrivesAt (who r u) e.pa).update .mfadd ef .rne e.pa t true).1
    | .reg n v =>
      match apertureAt e.pa with
      | some (me, _) =>
        if s.apertureBad me (BitVec.ofNat 64 v) then s
        else (s.apertureEvent me (who r u) (BitVec.ofNat 64 v)).regWrite e.pa n v
      | none => s.regWrite e.pa n v

where
  /-- The stream's site, as the requester in a record (R389). -/
  who (r : Residency) (u : Nat) : Nat := r.siteWho (r.plan.siteOf u).1 (r.plan.siteOf u).2

/-- Every input, output queue, hop stage and slack buffer of the region is empty (R169). -/
def Residency.drained (r : Residency) : Bool :=
  r.units.all (fun x => x.core.out.isEmpty && x.inp.all List.isEmpty) && r.branches.all (fun b => b.load == 0)
    && r.stores.all (fun x => x.inp.isEmpty && x.core.out.isEmpty && x.tail.load == 0)

/-- Every sink has received EOS and no pass is left: the last window is committed without a cut (R351). Where every sink is a
writing stream, no pass is left once each has taken its last go; else once the root has reported done. A sink that has
taken tokens after an EOS, behind an unpredicated MERGE, has taken its last one when nothing is left in the region. -/
def Residency.lastWindow (r : Residency) : Bool :=
  let writes (u : Nat) : Bool := match r.rec' u with
    | some (.elem e) => e.kind = 2 && (portDecl e.word).out
    | _ => false
  let sinks := r.units.zipIdx.filter (fun p => r.isSink p.2)
  (r.rootDone || (r.allGiven && sinks.all (fun p => writes p.2 && decide (r.gosFor p.2 ≤ p.1.core.begun)))) &&
    sinks.all (fun p =>
      ((r.plan.img.reads p.2).any (fun i => p.1.core.eos.getD i false) || (p.1.core.ended && r.drained)
        || ((r.plan.img.reads p.2).isEmpty && !p.1.core.pass && decide (r.gosFor p.2 ≤ p.1.core.begun)))
        && !((r.streams.find? p.2).map (·.core.active)).getD false)

/-- The switch has reached every unit and nothing of the old graph is left (R181). -/
def Residency.allSwitched (r : Residency) : Bool := r.units.all (·.switched) && r.drained && !r.units.isEmpty

/-- Every buffered write is due: at the end, at a configuration step (log 24) or at the end of a switch. -/
def Residency.flushAll (r : Residency) : Bool := r.lastWindow || (r.rootDone && r.drained) || r.allSwitched

/-- The oldest window with buffered writes that are due. -/
def Residency.dueWindow (r : Residency) : Option Nat :=
  let limit := if r.flushAll then r.top + 1 else r.cut
  let wins := r.units.filterMap (fun x => x.buf.head?.map (·.win))
  (wins.filter (fun w => decide (w ≤ limit))).foldl (fun m w => some (match m with
    | some k => min k w
    | none => w)) none

/-- The crystal adds of a scatter stream are made in any order, other writes of a stream in any order at different homes (R246 to
R248). -/
def State.entryFree (s : State) (before : List BufEntry) (e : BufEntry) : Bool :=
  match e.op with
  | .add _ _ => true
  | _ => before.all (fun d => s.homeOf d.pa ≠ s.homeOf e.pa)

/-- The buffered writes that may be performed next, by unit and place: of the oldest window that is due. -/
def State.commitChoices (s : State) (r : Residency) : List (Nat × Nat) :=
  match r.dueWindow with
  | none => []
  | some w =>
    r.units.zipIdx.flatMap (fun p =>
      let es := p.1.buf.takeWhile (fun e => e.win = w)
      (es.zipIdx.filter (fun e => s.entryFree (es.take e.2) e.1)).map (fun e => (p.2, e.2)))

/-- The one that is performed; where there are several, the choice is free. -/
def State.commitChoice (s : State) (r : Residency) : Option (Nat × Nat) :=
  match s.commitChoices r with
  | [] => none
  | [x] => some x
  | x :: xs => some ((x :: xs).getD (Config.pick (2 * s.tick + 1) % (xs.length + 1)) x)

/-- Of `n` writes that must leave the buffer, those left once the one at place `i` has. -/
def stillLeft (i n : Nat) : Nat := if i < n then n - 1 else n

/-- Window `r.cut` is committed: undo entries and saved cuts that are no longer needed are dropped, and a MARK that waited
for it completes (R310, R351). -/
def State.committed (s : State) (rid : Nat) (r : Residency) : State :=
  let k := r.cut
  let all := r.flushAll
  let r := { r with
    committed := k,
    units := r.units.map (fun x => { x with undo := x.undo.filter (fun d => !all && k < d.win), saves := x.saves.filter (fun v => k ≤ v.k) }),
    streams := r.streams.map (fun p => (p.1, { p.2 with saves := p.2.saves.filter (fun v => k ≤ v.1) })),
    stores := r.stores.map (fun x => { x with saves := x.saves.filter (fun v => k ≤ v.1) }),
    nodeSaves := r.nodeSaves.filter (fun v => k ≤ v.1) }
  { s.putRes rid r with cmds := s.cmds.map (fun c => match c.2.disp, c.2.job with
      | .region lid, .mark m => if lid = r.lid ∧ m ≤ k then (c.1, { c.2 with job := .done }) else c
      | _, _ => c) }

/-- WINDOW_COMMIT: one buffered write is performed, or a window is committed whole, or a cut is complete. -/
def State.windowCommit (s : State) (rid : Nat) : Option State :=
  match s.res.find? rid with
  | none => none
  | some r =>
    match s.commitChoice r with
    | some (u, i) =>
      (match r.units[u]?, (r.units[u]?).bind (fun x => x.buf[i]?) with
       | some x, some e =>
         let left (st : StreamSt) : StreamSt :=
           { st with left := st.left.map (stillLeft i), ends := (st.ends.map (stillLeft i)).filter (0 < ·) }
         let t := s.putRes rid ((r.setUnit u { x with buf := x.buf.eraseIdx i }).onStream u left)
         let t := (t.performEntry rid u r e).settleStream rid u
         if !s.inCopy e.pa ∧ s.logFits t then some t else none
       | _, _ => none)
    | none =>
      let busy := r.streams.any (fun p => ((r.rec' p.1).map (fun x => match x with
        | .elem e => (portDecl e.word).out
        | _ => false)).getD false && (s.streamBusy rid p.1 || !p.2.back.isEmpty))
      if (r.committed < r.cut ∨ (r.flushAll ∧ r.units.any (fun x => !x.undo.isEmpty))) ∧ !busy then some (s.committed rid r)
      else if r.flowing ∧ r.committed = r.cut ∧ s.closes r (r.cut + 1) ∧ r.cutReady (r.cut + 1) then
        some (s.putRes rid (r.complete (r.cut + 1)))
      else none

def execWindowCommit (rid : Nat) (s : State) : Out := .next ((s.windowCommit rid).getD s)

/-! ### Rollback (R353) -/

/-- The read-modify-write updates of the open window are undone, newest first. A word that becomes full serves those that wait
for it (R257). -/
def State.undoWindow (s : State) (undo : List Undo) (cut : Nat) : State :=
  ((undo.filter (fun d => cut < d.win)).reverse).foldl (fun (s : State) d =>
    let s := s.writeMem (8 * d.word) 8 d.old
    if d.full then s.setFull (8 * d.word) 8 else { s with full := removeNat d.word s.full }) s

/-- Words up to the `n`-th that carries a cut, or to an EOS. -/
def uptoCut : Nat → List ChWord → List ChWord
  | 0, _ => []
  | _, [] => []
  | n + 1, w :: ws =>
    let eos := match w with
      | .tok t => t.rank == 7
      | _ => false
    w :: uptoCut (if eos then 0 else if w.isCut then n else n + 1) ws

/-- The words on the circuit into an input, the nearest first: behind its store where it has one. -/
def Residency.onTheWay (r : Residency) (u port : Nat) : List ChWord :=
  let of (b : BranchSt) : List ChWord := b.hops.reverse.filterMap id ++ b.slack
  match r.connTo u port with
  | some (i, c) =>
    (match (r.plan.storeOn c).bind (fun j => r.stores[j]?) with
     | some st => of st.tail ++ st.core.out
     | none => ((r.branches[i]?).map of).getD [])
  | none => []

/-- The words that an input must still be given in the state of cut `k`, beside those logged: those before the cut that it has not
consumed (R347, R353). A BE's link does not send its words again (log 27). -/
def Residency.owed (r : Residency) (k u port : Nat) : List ChWord :=
  match r.units[u]?, r.rec' u with
  | some x, some un =>
    let inp := (x.inp.getD port []).filter (fun w => !w.probes)
    let link := match un with
      | .elem e => e.kind = 3 && !e.ldir
      | .rop _ => false
    if link then inp
    else if x.core.eos.getD port false then inp.take (x.again.getD port 0)
    else uptoCut (k - x.core.cuts.getD port 0) (inp ++ (r.onTheWay u port).filter (fun w => !w.probes))
  | _, _ => []

/-- A unit's state at a cut, as it was saved, without the words of its output queue that have left since. -/
def UnitCore.saved (now c : UnitCore) : UnitCore :=
  { c with out := c.out.drop (c.out.length - (now.out.length - (now.words - c.words))) }

/-- A unit in its saved state, with its logged words and those that it is owed in front of its inputs. -/
def UnitSt.restore (x : UnitSt) (k : Nat) (owed : Nat → List ChWord) : UnitSt :=
  match x.saves.find? (fun v => v.k = k) with
  | some v =>
    let inp := (List.range 3).map (fun i => v.logs.getD i [] ++ owed i)
    let core := x.core.saved v.core
    { x with core := core, inp := inp, again := inp.map List.length, saves := [{ v with core := core, logs := [[], [], []] }],
                       buf := x.buf.filter (fun e => e.win ≤ k), undo := x.undo.filter (fun d => d.win ≤ k), run := LaneRun.idle,
                       switched := false }
  | none => x

/-- A lookup stream's state at a cut, without the tokens of its saved queries that it has delivered since (R279, R348). -/
def StreamCore.delivered (c : StreamCore) (n : Nat) : StreamCore :=
  match c.bound with
  | some (.grid g) =>
    let t := c.tokens + min n (c.held.length * g.width - c.tokens % g.width)
    let held := c.held.drop (t / g.width - c.tokens / g.width)
    if held.isEmpty ∧ ((c.held.getLast?).map (·.rank)) = some 7 then { c with active := false, issued := 0, tokens := 0, held := [] }
    else { c with tokens := t, held := held }
  | _ => c

/-- A stream in its saved state: its answers are discarded and a freeze is over (R353, R359). A later binding stays. `sent` tokens
have entered its output queue since. -/
def StreamSt.restore (st : StreamSt) (k sent : Nat) : StreamSt :=
  match List.find? (fun v => v.1 = k) st.saves with
  | some (_, c) =>
    let c := c.delivered sent
    let now := st.next.orElse (fun _ => st.core.bound)
    let (core, next) :=
      if c.bound = now then (c, none)
      else if c.active ∧ now.isSome then (c, now)
      else ({ c with bound := now, bursts := 0, active := false }, none)
    { st with core := core, next := next, answers := [], entry := none, walking := false, frozen := false, saves := [(k, c)],
              left := if core.active then none else st.left }
  | none => st

/-- The passes of a writing stream that have ended by the state of a cut and whose writes are not all performed. -/
def endsAt (ends : List Nat) (now before : UnitCore) (active activeBefore : Bool) (buf : Nat) : List Nat :=
  let ended (c : UnitCore) (a : Bool) : Nat := c.begun - (if a then 1 else 0)
  ((ends.take (ends.length - (ended now active - ended before activeBefore))).map (min buf)).filter (0 < ·)

/-- A log holds what its input must deliver again; after a restore the save logs anew, from the words put in front. -/
def StoreSt.restore (x : StoreSt) (k : Nat) : StoreSt :=
  match List.find? (fun v => v.1 = k) x.saves with
  | some v => { x with core := v.2, inp := [], eaten := v.2.outOrd, saves := [v], tail := BranchSt.init (x.tail.hops.length + 1) }
  | none => x

/-- A reading stream in its cut state issues again the accesses whose answers it has not delivered (R353). -/
def AgView.reissue (v : AgView) : StreamCore :=
  if v.p.out then v.st.core
  else match v.st.core.bound with
    | some (.pattern _) => { v.st.core with issued := v.st.core.tokens * v.lanes }
    | some (.grid g) => { v.st.core with issued := v.st.core.tokens / g.width * g.words }
    | none => { v.st.core with issued := 0 }

/-- Every unit, store, stream and controller node of the region in its cut state; branches are empty. -/
def Residency.restore (r : Residency) : Residency :=
  let k := r.cut
  let (nodes, iter) := match List.find? (fun v => v.1 = k) r.nodeSaves with
    | some v => (v.2.1, v.2.2)
    | none => (r.nodes, r.iter)
  let units := r.units.zipIdx.map (fun p => UnitSt.restore p.1 k (r.owed k p.2))
  let r : Residency := { r with
    units := units, stores := r.stores.map (fun x => StoreSt.restore x k),
    streams := r.streams.map (fun p =>
      (p.1, match r.units[p.1]?, units[p.1]? with
        | some x, some y =>
          let st := StreamSt.restore p.2 k (x.core.words - y.core.words)
          { st with left := st.left.map (min y.buf.length),
                    ends := endsAt p.2.ends x.core y.core p.2.core.active st.core.active y.buf.length }
        | _, _ => p.2)),
    nodes := nodes, iter := iter, rootDone := false,
    branches := r.branches.map (fun b => BranchSt.init (b.hops.length + 1)),
    nodeSaves := r.nodeSaves.filter (fun v => v.1 ≤ k) }
  let r : Residency := { r with streams := r.streams.map (fun p =>
    (p.1, match r.ag p.1 with
      | some v => { p.2 with core := v.reissue }
      | none => p.2)) }
  let due (c : Conn) : Nat := ((r.units[c.dst]?).map (fun x => tokens (x.inp.getD c.dport []))).getD 0
  { r with
    eaten := r.plan.conns.map (fun c =>
      let n := ((r.units[c.src]?).map (fun x => if c.fout then x.core.cnt else x.core.outOrd - tokens x.core.out)).getD 0
      match r.plan.storeOn c with
      | some _ => n
      | none => n - due c),
    stores := r.stores.zipIdx.map (fun p =>
      match r.plan.stores[p.2]? with
      | some q => { p.1 with eaten := p.1.core.outOrd -
          ((r.units[q.dst]?).map (fun x => tokens (x.inp.getD q.dport []))).getD 0 }
      | none => p.1) }

/-- A rollback supersedes a freeze: the memory-port records of the residency are no longer about it (R359). -/
def State.supersede (s : State) (rid : Nat) : State :=
  let s := s.onRes rid (fun r => { r with recs := r.recs.filter (fun x => x.kind ≠ 2) })
  { s with recq := s.recq.map (fun q => (q.1, q.2.map (fun p =>
      if p.rid = some rid ∧ p.kind = 2 then { p with rid := none } else p))) }

/-- Steps 1 to 3 of a rollback of residency `rid`. -/
def State.rollBack (s : State) (rid : Nat) : State :=
  match s.res.find? rid with
  | none => s
  | some r =>
    let s := r.units.foldl (fun (s : State) x => s.undoWindow x.undo r.cut) s
    let mine (o : Owner) : Bool := match o with
      | .stream i _ _ => i == rid
      | _ => false
    let s := { s with reqs := s.reqs.filter (fun q => !(mine q.2.owner && (match q.2.op with
                                | .read _ => true
                                | _ => false))),
                      walks := s.walks.filter (fun w => match w.2.who with
                                | .stream i _ => i ≠ rid
                                | _ => true) }
    (s.putRes rid r.restore).supersede rid

/-- The writes that a residency ended by WSTEP still has: those of complete windows are made, and the open window is undone and
discarded (R350, R355). -/
def State.closeOut (s : State) (rid : Nat) : State :=
  match s.res.find? rid with
  | some r =>
    let s := r.units.foldl (fun (s : State) x => s.undoWindow x.undo r.cut) s
    r.units.zipIdx.foldl (fun (s : State) p =>
      (p.1.buf.filter (fun e => e.win ≤ r.cut)).foldl (fun s e => s.performEntry rid p.2 r e) s) s
  | none => s

/-- ROLLBACK after an element fault: the region is held and the record written. A stop that is complete is ended first; one that is
not is abandoned (R386). -/
def execRollback (rid : Nat) (s : State) : Out :=
  match s.res.find? rid with
  | some r =>
    match r.broken with
    | some rec' =>
      if s.stopHolds rid then .next s
      else .next ((((s.abandonStops rid).rollBack rid).onRes rid (fun r => { r with broken := none, hold := .fault })).postRecord rec')
    | none => .next s
  | none => .next s

/-! ### One step of WSTEP (R356) -/

/-- The units and stores in topological order; store `j` has the number of units + j. -/
def Plan.stepOrder (p : Plan) : List Nat :=
  let n := p.img.units.length
  let fb (c : Conn) : Bool := match p.img.units[c.dst]? with
    | some (.rop o) => o.op = 3 && c.dport = 2
    | _ => false
  topoOrder (n + p.stores.length) ((p.conns.filter (fun c => !fb c)).flatMap (fun c =>
    match p.storeOn c with
    | some j => [(c.src, n + j), (n + j, c.dst)]
    | none => [(c.src, c.dst)]))

/-- Words in slack buffers and store outputs enter the inputs that are free. -/
def Residency.pull (r : Residency) : Residency :=
  r.plan.conns.zipIdx.foldl (fun (r : Residency) p =>
    let r := match r.branches[p.2]? with
      | some b =>
        (match b.slack with
         | w :: ws => if r.destFree p.1 then { r with branches := r.branches.set p.2 { b with slack := ws } }.deliver p.1 w else r
         | [] => r)
      | none => r
    match r.plan.storeOn p.1 with
    | some j =>
      (match r.stores[j]? with
       | some st =>
         (match st.core.out with
          | w :: ws =>
            if r.inputRoom p.1.dst p.1.dport then
              (r.onStore j { st with core := { st.core with out := ws } }).onUnit p.1.dst (·.arrive p.1.dport w)
            else r
          | [] => r)
       | none => r)
    | none => r) r

/-- What an attempt to step a unit gives. -/
inductive Stepped where
  | no
  | fired (s : State) (fl : Flags)
  /-- An enabled flag, or a cut-log overflow with its WHY and input. -/
  | fault (why port : Nat) (fl : Flags)
  /-- A memory-port fault: WHY, address and element. -/
  | port (why va k : Nat)
  /-- A source's read of `n` bytes at a peer, which must answer first (R405). -/
  | ask (s : State) (pa va n : Nat)
  /-- A page that must be walked first. -/
  | walk (s : State) (va : Nat) (k : Acc)

/-- Everything that unit `u` has in its output queue is placed in its branches. -/
def State.flushOut (s : State) (rid u : Nat) : Nat → State
  | 0 => s
  | n + 1 =>
    match s.res.find? rid with
    | some r => if r.canTake u then (s.takeHead rid u).flushOut rid u n else s
    | none => s

/-- A stream's read made by the core that steps it: its value, its WHY, or a peer or a walk that must answer first. -/
inductive ReadGot where
  | ok (s : State) (v : Nat)
  | fail (why : Nat)
  | ask (pa : Nat)
  | walk

def State.readNow (s : State) (st : StreamSt) (va n : Nat) : ReadGot :=
  if va % n ≠ 0 then .fail 3
  else match s.streamPlace true st va .read with
    | .fail why => .fail why
    | .walk => .walk
    | .pa pa =>
      match s.home pa, s.me.peeked with
      | .peer k, some (a, why, v) =>
        if a ≠ va then (if s.peerRefuses s.cur k pa .read then .fail 2 else .ask pa)
        else if why ≠ 0 then .fail why
        else .ok (s.setMe { s.me with peeked := none }) v
      | .peer k, none => if s.peerRefuses s.cur k pa .read then .fail 2 else .ask pa
      | _, _ =>
        match s.readAt s.cur pa n va with
        | (s, .value v _) => .ok s v
        | (_, .uncorrectable _) => .fail 4
        | _ => .fail 2

/-- What filling a source's next token gives. -/
inductive FillGot where
  | ready (s : State)
  | fail (why va k : Nat)
  | ask (s : State) (pa va n : Nat)
  | walk (s : State) (va : Nat) (k : Acc)

/-- The accesses of a reading stream's next token or query are made at once, as the core. -/
def State.fillNow (s : State) (rid u : Nat) : Nat → FillGot
  | 0 => .ready s
  | fuel + 1 =>
    match s.res.find? rid with
    | none => .ready s
    | some r0 =>
      match (r0.ag u).bind (fun v => r0.startPass u v) with
      | none => .ready s
      | some r =>
        match r.ag u with
        | none => .ready s
        | some v =>
          match s.nextRead rid u v with
          | some (key, va, n, k) =>
            let due := match v.st.core.bound with
              | some (.pattern _) => k / v.lanes = v.st.core.tokens
              | _ => true
            if !due then .ready s
            else match s.readNow v.st va n with
              | .ok s x =>
                let r := r.onStream u (fun st => { st with
                  answers := st.answers.put key x, core := { st.core with issued := if key % 2 = 0 then k + 1 else k } })
                (s.putRes rid r).fillNow rid u fuel
              | .fail why => .fail why va k
              | .ask pa => .ask s pa va n
              | .walk => .walk s va .read
          | none => .ready (s.putRes rid r)

/-- A sink stream places what its next token writes and takes it. -/
def State.writeNow (s : State) (rid u : Nat) (grid : Bool) (fires : Nat) : Nat → Stepped
  | 0 => .no
  | fuel + 1 =>
    match s.agWrite rid u true grid with
    | .no => .no
    | .walk va k => .walk s va k
    | .fail why va k => .port why va k
    | .ok s =>
      if (((s.res.find? rid).bind (fun r => r.units[u]?)).map (fun x => decide (fires < x.core.fires))).getD true then .fired s 0#5
      else s.writeNow rid u grid fires fuel

/-- Unit `u` of residency `rid` fires if it can. A source that has closed the window fires no more. -/
def State.stepUnit (s : State) (rid u : Nat) : Stepped :=
  match s.res.find? rid with
  | none => .no
  | some r =>
    let n := r.units.length
    if n ≤ u then
      match s.storeWrite rid (u - n) with
      | some s => .fired s 0#5
      | none =>
        if ((r.stores[u - n]?).map (fun x => x.core.out.isEmpty)).getD false then
          (match s.storeRead rid (u - n) with
           | some s => .fired s 0#5
           | none => .no)
        else .no
    else
      match r.units[u]?, r.rec' u with
      | some x, some (.rop o) =>
        let op := u - r.plan.img.elems.length
        (match s.tryRop rid op o (fun r f => r.outRoom u f) with
         | some t =>
           (match (t.res.find? rid).bind (·.broken) with
            | some _ => .fault 4 0 0#5
            | none => if x.core.fires < (((t.res.find? rid).bind (fun r => r.units[u]?)).map (·.core.fires)).getD 0 then .fired t 0#5
              else .no)
         | none => .no)
      | some x, some (.elem e) =>
        let free := x.core.out.isEmpty && r.outRoom u false
        if (r.isSource u ∧ r.cut < x.core.cut) ∨ !free then .no
        else if e.kind = 2 then
          (if (portDecl e.word).out then
             let grid := match (r.streams.find? u).bind (·.core.bound) with
               | some (.grid _) => true
               | _ => false
             s.writeNow rid u grid x.core.fires 65536
           else
             match s.fillNow rid u 65536 with
             | .fail why va k => .port why va k
             | .ask s pa va n => .ask s pa va n
             | .walk s va k => .walk s va k
             | .ready s1 =>
               let s1 := match s1.gridQuery rid u with
                 | .ok t => t
                 | _ => s1
               match s1.agDeliver rid u true with
               | .ok t => .fired (t.flushOut rid u 2) 0#5
               | _ => .no)
        else match r.opOf u with
          | some (_, o, w) =>
            (match s.tryFire rid u o w true with
             | .no => .no
             | .full => .no
             | .overflow => .fault 4 0 0#5
             | .fault fl => .fault 1 0 fl
             | .done t fl => .fired (t.flushOut rid u 2) fl)
          | none => .no
      | _, _ => .no

/-- Cut-only words at the heads of inputs are taken, without a firing (R431). -/
def Residency.takeAllCuts (r : Residency) : Residency :=
  (List.range r.units.length).foldl (fun (r : Residency) u => [0, 1, 2].foldl (fun (r : Residency) p => (r.takeCutOnly u p).getD r) r) r

/-- The words that can move without a firing have moved: cut-only words, those in output queues and those on the circuits. -/
def State.settle (s : State) (rid : Nat) : Nat → State
  | 0 => s
  | n + 1 =>
    let s := s.onRes rid (fun r => r.takeAllCuts.pull)
    match s.res.find? rid with
    | some r => (r.units.zipIdx.foldl (fun (s : State) x => s.flushOut rid x.2 x.1.core.out.length) s).settle rid n
    | none => s

/-- The region leaves WSTEP: of the words that stand beyond their slack, each moves to the first hop stage where there is one (R355,
R356). -/
def Residency.leaveStep (r : Residency) : Residency :=
  { r with branches := r.branches.zipIdx.map (fun b =>
      match r.plan.conns[b.2]?, b.1.hops with
      | some c, none :: hs => if c.slack < b.1.slack.length then { slack := b.1.slack.tail, hops := b.1.slack.head? :: hs } else b.1
      | _, _ => b.1) }

/-- The first unit, in the order of the region, that can fire. -/
def State.stepFirst (s : State) (rid : Nat) : List Nat → Option (Nat × Stepped)
  | [] => none
  | u :: us =>
    match s.stepUnit rid u with
    | .no => s.stepFirst rid us
    | x => some (u, x)

end Sys2Proof.Machine
end

