-- ==== Sys2Proof/Machine/Loading.lean ====
section
/-! DEFINITION. Reading images and bindings, configuring a region, configuration steps and the timed switch (R168, R169, R178
to R181, R204, R205, R211, R278 to R280, R299, R331, R349, R431, R435). -/

namespace Sys2Proof.Machine

/-! ### Reading images (R179, R205) -/

/-- The `n` bytes at `va`, each read by the master distributor. -/
def State.mdBytes (s : State) (va n : Nat) : Option (List Byte) :=
  (List.range n).mapM (fun i =>
    match s.reach (va + i) .read with
    | some pa => if !s.mdHome pa .read ∨ s.isBad pa 1 then none else some (BitVec.ofNat 8 (s.load pa 1))
    | none => none)

/-- Reading the image at `va` has corrected the words in which it found a single-bit error (R230). -/
def State.mendImage (s : State) (va : Nat) : State :=
  match s.mdBytes va 64 with
  | some h => s.mend va (max 64 (fieldAt h 24 4))
  | none => s

def headerRefused : Refuse := { code := .type, sect := 0, idx := 0 }

/-- The image at `va`, with R179 steps 1 and 2. -/
def State.readImage (s : State) (va : Nat) : Except Refuse Image :=
  match s.mdBytes va 64 with
  | none => .error headerRefused
  | some h =>
    let n := fieldAt h 24 4
    if n < 64 ∨ 64 * 2 ^ 20 < n then .error headerRefused
    else match s.mdBytes va n with
      | none => .error headerRefused
      | some bs => parseImage bs

/-- The addresses of an entry's images. -/
def State.imageAddrs (s : State) (e : Entry) : Option (List Nat) :=
  if e.nimg = 1 then some [e.img]
  else (s.mdBytes e.img (8 * e.nimg)).map (fun bs => (List.range e.nimg).map (fun i => fieldAt bs (8 * i) 8))

/-- Image `i` of the list, of the launch record's shape. -/
def State.listedImage (s : State) (shape i va : Nat) : Except Refuse Image :=
  match s.readImage va with
  | .error r => .error r
  | .ok im => if im.shape = shape then .ok im else .error { code := .place, sect := 8, idx := i }

/-- The list of an entry and its first image, or the number of the image refused. -/
def State.entryImages (s : State) (e : Entry) : Except (Nat × Refuse) (List Nat × Image) :=
  match s.imageAddrs e with
  | none => .error (0, headerRefused)
  | some l =>
    let each := l.zipIdx.map (fun p => s.listedImage e.shape p.2 p.1)
    match each.zipIdx.findSome? (fun p => match p.1 with
      | .error r => some (p.2, r)
      | .ok _ => none), each with
    | some x, _ => .error x
    | none, .ok im :: _ => .ok (l, im)
    | none, _ => .error (0, headerRefused)

/-! ### Bindings (R204, R278, R294, R299) -/

/-- The AG stream with a wide port. -/
def Residency.agAt (r : Residency) (wp : Nat) : Option Nat :=
  r.plan.img.elems.findIdx? (fun e => e.kind = 2 && (portDecl e.word).wp = wp)

/-- The storage format of a region's entries (R268, R278). -/
def gridFmt (ef : Nat) : Nat := if ef = 0 then 1 else if ef = 1 then 3 else 2

/-- What the pattern record at `va` binds to a stream, read by a master. Its alignment is not checked: the manual's own program
binds records at addresses that are no multiples of 64 (R294, R295). DEDUCED: assumption 72. -/
def State.bindingOf (s : State) (got : Map (Nat × Nat)) (master : Nat) (r : Residency) (u : Nat) (v : AgView) (va : Nat) :
    Except CF Binding :=
  match (s.fetchBytes got master va 64).bind patternOf with
  | none => .error .type
  | some p =>
    if p.kind = 0 then (if !v.p.out ∧ r.plan.img.isLookup u then .error .type else .ok (.pattern p))
    else if p.base % 128 ≠ 0 then .error .type
    else match (s.fetchWith got master p.base 128).bind regionOf with
      | none => .error .type
      | some g =>
        if v.p.sfmt ≠ gridFmt g.ef ∨ v.p.bs ∨ p.dims ≠ [(0, 0), (g.l - 1, 0)] then .error .type
        else if !v.p.out ∧ v.d.size ≠ g.l * g.f then .error .ext
        else if v.p.out ∧ 4096 * (g.width + 1) < r.plan.img.mper * (g.l * 2 ^ g.d * g.f) then .error .size
        else .ok (.grid g)

/-- The records that a binding reads: its pattern, and the descriptor that a grid pattern names. -/
def State.bindingRecords (s : State) (c : Cmd) (va : Nat) : List (Nat × Nat) :=
  (va, 64) :: (match (s.fetchBytes c.got c.master va 64).bind patternOf with
    | some p => if p.kind = 1 then [(p.base, 128)] else []
    | none => [])

/-- The dispatcher of a command for a wide port: the AG that holds it, or the master distributor while the residency is not placed
or has no such port (R289). -/
def State.portDispatcher (s : State) (lid wp : Nat) : Disp :=
  match (s.res.find? lid).bind (fun r => (r.agAt wp).map r.plan.siteOf) with
  | some p => .ag lid p.1 p.2
  | none => .md

/-- The dispatcher of a command for a region. -/
def State.regionDispatcher (s : State) (lid : Nat) : Disp := if (s.res.find? lid).isSome then .region lid else .md

/-- The commands for a residency that wait at the master distributor pass to its AGs and its region, once it is placed (R289). -/
def State.passCmds (s : State) (lid : Nat) : State :=
  { s with cmds := s.cmds.map (fun c =>
      let pass (l : BitVec 32) (d : Disp) : Nat × Cmd :=
        if l.toNat = lid ∧ c.2.disp = .md then (c.1, { c.2 with disp := d }) else c
      match c.2.instr with
      | .bindld _ _ l wp _ => pass l (s.portDispatcher lid wp.toNat)
      | .bindst _ _ l wp _ => pass l (s.portDispatcher lid wp.toNat)
      | .unbind _ _ l wp => pass l (s.portDispatcher lid wp.toNat)
      | .cfgload _ _ l _ => pass l (s.regionDispatcher lid)
      | .cfgsw _ _ l _ => pass l (s.regionDispatcher lid)
      | .mark _ _ l => pass l (s.regionDispatcher lid)
      | .probe _ _ l _ _ _ => pass l (s.regionDispatcher lid)
      | _ => c) }

/-- A wide port has no binding. -/
def Residency.unbound (r : Residency) (wp : Nat) : Bool :=
  (((r.agAt wp).bind r.streams.find?).map (fun st => st.core.bound.isNone)).getD true

/-- A binding replaces what the stream was bound to. -/
def StreamSt.bindTo (st : StreamSt) (b : Binding) (cmd : Option Nat) : StreamSt :=
  { st with core := { st.core with bound := some b, bursts := 0, issued := 0, tokens := 0, held := [] }, cmd := cmd,
            entry := none, answers := [], left := none, ends := [], next := none }

/-- The pattern as bytes, for its tile: F4E2 strides count half bytes (R236). -/
def AgView.bytePattern (v : AgView) (p : Pattern) : Pattern :=
  if v.p.sfmt = 6 then { p with dims := [(2, p.span.1 / 2), (2, p.span.2 / 2)] } else p

/-- Bind stream `u` for command `id`, with its tile (R295): none where it must wait for the tile's state; an error where
the pattern leaves its tile. -/
def State.bindFor (s : State) (id rid u : Nat) (v : AgView) (b : Binding) : Option State :=
  let go (s : State) : State :=
    (s.onRes rid (fun r => r.onStream u (fun st => st.bindTo b (some id)))).setCmd id (fun c => { c with job := .bound })
  match b with
  | .grid _ => some (go s)
  | .pattern p =>
    match p.tileNo with
    | none => some (go s)
    | some (t, drn) =>
      match s.tileMe (v.bytePattern p) v.size t (if v.p.out then .write else .read) with
      | none => some (s.cmdFail id)
      | some me => (s.takeTiles id [(me, t, if v.p.out then 0 else if drn then 2 else 1)]).map go

/-! ### A configuration on a region -/

/-- The MEs that a plan puts in reorder or buffer mode. -/
def planModes (isl ox oy : Nat) (p : Plan) : List Nat :=
  (p.stores.flatMap (·.mes) ++ p.bufs.map (·.2)).map (fun m => isl * 384 + meIndex (ox + m.1) (oy + m.2))

def StoreSt.init (p : Plan) (x : StorePlan) : StoreSt :=
  { core := StoreCore.init, inp := [], eaten := 0, tail := BranchSt.init (dist (x.mes.headD (0, 0)) (p.siteOf x.dst)),
    saves := [(0, StoreCore.init)] }

/-- The streams of a plan. -/
def Plan.streams (p : Plan) : Map StreamSt :=
  (p.img.elems.zipIdx.filter (fun e => e.1.kind = 2)).map (fun e => (e.2, StreamSt.init (portDecl e.1.word).seed))

/-- The region starts configuration `cfg` with plan `p` (R165, R169, R435). An ME in reorder or buffer mode stays so for the life of
the residency (R202). -/
def Residency.configure (r : Residency) (p : Plan) (cfg : Nat) : Residency :=
  let nodes := p.img.nodes
  { r with
    plan := p, cfg := cfg, iter := 0, units := p.img.units.map UnitSt.init, streams := p.streams,
    branches := p.conns.map (fun c => BranchSt.init (p.hopsOf c)), eaten := p.conns.map (fun _ => 0),
    stores := p.stores.map (StoreSt.init p), nodes := nodes, nodeSaves := [(0, nodes, 0)], cut := 0,
    committed := 0, masked := none, shadow := none, switch := none, rootDone := false,
    modes := r.modes ++ (planModes r.island r.ox r.oy p).filter (fun n => !r.modes.contains n) }

/-- A residency on a region, before its configuration. -/
def Residency.blank (lid owner isl ox oy placed : Nat) (images : List Nat) (p : Plan) : Residency :=
  { lid := lid, owner := owner, island := isl, ox := ox, oy := oy, plan := p, images := images, cfg := 0, iter := 0,
    placed := placed, units := [], streams := [], branches := [], eaten := [], stores := [], nodes := [], nodeSaves := [],
    cut := 0, committed := 0, hold := .running, halted := [], dbg := false, masked := none, preReq := false, repairReq := false,
    broken := none, shadow := none, switch := none, recs := [], gone := true, rootDone := false, modes := [] }

/-- The master distributor writes bytes within one unit of an ME's table, with their full bits; one that refuses it takes none (R418,
R420, log 105). -/
def State.fillMe (s : State) (a : Nat) (bs : List Byte) : State :=
  if bs ≠ [] ∧ s.mayStore mdMaster a then (s.writeBytes a bs).setFull a bs.length else s

/-- The ME data blocks of an image are written, with their full bits (R178). -/
def State.writeMes (s : State) (isl ox oy : Nat) (im : Image) : State :=
  im.mes.foldl (fun (s : State) b =>
    let a := meBase (isl * 384 + meIndex (ox + b.x) (oy + b.y)) + b.off
    let n := 65536 - a % 65536
    (s.fillMe a (b.data.take n)).fillMe (a + n) (b.data.drop n)) s

/-- The old stream that a port of the new plan carries on: the same wide port and direction (R299). -/
def Residency.oldStream (r : Residency) (e : ElemRec) : Option StreamSt :=
  let q := portDecl e.word
  (r.plan.img.elems.findIdx? (fun d => d.kind = 2 && (portDecl d.word).wp = q.wp && (portDecl d.word).out = q.out)).bind
    r.streams.find?

/-- The bindings of the ports stay (R299). -/
def Residency.keepBindings (old new : Residency) : Residency :=
  { new with streams := new.streams.map (fun p =>
      match (new.plan.img.elems[p.1]?).bind old.oldStream with
      | some st =>
        let core := { p.2.core with bound := (st.next.orElse (fun _ => st.core.bound)) }
        (p.1, { p.2 with cmd := st.cmd, left := st.left, ends := st.ends, core := core, saves := [(0, core)] })
      | none => p) }

/-- Stores of the region's sinks are still under way (R218). -/
def State.writesBusy (s : State) (rid : Nat) : Bool :=
  s.reqs.any (fun q => match q.2.owner, q.2.op with
    | .stream i _ _, .write _ _ => i = rid
    | .stream i _ _, .half _ _ => i = rid
    | _, _ => false) || ((s.res.find? rid).map (fun r => r.streams.any (fun p => !p.2.back.isEmpty))).getD false

/-- Nothing that the sinks wrote is still buffered or under way. -/
def State.flushed (s : State) (rid : Nat) (r : Residency) : Bool :=
  r.units.all (fun x => x.buf.isEmpty && x.undo.isEmpty) && !s.writesBusy rid

/-- Every MARK of a region that waits completes: its windows have committed (R310). -/
def State.endMarks (s : State) (lid : Nat) : State :=
  { s with cmds := s.cmds.map (fun c => match c.2.disp, c.2.job with
      | .region l, .mark _ => if l = lid then (c.1, { c.2 with job := .done }) else c
      | _, _ => c) }

/-- At a configuration step or a completed switch, a pre-emption or a repair has its boundary (R369). -/
def Residency.atBoundary (r : Residency) : Residency :=
  if r.preReq ∨ r.repairReq then { r with hold := .saving } else r

/-! ### The timed switch (R180, R181) -/

/-- CFGSW_TIME_REACHED: the sources inject markers from now on. The master distributor's TIMER record goes to die 0 (R390); the switch
waits for room in the log (R392). -/
def execCfgswTimeReached (rid : Nat) (s : State) : Out :=
  match s.res.find? rid with
  | some r =>
    (match r.switch with
     | some sw =>
       if sw.fired ∨ s.since sw.t < 0 ∨ !r.flowing ∨ !r.halted.isEmpty then .next s
       else
         let rec' := traceRecord 5 s.gcyc (4 * 32) 0 rid 0
         let t := (s.sendTrace 0 rec').observe 0 rec'
         .next (if s.logFits t then t.onRes rid (fun r => { r with switch := some { sw with fired := true } }) else s)
     | none => .next s)
  | none => .next s

/-- An AG stream that goes on under the new graph, at the same site and number (log 28). -/
def Residency.carryStream (old : Residency) (u : Nat) (new : Residency) : Residency :=
  match new.plan.img.elems[u]? with
  | some e =>
    let q := portDecl e.word
    match old.plan.img.elems.findIdx? (fun d => d.kind = 2 && d.x = e.x && d.y = e.y && (portDecl d.word).stream = q.stream
        && (portDecl d.word).wp = q.wp && (portDecl d.word).out = q.out) with
    | some w =>
      (match old.streams.find? w with
       | some st =>
         if st.core.active then
           (new.setStream u { st with saves := [(0, st.core)] }).onUnit u (fun x =>
             let c := { x.core with begun := 1 }
             { x with core := c, saves := [{ k := 0, core := c, logs := [[], [], []] }] })
         else new
       | none => new)
    | none => new
  | none => new

/-- The switch of a region is complete. -/
def State.endSwitch (s : State) (rid : Nat) (r : Residency) (sw : Switch) : State :=
  let new := r.keepBindings (r.configure sw.plan r.cfg)
  let new := (new.streams.keys).foldl (fun n u => r.carryStream u n) new
  (((s.putRes rid new.atBoundary).writeMes r.island r.ox r.oy sw.plan.img).endMarks rid).cmdDone sw.cmd

/-- SWITCH_MARKER_TAKE: a unit, or store number `unit` less the number of units, passes the marker; the last one ends the
switch. -/
def execSwitchMarkerTake (rid unit : Nat) (s : State) : Out :=
  match s.res.find? rid with
  | none => .next s
  | some r =>
    if !r.flowing ∨ r.halts unit then .next s
    else
      let n := r.units.length
      match (if unit < n then r.takeMarker unit else r.storeMarker (unit - n)), r.switch with
      | some r, _ => .next (s.putRes rid r)
      | none, some sw =>
        if sw.fired ∧ r.allSwitched ∧ s.flushed rid r ∧ r.halted.isEmpty then .next (s.endSwitch rid r sw) else .next s
      | none, none => .next s

end Sys2Proof.Machine
end

