-- ==== Sys2Proof/Machine/Saving.lean ====
section
/-! DEFINITION. Save areas: what the part writes there, and the state that their bytes give at the restore (R370 to R374). -/

namespace Sys2Proof.Machine

/-! ### Save areas (R371 to R373) -/

/-- The MEs that are saved: those that an element record or a data block names. -/
def Image.savedMes (im : Image) : List (Nat × Nat) :=
  ((im.elems.filter (fun e => e.kind = 1)).map (fun e => (e.x, e.y)) ++ im.mes.map (fun b => (b.x, b.y))).eraseDups

def Image.streamCount (im : Image) : Nat := (im.elems.filter (fun e => e.kind = 2)).length

/-- The size of a save area (R372). -/
def Plan.saveSize (p : Plan) : Nat :=
  let n := 4096 + 2048 * p.img.units.length + 256 * p.img.streamCount + 8 * (p.stores.map (·.slots)).sum
    + 133376 * p.img.savedMes.length
  (n + 65535) / 65536 * 65536

/-- The master distributor may read and write the `size` bytes from unit `a` on: each unit of 64 KiB, in each channel (R234, R415, R418,
R420). -/
def State.ownsArea (s : State) (a size : Nat) : Bool :=
  (List.range (size / 65536)).all (fun u => (List.range 32).all (fun c =>
    let p := a + 65536 * u + 256 * c
    s.mayLoad mdMaster p && s.mayStore mdMaster p))

/-- The lowest free save area of the pool that the master distributor may use (log 105). -/
def State.saveArea (s : State) (size : Nat) : Option Nat :=
  let base := (s.poolbase.toNat + 65535) / 65536 * 65536
  let top := s.poolbase.toNat + s.poolsize.toNat
  (firstFrom (fun i =>
    let a := base + 65536 * i
    decide (a + size ≤ top) && s.ownsArea a size && s.saved.all (fun v => a + size ≤ v.2.area || v.2.area + v.2.size ≤ a)) 0
    ((top - base) / 65536)).map (fun i => base + 65536 * i)

/-- The tokens held at an input. -/
def inputTokens (l : List ChWord) : List Token := l.filterMap (fun w => match w with
  | .tok t => some t
  | _ => none)

/-- The documented fields of a unit block: offset, size and value. -/
def unitFields (base : Nat) (x : UnitSt) : List (Nat × Nat × Nat) :=
  let at' (i : Nat) : List Token := (inputTokens (x.inp.getD i [])).take 16
  (List.range 3).map (fun i => (base + 120 + i, 1, (at' i).length)) ++
    (List.range 3).flatMap (fun i => (at' i).zipIdx.map (fun t => (base + 128 + 640 * i + 40 * t.2, 40, tokenImage t.1)))

/-- The documented fields of a save area (R373). -/
def Residency.areaFields (r : Residency) : List (Nat × Nat × Nat) :=
  let im := r.plan.img
  [(0, 4, 0x56585356), (4, 4, r.lid), (8, 8, r.plan.saveSize), (16, 1, r.cfg), (17, 1, im.shape), (18, 1, im.prank), (19, 1, 0),
   (20, 8, r.iter), (28, 2, im.units.length), (30, 2, im.streamCount), (32, 4, (r.plan.stores.map (·.slots)).sum),
   (36, 2, im.savedMes.length), (38, 218, 0), (768, 3328, 0)]
    ++ r.units.zipIdx.flatMap (fun p => unitFields (4096 + 2048 * p.2) p.1)

/-- The bytes of a save area written at step `n`; those that the part alone writes are free (log 7). -/
def areaBytes (n size : Nat) (fields : List (Nat × Nat × Nat)) : List Byte :=
  (List.range size).map (fun i =>
    match fields.find? (fun f => f.1 ≤ i && i < f.1 + f.2.1) with
    | some f => BitVec.ofNat 8 (f.2.2 / 256 ^ (i - f.1))
    | none => Config.saveByte n i)

/-- The half of an ME, its tables' unit of 64 KiB, that holds byte `o` gives the master distributor right `k` (R418, R420, log 105). -/
def State.meHalf (s : State) (b : Nat) (k : Acc) (o : Nat) : Bool := s.accepts mdMaster (b + o / 65536 * 65536) k

/-- The state of an ME for the save. -/
def State.saveMe (s : State) (isl ox oy : Nat) (m : Nat × Nat) : SavedMe :=
  let n := isl * 384 + meIndex (ox + m.1) (oy + m.2)
  let b := meBase n
  let words (l : List Nat) : List Nat := (l.filter (fun w => b ≤ 8 * w && 8 * w < b + 131072)).map (· - b / 8)
  { x := m.1, y := m.2, data := (s.mem.filter (fun c => b ≤ c.1 && c.1 < b + 131072 && s.meHalf b .read (c.1 - b))).map (fun c => (c.1 - b, c.2)),
    full := words s.full, bad := words s.bad, tiles := (List.range 16).map (fun t => s.tile n t) }

/-- A saved ME is written to its site, in the halves that take it; words that become full serve those that wait for them (R257). -/
def State.loadMe (s : State) (isl ox oy : Nat) (m : SavedMe) : State :=
  let n := isl * 384 + meIndex (ox + m.x) (oy + m.y)
  let b := meBase n
  let takes (o : Nat) : Bool := s.meHalf b .write o
  let out (l : List Nat) : List Nat := l.filter (fun w => !(b ≤ 8 * w && 8 * w < b + 131072 && takes (8 * w - b)))
  let mem := (m.data.filter (fun c => takes c.1)).foldl (fun acc c => Memory.set acc (b + c.1) c.2)
    (s.mem.filter (fun c => !(b ≤ c.1 && c.1 < b + 131072 && takes (c.1 - b))))
  let fits (l : List Nat) : List Nat := l.filter (fun w => takes (8 * w))
  let s := { s with mem := mem, full := out s.full, bad := (fits m.bad).foldl (fun acc w => insertNat (w + b / 8) acc) (out s.bad),
                    single := out s.single }
  let s := (fits m.full).foldl (fun (s : State) w => s.setFull (b + 8 * w) 8) s
  m.tiles.zipIdx.foldl (fun (s : State) t => s.setTile n t.2 t.1) s

/-! ### The state that changed bytes encode (R373, log 54) -/

/-- A token from its image. -/
def tokenOfImage (n : Nat) : Token :=
  { v := { lanes := BitVec.ofNat 288 n, lm := BitVec.ofNat 8 (n / 2 ^ 288) }, rank := n / 2 ^ 296 % 8,
    cut := n / 2 ^ 299 % 2 = 1, prb := n / 2 ^ 300 % 2 = 1 }

/-- The words of an input with its tokens replaced, in order; further tokens stand behind them. -/
def refill : List ChWord → List Token → List ChWord
  | .tok _ :: ws, t :: ts => .tok t :: refill ws ts
  | .tok _ :: ws, [] => refill ws []
  | w :: ws, ts => w :: refill ws ts
  | [], ts => ts.map ChWord.tok

def decBool (n : Nat) : Bool := n % 2 == 1

def decWord (n : Nat) : ChWord :=
  match n % 3 with
  | 0 => .tok (tokenOfImage (n / 3))
  | 1 => .cutOnly
  | _ => .switch

/-- Stall counters from the fields `f`. -/
def Stalls.decoded (f : Nat → Nat) : Stalls :=
  let w (i : Nat) : BitVec 32 := BitVec.ofNat 32 (f i)
  { empty := w 0, full := w 1, blame := BitVec.ofNat 2 (f 2), excess := [w 3, w 4, w 5, w 6], extra := [f 7, f 8, f 9, f 10],
    worst := w 11, wfir := w 12, fires := w 13 }

/-- A unit's state at its cut from the fields `f`. -/
def UnitCore.decoded (c : UnitCore) (f : Nat → Nat) : UnitCore :=
  { out := (List.range (f 0 % 65)).map (fun i => decWord (f (64 + i))), words := f 1, st := imageReg (f 2), acc := imageReg (f 3),
    fresh := decBool (f 4), openA := decBool (f 5), openB := decBool (f 6), endA := f 7 % 8, endB := f 8 % 8, cnt := f 9,
    pass := decBool (f 10), begun := f 11, sticky := BitVec.ofNat 5 (f 12), stalls := Stalls.decoded (fun i => f (16 + i)),
    loop := decBool (f 32), last1 := decBool (f 33), pred := if decBool (f 34) then some (decBool (f 35)) else none,
    outCuts := [f 36, f 37], fires := f 38, age := if decBool (f 39) then some (f 40) else none, outOrd := f 41,
    cuts := [f 42, f 43, f 44], eos := [decBool (f 45), decBool (f 46), decBool (f 47)], endedAt := [decBool (f 51), decBool (f 52), decBool (f 53)], ended := decBool (f 48), cut := c.cut,
    since := f 49, bound := decBool (f 50) }

/-- A binding from the fields `f`. -/
def Binding.decoded (f : Nat → Nat) : Binding :=
  let sign (n : Nat) : Int := if decBool n then -(Int.ofNat (n / 2)) else Int.ofNat (n / 2)
  if decBool (f 0) then
    .grid { base := f 1, d := f 2, l := f 3, f := f 4, t := f 5, ef := f 6, res := (List.range (f 3)).map (fun i => f (32 + i)) }
  else
    .pattern { base := f 1, dims := (List.range (f 2 % 5 + 1)).map (fun i => (f (32 + i), sign (f (64 + i)))), scale := f 3, kind := 0,
               tile := if decBool (f 4) then some (f 5) else none }

/-- A stream's state at its cut from the fields `f`. -/
def StreamCore.decoded (f : Nat → Nat) : StreamCore :=
  { bound := if decBool (f 0) then some (Binding.decoded (fun i => f (256 + i))) else none, issued := f 1, tokens := f 2, bursts := f 3,
    gen := BitVec.ofNat 32 (f 4), active := decBool (f 5), held := (List.range (f 6 % 65)).map (fun i => tokenOfImage (f (64 + i))) }

/-- A controller node's iteration and pending go from the fields `f`. -/
def NodeSt.decoded (x : NodeSt) (f : Nat → Nat) : NodeSt :=
  { ended := f 0, started := x.started.zipIdx.map (fun p => f (2 * p.2 + 1)), finished := x.finished.zipIdx.map (fun p => f (2 * p.2 + 2)) }

/-- An ME's data, full and uncorrectable words and tiles from the fields `f`. -/
def SavedMe.decoded (m : SavedMe) (f : Nat → Nat) : SavedMe :=
  let marks (o : Nat) : List Nat := (List.range 16384).filter (fun w => decBool (f (o + w)))
  { x := m.x, y := m.y,
    data := (List.range 131072).filterMap (fun i => if f i % 256 = 0 then none else some (i, BitVec.ofNat 8 (f i))),
    full := marks 131072, bad := marks 147456,
    tiles := (List.range 16).map (fun t =>
      let g (i : Nat) : Nat := f (163840 + 4 * t + i)
      { defd := decBool (g 0), st := BitVec.ofNat 2 (g 1), base := BitVec.ofNat 11 (g 2), size := BitVec.ofNat 12 (g 3) }) }

/-! ### Restoring (R374) -/

/-- A save area when its residency is restored: the bytes that the part wrote there and those that it finds. -/
structure AreaNow where
  was : List Byte
  now : List Byte

/-- The `n` bytes at `off` that the area holds now. -/
def AreaNow.part (a : AreaNow) (off n : Nat) : List Byte := (a.now.drop off).take n

/-- Some of the `n` bytes at `off` have been changed. -/
def AreaNow.changed (a : AreaNow) (off n : Nat) : Bool := (a.was.drop off).take n != a.part off n

/-- What the `n` bytes at `off` give: the part's own state `x` where they stand as written, `dec` of their fields where not. -/
def AreaNow.give {α : Type} (a : AreaNow) (off n : Nat) (x : α) (dec : (Nat → Nat) → α) : α :=
  if a.changed off n then dec (Config.savedField (a.part off n)) else x

/-- Unit block `u`: the tokens at each input as their counts and images stand, and the rest of the state. -/
def UnitSt.revive (x : UnitSt) (a : AreaNow) (u : Nat) : UnitSt :=
  let base := 4096 + 2048 * u
  let held (i : Nat) : List Token :=
    (List.range (min 16 (fieldAt a.now (base + 120 + i) 1))).map (fun k => tokenOfImage (fieldAt a.now (base + 128 + 640 * i + 40 * k) 40))
  let moved (i : Nat) (l : List ChWord) : List ChWord :=
    let far := (inputTokens l).drop 16
    refill l (held i ++ far)
  let core := a.give base 120 (a.give (base + 123) 5 x.core (UnitCore.decoded x.core)) (UnitCore.decoded x.core)
  { x with inp := x.inp.zipIdx.map (fun l => moved l.2 l.1), core := core,
           saves := x.saves.map (fun v => if v.k = x.core.cut then { v with core := core } else v) }

/-- Stream block `j`. -/
def StreamSt.revive (st : StreamSt) (a : AreaNow) (off : Nat) : StreamSt :=
  let core := a.give off 256 st.core StreamCore.decoded
  { st with core := core, saves := if core = st.core then st.saves else st.saves.map (fun v => (v.1, core)) }

/-- The live slots of a store whose slots begin at `off`. -/
def StoreSt.revive (x : StoreSt) (a : AreaNow) (off : Nat) : StoreSt :=
  let slots := x.core.slots.map (fun p =>
    (p.1, a.give (off + 8 * p.1) 8 p.2 (fun f => { p.2 with lane := BitVec.ofNat 72 (f 0), set := decBool (f 1) })))
  let core := { x.core with slots := slots }
  { x with core := core, saves := x.saves.map (fun v => if v.1 = x.core.cut then (v.1, core) else v) }

/-- The offset of the slots of store `j`, and of the ME blocks. -/
def Plan.slotsAt (p : Plan) (j : Nat) : Nat :=
  4096 + 2048 * p.img.units.length + 256 * p.img.streamCount + 8 * ((p.stores.take j).map (·.slots)).sum

/-- The MEs in reorder or buffer mode on a residency's new region: those at the places that had it, where an ME stands there, and those
of its plan (R202). -/
def Residency.modesAt (r : Residency) (isl ox oy : Nat) (p : Plan) : List Nat :=
  let kept := r.modes.filterMap (fun n =>
    let m := meSite (n % 384)
    let x := m.1 - r.ox + ox
    let y := m.2 - r.oy + oy
    if siteKind x y = 1 then some (isl * 384 + meIndex x y) else none)
  kept ++ (planModes isl ox oy p).filter (fun n => !kept.contains n)

/-- A saved residency on its region, with the state that the bytes of its area give. Each stream is bound again. -/
def Saved.revive (v : Saved) (a : AreaNow) (isl ox oy placed : Nat) (p : Plan) : Residency :=
  let r := v.res
  let strs := r.streams.keys
  { r with
    island := isl, ox := ox, oy := oy, placed := placed, plan := p, cfg := fieldAt a.now 16 1, iter := fieldAt a.now 20 8,
    modes := r.modesAt isl ox oy p,
    nodes := r.nodes.map (fun n => (n.1, a.give (256 + 16 * n.1) 16 n.2 (NodeSt.decoded n.2))),
    units := r.units.zipIdx.map (fun x => UnitSt.revive x.1 a x.2),
    streams := r.streams.map (fun st =>
      (st.1, StreamSt.revive st.2 a (4096 + 2048 * p.img.units.length + 256 * (strs.takeWhile (· ≠ st.1)).length))),
    branches := p.conns.map (fun c => BranchSt.init (p.hopsOf c)),
    stores := (r.stores.zip p.stores).zipIdx.map (fun x =>
      StoreSt.revive { x.1.1 with tail := (StoreSt.init p x.1.2).tail } a (p.slotsAt x.2)) }

/-- The saved MEs as the bytes of the area give them. -/
def Saved.reviveMes (v : Saved) (a : AreaNow) (p : Plan) : List SavedMe :=
  v.mes.zipIdx.map (fun m => a.give (p.slotsAt p.stores.length + 133376 * m.2) 133376 m.1 (SavedMe.decoded m.1))

end Sys2Proof.Machine
end

