-- ==== Sys2Proof/Machine/Placing.lean ====
section
/-! DEFINITION. Choosing and placing entries, the end of a residency, pre-emption, and column repair (R211, R217 to R219, R289,
R331, R361, R369, R370, R374, R435). -/

namespace Sys2Proof.Machine

/-! ### Regions (R167, R168, R217) -/

/-- Two rectangles of sites overlap. -/
def overlap (a b : (Nat × Nat) × (Nat × Nat)) : Bool :=
  a.1.1 < b.1.1 + b.2.1 && b.1.1 < a.1.1 + a.2.1 && a.1.2 < b.1.2 + b.2.2 && b.1.2 < a.1.2 + a.2.2

def Residency.box (r : Residency) : (Nat × Nat) × (Nat × Nat) := ((r.ox, r.oy), shapeSize r.plan.img.shape)

/-- The regions in use on an island, without residency `but`. -/
def State.boxes (s : State) (isl : Nat) (but : Option Nat) : List ((Nat × Nat) × (Nat × Nat)) :=
  (s.res.filter (fun r => r.2.island = isl && some r.1 ≠ but)).map (fun r => r.2.box)

/-- The free site count of an island. -/
def State.freeSites (s : State) (isl : Nat) : Nat :=
  2560 - ((s.boxes isl none).map (fun b => b.2.1 * b.2.2)).sum

/-- The first region of an island that matches the image and is free, residency `but` apart. -/
def State.freeRegion (s : State) (isl : Nat) (im : Image) (but : Option Nat) : Option (Nat × Nat) :=
  (origins im.shape).find? (fun o =>
    (s.boxes isl but).all (fun b => !overlap (o, shapeSize im.shape) b) && im.fits o)

/-- An island reports free regions: granted, ready, and under no repair (R217, R361). -/
def State.mayPlaceOn (s : State) (isl : Nat) : Bool :=
  s.granted isl && s.islandReady isl && ((s.repair).map (·.island)) ≠ some isl

/-- The island and region of an entry (R217 step 2). -/
def State.regionFor (s : State) (i : Nat) (im : Image) : Option (Nat × (Nat × Nat)) :=
  (List.range 64).foldl (fun (acc : Option (Nat × (Nat × Nat))) isl =>
    if !s.mayPlaceOn isl ∨ !(s.reserved.getD isl i == i) then acc
    else match s.freeRegion isl im none with
      | none => acc
      | some o =>
        match acc with
        | some (b, _) => if s.freeSites b < s.freeSites isl then some (isl, o) else acc
        | none => some (isl, o)) none

/-! ### The READY entries (R217 step 1) -/

def State.entryBefore (s : State) (a b : Nat) : Bool :=
  let x := s.entry a
  let y := s.entry b
  if x.pri ≠ y.pri then x.pri < y.pri
  else if s.since x.rtime ≠ s.since y.rtime then s.since y.rtime < s.since x.rtime
  else a < b

/-- Insertion into a list kept in order. -/
def insertWith (lt : Nat → Nat → Bool) (x : Nat) : List Nat → List Nat
  | [] => [x]
  | y :: ys => if lt x y then x :: y :: ys else y :: insertWith lt x ys

def State.readyOrder (s : State) : List Nat :=
  ((s.entries.filter (fun e => e.2.st = .ready)).map (·.1)).foldl (fun l i => insertWith s.entryBefore i l) []

/-- The images of a READY entry: the saved one, or those read now. -/
def State.candidate (s : State) (i : Nat) : Except (Nat × Refuse) (List Nat × Image) :=
  match (s.entry i).saved, s.saved.find? i with
  | some _, some v => .ok (v.res.images, v.res.plan.img)
  | _, _ => s.entryImages (s.entry i)

/-- The master distributor may use the save area of an entry that has one (R415, R420, log 105). -/
def State.areaReadable (s : State) (i : Nat) : Bool :=
  match (s.entry i).saved, s.saved.find? i with
  | some _, some v => s.ownsArea v.area v.size
  | _, _ => true

/-- What a pass does: an entry is placed, or its image is refused. -/
inductive Choice where
  | place  (i isl : Nat) (o : Nat × Nat) (l : List Nat) (im : Image)
  | refuse (i cfg : Nat) (r : Refuse)

/-- The first entry, in order, that can be placed or must be refused. -/
def State.choice (s : State) : List Nat → Option Choice
  | [] => none
  | i :: is =>
    match s.candidate i with
    | .error (cfg, r) => some (.refuse i cfg r)
    | .ok (l, im) =>
      if !(origins im.shape).any im.fits then
        some (.refuse i 0 ((firstFail (misplaced im 0 0)).getD { code := .place, sect := 0, idx := 0 }))
      else match (if s.areaReadable i then s.regionFor i im else none) with
        | some (isl, o) => some (.place i isl o l im)
        | none => s.choice is

/-! ### The end of a residency (R211, R218, R219, R301, R310, R313) -/

/-- The commands of a residency that ends: those of its streams and region, and the copy that launched it. -/
def State.endCmds (s : State) (lid : Nat) (err : Bool) (ratio : Nat → Bool) : State :=
  { s with cmds := s.cmds.map (fun c =>
      let mine := match c.2.disp with
        | .ag l _ _ => l == lid
        | .region l => l == lid
        | _ => false
      let done (e : Bool) : Nat × Cmd := (c.1, { c.2 with job := .done, err := c.2.err || e })
      match c.2.job with
      | .via l _ _ f => if l = lid then done (err || !ratio f) else c
      | .bound => if mine then done true else c
      | .mark _ => if mine then done err else c
      | .probe _ _ => if mine then done true else c
      | .unit =>
        if !mine then c
        else match c.2.instr with
          | .unbind .. => done false
          | _ => done true
      | _ => c) }

/-- Tokens delivered or taken at a wide port (R301). -/
def Residency.portTokens (r : Residency) (wp : Nat) : Nat :=
  (((r.agAt wp).bind (fun u => r.units[u]?)).map (fun x => x.core.fires)).getD 0

/-- Residency `rid` ends: the release of R219 with its region, its commands and its accesses. -/
def State.endRes (s : State) (rid : Nat) (err : Bool) : State :=
  match s.res.find? rid with
  | none => s
  | some r =>
    let i := r.portTokens 0
    let o := r.portTokens 1
    let ratio (f : Nat) : Bool := i * (f / 256 + 1) == o * (f % 256 + 1)
    let s := s.endCmds rid err ratio
    let mine (w : Owner) : Bool := match w with
      | .stream a _ _ => a == rid
      | _ => false
    let s := { s with res := s.res.drop rid, reqs := s.reqs.filter (fun q => !mine q.2.owner || (match q.2.op with
                        | .write _ _ => true
                        | .half _ _ => true
                        | _ => false)),
                      walks := s.walks.filter (fun w => match w.2.who with
                        | .stream a _ => a ≠ rid
                        | _ => true),
                      preempt := s.preempt.filter (fun p => p.2 ≠ rid) }
    (s.panResEnd rid).releaseEntry (rid % 4096) err

/-- An image of entry `i` is refused: its record and its release with ERR (R211, R345). Its reservation ends. DESIGN CHOICE: log 107. -/
def State.refuseEntry (s : State) (i isl cfg : Nat) (r : Refuse) : State :=
  let lid := s.lidOf i
  let s := s.postRecord (refusedRecord (s.entry i).owner lid isl cfg 0 0 r)
  let s := s.endCmds lid true (fun _ => true)
  (({ s with reserved := s.reserved.filter (fun x => x.2 ≠ i), preempt := s.preempt.drop i }).panResEnd lid).releaseEntry i true

/-- RESIDENCY_FINISH (R218); a residency whose PANQ entries are still on their way has not finished (R337). -/
def State.mayFinish (s : State) (rid : Nat) (r : Residency) : Bool :=
  r.flowing && decide (r.images.length ≤ r.cfg + 1) && r.rootDone && r.lastWindow && s.flushed rid r
    && !s.flights.any (fun f => f.2.rid = rid)

def execResidencyFinish (rid : Nat) (s : State) : Out :=
  match s.res.find? rid with
  | some r => .next (if s.mayFinish rid r then s.endRes rid false else s)
  | none => .next s

/-! ### Placement (R204, R331, R435) -/

/-- One binding: the pattern's address and the stream, or the code of its refusal. -/
def State.placeBinding (s : State) (r : Residency) (wp : Nat) (out : Bool) (va : Nat) (ok : PortDecl → Bool) :
    Except CF (Nat × AgView × Binding) :=
  match r.agAt wp with
  | none => .error .type
  | some u =>
    match r.ag u with
    | none => .error .type
    | some v =>
      if v.p.out ≠ out ∨ !ok v.p then .error .type
      else (s.bindingOf [] mdMaster r u v va).map (fun b => (u, v, b))

/-- The two bindings of a copy's VIA residency (R301). -/
def State.viaBindings (s : State) (lid : Nat) : Option (List (Nat × Bool × Nat × Nat)) :=
  s.cmds.findSome? (fun c => match c.2.job with
    | .via l a b _ => if l = lid then some [(0, false, a, 15), (1, true, b, 15)] else none
    | _ => none)

/-- The bindings of an entry, in order: wide port, direction, pattern address and what the port must declare. -/
def State.wanted (s : State) (lid : Nat) (e : Entry) : Except Refuse (List (Nat × Bool × Nat × Nat)) :=
  match (if e.nbind = 0 then some [] else s.mdBytes e.bind (16 * e.nbind)) with
  | none => .error headerRefused
  | some bs =>
    let recs := (List.range e.nbind).map (fun i => chunk bs 0 16 i)
    match recs.findIdx? (fun b => fieldAt b 8 1 / 128 ≠ 0 ∨ fieldAt b 9 7 ≠ 0) with
    | some i => .error { code := .type, sect := 7, idx := i }
    | none =>
      let own := recs.map (fun b => (fieldAt b 8 1 % 64, decide (fieldAt b 8 1 / 64 % 2 = 1), fieldAt b 0 8, 15))
      let batch := match s.batchOf lid with
        | some (p, b) => [(62, false, p.bufVa b, 13), (63, false, p.bufVa b + 64, 1)]
        | none => []
      .ok (own ++ (s.viaBindings lid).getD [] ++ batch)

/-- All of them on a configured residency; the first refused names its index. -/
def State.bindAll (s : State) (r : Residency) : Nat → List (Nat × Bool × Nat × Nat) →
    Except Refuse (List (Nat × Nat × AgView × Binding))
  | _, [] => .ok []
  | i, (wp, out, va, fmt) :: l =>
    match s.placeBinding r wp out va (fun p => fmt = 15 || p.sfmt = fmt) with
    | .error c => .error { code := c, sect := 7, idx := i }
    | .ok x =>
      match s.bindAll r (i + 1) l with
      | .error e => .error e
      | .ok xs => .ok ((va, x) :: xs)

/-- A binding names a tile. -/
def Binding.tiled : Binding → Bool
  | .pattern p => p.tile.isSome
  | .grid _ => false

/-- A binding of the list goes to the port's dispatcher, as a BINDLD or BINDST of the master distributor would, with the exact
address of its record (R204, R299). -/
def State.queueBind (s : State) (lid : Nat) (v : AgView) (va : Nat) : State :=
  let id := s.nextId
  let h : CmdHdr := { wait := 0, seten := false, setslot := 0 }
  let l := BitVec.ofNat 32 lid
  let wp := BitVec.ofNat 6 v.p.wp
  let a := BitVec.ofNat 46 (va / 64)
  let i : Instr := if v.p.out then .bindst (.start id) h l wp a else .bindld (.start id) h l wp a
  let c : Cmd := { newCmd none i (s.portDispatcher lid v.p.wp) 0 none with accepted := true, accNo := id, exact := some va }
  { s.fresh with cmds := s.cmds.put id c }

/-- A binding made at placement: at once where the port has none yet and no tile is named; else through the dispatcher, where it waits
for the tile, or for the end of the binding before it (R295, R299). -/
def State.bindPlaced (s : State) (rid : Nat) (x : Nat × Nat × AgView × Binding) : State :=
  let (va, u, v, b) := x
  let taken := s.cmds.any (fun c => c.2.exact.isSome && c.2.disp == s.portDispatcher rid v.p.wp && (match c.2.instr with
    | .bindld _ _ _ wp _ => wp.toNat == v.p.wp
    | .bindst _ _ _ wp _ => wp.toNat == v.p.wp
    | _ => false))
  let bound := ((((s.res.find? rid).bind (fun r => r.streams.find? u)).map (fun st => st.core.bound.isSome))).getD false
  if b.tiled ∨ bound ∨ taken then s.queueBind rid v va
  else s.onRes rid (fun r => r.onStream u (fun st => st.bindTo b none))

/-- A binding of the list that is the first of its port has not been made yet. -/
def State.bindsDue (s : State) (rid : Nat) (r : Residency) : Bool :=
  s.cmds.any (fun c => c.2.exact.isSome && c.2.job == .queued && (match c.2.instr with
    | .bindld _ _ l wp _ => l.toNat == rid && r.unbound wp.toNat
    | .bindst _ _ l wp _ => l.toNat == rid && r.unbound wp.toNat
    | _ => false))

/-- Once its bindings are made, the ME data of a residency is written and its root has its go (R435). -/
def State.rootGo (s : State) (rid : Nat) : State :=
  match s.res.find? rid with
  | some r =>
    if r.gone ∨ s.bindsDue rid r then s
    else (s.writeMes r.island r.ox r.oy r.plan.img).onRes rid (fun r => { r with gone := true })
  | none => s

/-- Entry `i` becomes PLACED. Its reservation ends, on whichever island it is placed. DESIGN CHOICE: log 107. -/
def State.markPlaced (s : State) (i : Nat) : State :=
  { s with entries := s.entries.put i { s.entry i with st := .placed, saved := none },
           reserved := s.reserved.filter (fun x => x.2 ≠ i),
           preempt := s.preempt.drop i }

/-- Entry `i` is placed with image `im` on a region, or refused. -/
def State.placeNew (s : State) (i isl : Nat) (o : Nat × Nat) (l : List Nat) (im : Image) : State :=
  let e := s.entry i
  let lid := s.lidOf i
  match planOn im o.1 o.2 with
  | .error r => s.refuseEntry i isl 0 r
  | .ok p =>
    let r := (Residency.blank lid e.owner isl o.1 o.2 s.nextId l p).configure p 0
    match (s.wanted lid e).bind (fun w => s.bindAll r 0 w) with
    | .error x => s.refuseEntry i isl 0 x
    | .ok bs =>
      let s := l.foldl (fun (s : State) va => s.mendImage va) ((s.fresh.markPlaced i).putRes lid { r with gone := false })
      let s := if e.nimg = 1 then s else s.mend e.img (8 * e.nimg)
      let s := if e.nbind = 0 then s else s.mend e.bind (16 * e.nbind)
      let s := bs.foldl (fun (s : State) b => (s.mend b.1 64).bindPlaced lid b) s
      (s.passCmds lid).rootGo lid

/-! ### Pre-emption (R217 step 4, R369, R370) -/

/-- A region to be saved has reached its boundary and committed its windows. -/
def State.savable (s : State) (rid : Nat) (r : Residency) : Bool :=
  r.hold = .saving && r.broken.isNone && r.dueWindow.isNone && decide (r.cut ≤ r.committed) && !s.writesBusy rid

/-- A column repair keeps the residency on its region. -/
def State.underRepair (s : State) (rid : Nat) : Bool := ((s.repair).map (fun p => p.lids.contains rid)).getD false

/-- Steps 1 to 4 of R370: rollback to the boundary cut, the save area at `area`, and the entry READY again. -/
def State.saveTo (s : State) (rid area : Nat) : State :=
  let s := s.rollBack rid
  match s.res.find? rid with
  | none => s
  | some r =>
    let r := { r with hold := .running, preReq := false, repairReq := false }
    let size := r.plan.saveSize
    let bytes := areaBytes s.tick size r.areaFields
    let mes := r.plan.img.savedMes
    let v : Saved := { res := r, area := area, size := size, bytes := bytes, mes := mes.map (s.saveMe r.island r.ox r.oy) }
    let i := rid % 4096
    let s := mes.foldl (fun (s : State) m => s.corrected (meBase (r.island * 384 + meIndex (r.ox + m.1) (r.oy + m.2))) 131072) s
    let s := s.writeBytes area bytes
    { s with res := s.res.drop rid, saved := s.saved.put i v,
             entries := s.entries.put i { s.entry i with st := .ready, saved := some area },
             preempt := s.preempt.filter (fun p => p.2 ≠ rid) }

/-- PREEMPT_SAVE of a residency that may be saved. -/
def State.preemptSave (s : State) (rid : Nat) : Option State :=
  match s.res.find? rid with
  | none => none
  | some r =>
    if !s.savable rid r ∨ s.underRepair rid then none
    else (s.saveArea r.plan.saveSize).map (s.saveTo rid)

def execPreemptSave (rid : Nat) (s : State) : Out := .next ((s.preemptSave rid).getD s)

/-- The residency whose pre-emption gives the head a region, if one is to be asked (R217 step 4, R372). -/
def State.victim (s : State) (h : Nat) (im : Image) : Option Nat :=
  let pri (r : Residency) : Nat := (s.entry (r.lid % 4096)).pri
  let ok (r : Nat × Residency) : Bool :=
    r.2.plan.img.prank ≠ 0 && decide ((s.entry h).pri < pri r.2) && s.mayPlaceOn r.2.island
      && s.reserved.getD r.2.island h == h && (s.freeRegion r.2.island im (some r.1)).isSome
      && !r.2.preReq && !r.2.repairReq && (s.saveArea r.2.plan.saveSize).isSome
  ((s.res.filter ok).foldl (fun (acc : Option (Nat × Residency)) r =>
    match acc with
    | none => some r
    | some a =>
      if pri a.2 < pri r.2 ∨ (pri a.2 = pri r.2 ∧ a.2.placed < r.2.placed) then some r else acc) none).map (·.1)

/-- The head asks for a pre-emption, one at a time for each head. -/
def State.askPreempt (s : State) : State :=
  match s.readyOrder with
  | [] => s
  | h :: _ =>
    if (s.preempt.find? h).isSome then s
    else match s.candidate h with
      | .error _ => s
      | .ok (_, im) =>
        match s.victim h im with
        | some v => { s with res := s.res.adjust v (fun r => { r with preReq := true }), preempt := s.preempt.put h v }
        | none => s

/-! ### Restoring (R374) -/

/-- A saved entry is placed again, with what its area's bytes give (R373, R374). -/
def State.placeSaved (s : State) (i isl : Nat) (o : Nat × Nat) (v : Saved) : State :=
  match planOn v.res.plan.img o.1 o.2 with
  | .error r => { s with saved := s.saved.drop i }.refuseEntry i isl v.res.cfg r
  | .ok p =>
    let a : AreaNow := { was := v.bytes, now := s.bytesAt v.area v.size }
    let r := v.revive a isl o.1 o.2 s.nextId p
    let s : State := { (s.corrected v.area v.size).fresh.markPlaced i with saved := s.saved.drop i }
    ((v.reviveMes a p).foldl (fun (s : State) m => s.loadMe isl o.1 o.2 m) (s.putRes r.lid r)).passCmds r.lid

/-! ### Passes of the master distributor -/

/-- The master distributor works. -/
def State.mdWorks (s : State) : Bool := s.mdReady && !s.failover

def State.doChoice (s : State) (c : Choice) : State :=
  match c with
  | .refuse i cfg r => s.refuseEntry i 0 cfg r
  | .place i isl o l im =>
    match (s.entry i).saved, s.saved.find? i with
    | some _, some v => s.placeSaved i isl o v
    | _, _ => s.placeNew i isl o l im

/-- The reservation of R217 step 3, where the head has waited long enough. -/
def State.reserve (s : State) : State :=
  match s.readyOrder with
  | [] => s
  | h :: _ =>
    if s.since (s.entry h).rtime < 65536 ∨ s.reserved.any (fun x => x.2 = h) then s
    else
      let best := (List.range 64).foldl (fun (acc : Option Nat) isl =>
        if !s.granted isl ∨ (s.reserved.find? isl).isSome then acc
        else match acc with
          | some b => if s.freeSites b < s.freeSites isl then some isl else acc
          | none => some isl) none
      match best with
      | some isl => { s with reserved := s.reserved.put isl h }
      | none => s

/-- MD_PLACEMENT_PASS: a reservation that is due comes first; then the first entry that can be placed is placed, or the head asks for a
pre-emption. -/
def State.placementPass (s : State) : State :=
  if !s.mdWorks then s
  else
    let s := s.reserve
    match s.choice s.readyOrder with
    | some c => s.doChoice c
    | none => s.askPreempt

def execMdPlacementPass (s : State) : Out := .next s.placementPass

/-- RESIDENCY_PLACE: entry `entry` on region number `region` of an island, where the pass chooses it. -/
def execResidencyPlace (entry island region : Nat) (s : State) : Out :=
  if !s.mdWorks then .next s
  else
    let t := s.reserve
    match t.choice t.readyOrder with
    | some (.place i isl o l im) =>
      .next (if i = entry ∧ isl = island ∧ (origins im.shape)[region]? = some o then t.doChoice (.place i isl o l im) else s)
    | _ => .next s

/-- RESERVATION_TIMEOUT (R217 step 3). -/
def execReservationTimeout (s : State) : Out := .next (if s.mdWorks then s.reserve else s)

/-! ### Configuration steps (R169) -/

/-- CONFIGURATION_STEP: the next image of the list is loaded into the region, or refused. -/
def State.configStep (s : State) (rid : Nat) : State :=
  match s.res.find? rid with
  | none => s
  | some r =>
    match r.images[r.cfg + 1]? with
    | none => s
    | some va =>
      if !(r.flowing && r.rootDone && r.drained && s.flushed rid r && r.switch.isNone && r.halted.isEmpty) then s
      else match (s.listedImage r.plan.img.shape (r.cfg + 1) va).bind (fun im => checkImage im r.ox r.oy) with
        | .error x => (s.postRecord (refusedRecord r.owner rid r.island (r.cfg + 1) r.iter (r.cut + 1) x)).endRes rid true
        | .ok p =>
          let new := (r.keepBindings (r.configure p (r.cfg + 1))).atBoundary
          (((s.mendImage va).putRes rid new).writeMes r.island r.ox r.oy p.img).endMarks rid

def execConfigurationStep (rid : Nat) (s : State) : Out := .next (s.configStep rid)

/-! ### Column repair (R361) -/

/-- A site of the column has reported three times within 2^24 cycles. -/
def State.columnFails (s : State) (isl x : Nat) : Bool :=
  (List.range 64).any (fun y =>
    match s.reports.getD (4096 * isl + 64 * x + y) [] with
    | a :: _ :: c :: _ => decide (c - a ≤ 2 ^ 24)
    | _ => false)

/-- The residencies that hold a site of a column. -/
def State.onColumn (s : State) (isl x : Nat) : List Nat :=
  (s.res.filter (fun r => r.2.island = isl && r.2.ox ≤ x && x < r.2.ox + r.2.box.2.1)).map (·.1)

def State.clearReports (s : State) (isl x : Nat) : State :=
  { s with reports := s.reports.filter (fun p => p.1 / 64 ≠ 64 * isl + x) }

/-- A repair begins: its residencies are to be saved at their next complete cut. A third column fails the island. -/
def State.startRepair (s : State) (isl x : Nat) : State :=
  let used := s.columns.getD isl []
  let mark (s : State) (l : List Nat) : State :=
    l.foldl (fun (s : State) rid => s.onRes rid (fun r => { r with repairReq := true })) s
  let s := s.clearReports isl x
  if used.length < 2 then
    let lids := s.onColumn isl x
    mark { s with repair := some { island := isl, column := x, lids := lids } } lids
  else
    mark { s with ready0 := s.ready0 &&& ~~~(1#64 <<< isl) } ((s.res.filter (fun r => r.2.island = isl)).map (·.1))

/-- A residency of the repair is saved; where the pool has no room for its area it is held at its cut instead (log 64). -/
def State.saveForRepair (s : State) (rid : Nat) : State :=
  match s.res.find? rid with
  | none => s
  | some r =>
    match s.saveArea r.plan.saveSize with
    | some area => s.saveTo rid area
    | none => (s.rollBack rid).onRes rid (fun r => { r with hold := .running, repairReq := false })

/-- It is restored on the same region. -/
def State.restoreInPlace (s : State) (rid : Nat) : State :=
  match s.saved.find? (rid % 4096) with
  | some v => if v.res.lid = rid then s.placeSaved (rid % 4096) v.res.island (v.res.ox, v.res.oy) v else s
  | none => s

/-- Every residency of the repair is saved, the column is mapped to a spare one, and each is restored on its region (R361). -/
def State.endRepair (s : State) (p : Repair) : State :=
  let s := p.lids.foldl State.saveForRepair s
  let s := { s with repair := none, columns := s.columns.put p.island (s.columns.getD p.island [] ++ [p.column]) }
  p.lids.foldl State.restoreInPlace s

/-- COLUMN_REPAIR: one stage of it. -/
def execColumnRepair (island column : Nat) (s : State) : Out :=
  match s.repair with
  | some p =>
    if p.island = island ∧ p.column = column
        ∧ p.lids.all (fun rid => match s.res.find? rid with
          | some r => s.savable rid r
          | none => true) then .next (s.endRepair p)
    else .next s
  | none => .next (if s.columnFails island column then s.startRepair island column else s)

end Sys2Proof.Machine
end

