-- ==== Sys2Proof/Machine/Rings.lean ====
section
/-! DEFINITION. HSET and the pointer instructions of circular buffers (R317, R318). -/

namespace Sys2Proof.Machine

/-- The transfer record's address of a command that has one. -/
def recordOf : Instr → Option Nat
  | .gather _ _ x => some (x.toNat * 64)
  | .scatter _ _ x => some (x.toNat * 64)
  | .copy _ _ x => some (x.toNat * 64)
  | .rcopy _ _ x => some (x.toNat * 64)
  | .fetchw _ _ x _ => some (x.toNat * 64)
  | _ => none

/-- The record of a command that has not started names ring `h`; one at a peer that has not been read may name any. DEDUCED: log
106. -/
def State.recordNames (s : State) (t : Nat) (c : Cmd) (h : VNum) : Bool :=
  match recordOf c.instr with
  | none => false
  | some a =>
    !(s.unread c.got [(a, 64)]).isEmpty || (match s.fetchWith c.got t a 64 with
      | some bs => fieldAt bs 29 1 / 128 = 1 && fieldAt bs 29 1 % 16 = h.toNat
      | none => false)

/-- An accepted and incomplete command of thread `t` names ring `h` (R317). -/
def State.ringNamed (s : State) (t : Nat) (h : VNum) : Bool :=
  s.cmds.any (fun c =>
    c.2.src = some t && c.2.accepted && (c.2.ring = some h || (c.2.job = .queued && s.recordNames t c.2 h)))

/-- A ring of `n` bytes at `a` lies in the CLM of thread `t`'s core, or in one ME that is not in reorder mode. -/
def State.ringFits (s : State) (t a n : Nat) : Bool :=
  let base := clmBase (coreOf t)
  let last := a + n - 1
  if inClm a then decide (base ≤ a) && decide (last < base + 0x10000)
  else
    let stops := a :: last :: (List.range 2).map (fun i => min last ((a / 65536 + 1 + i) * 65536))
    match s.reach a .read with
    | none => false
    | some pa =>
      match s.home pa with
      | .me k => n ≤ 131072 && !s.meTaken k
          && stops.all (fun v => s.reach v .read = some (pa + (v - a)) && s.home (pa + (v - a)) = .me k)
      | _ => false

def execHset (h : VNum) (a b : GReg) (s : State) : Out :=
  let ga := s.me.get a
  let gb := s.me.get b
  let slot := (gb.extractLsb' 0 16).toNat
  let cnt := (gb.extractLsb' 16 12).toNat + 1
  if gb.toNat / 2 ^ 28 ≠ 0 ∨ slot % 8 ≠ 0 ∨ slot = 0 ∨ 32768 < slot ∨ ga.toNat % 8 ≠ 0 then illegal s
  else if !s.ringFits s.cur ga.toNat (cnt * slot) then raise 3 ga s
  else if s.ringNamed s.cur h then waitOn (.poll (.ringFree h)) true s
  else
    let x : Handle := { base := ga, slot := BitVec.ofNat 16 slot, count := BitVec.ofNat 13 cnt, p := 0, c := 0, valid := true }
    retireWith 1 (fun c => c.setH h x) s

/-- A pointer instruction on a valid handle whose argument is in range; else an illegal-instruction trap (R318). -/
def ringOp (h : VNum) (ok : Handle → Bool) (k : Handle → State → Out) (s : State) : Out :=
  let x := s.me.getH h
  if x.valid && ok x then k x s else illegal s

def execCbwf (h : VNum) (n : BitVec 11) (s : State) : Out :=
  ringOp h (fun x => n.toNat ≤ x.count.toNat) (fun x s =>
    if n.toNat ≤ x.filled then retireWith 1 id s else waitOn (.poll (.filled h n.toNat)) true s) s

def execCbwe (h : VNum) (n : BitVec 11) (s : State) : Out :=
  ringOp h (fun x => n.toNat ≤ x.count.toNat) (fun x s =>
    if n.toNat ≤ x.room then retireWith 1 id s else waitOn (.poll (.room h n.toNat)) true s) s

def execCbap (h : VNum) (n : BitVec 11) (s : State) : Out :=
  ringOp h (fun x => x.filled + n.toNat ≤ x.count.toNat) (fun x s =>
    retireWith 1 (fun c => c.setH h { x with p := x.p + n.setWidth 32 }) s) s

def execCbac (h : VNum) (n : BitVec 11) (s : State) : Out :=
  ringOp h (fun x => n.toNat ≤ x.filled) (fun x s =>
    retireWith 1 (fun c => c.setH h { x with c := x.c + n.setWidth 32 }) s) s

end Sys2Proof.Machine
end

