-- ==== Sys2Proof/Machine/Moves.lean ====
section
/-! DEFINITION. Stream commands of the island engines: PATSET, COPY, GATHER, SCATTER, RCOPY, FETCHW, SIGNAL and GRIDDEF (R294 to
R298, R301 to R304, R307, R312, R319, R406). -/

namespace Sys2Proof.Machine

/-! ### Planning a move -/

inductive MoveKind where
  | copy | gather | scatter | rcopy | fetchw
  deriving DecidableEq, Repr

/-- The memory pattern at `va`, which a command reads when it starts (R294, R301); its alignment is not checked. DEDUCED:
assumption 72. -/
def State.movePattern (s : State) (c : Cmd) (va : Nat) : Option Pattern :=
  ((s.fetchBytes c.got c.master va 64).bind patternOf).filter (fun p => p.kind = 0)

/-- The peer that an RCOPY's record names; DEVID is this package. -/
def Transfer.other (t : Transfer) (s : State) : Option Nat :=
  if t.peer % 1024 = s.link.devid.toNat then none else some (t.peer % 1024)

/-- A pattern's side; a pattern on a peer names no tile. -/
def patSide (dev : Option Nat) (p : Pattern) : Option Side :=
  match dev with
  | none => some (.pat p)
  | some d => if p.tile.isSome then none else some (.peer d p)

def State.moveSrc (s : State) (c : Cmd) (k : MoveKind) (t : Transfer) : Option Side :=
  match k with
  | .gather => some (.index t.src t.idx)
  | .rcopy => (s.movePattern c t.src).bind (patSide (if 32768 ≤ t.peer then t.other s else none))
  | _ => (s.movePattern c t.src).bind (patSide none)

def State.moveDst (s : State) (c : Cmd) (k : MoveKind) (t : Transfer) : Option Side :=
  let away : Option Nat := if k = .rcopy ∧ t.peer < 32768 then t.other s else none
  match k, t.ring with
  | .scatter, none => some (.index t.dst t.idx)
  | .scatter, some _ => none
  | _, some h =>
    (match c.src with
     | some i => if ((s.ctx i).getH h).valid ∧ away.isNone then some (.ring h) else none
     | none => none)
  | _, none => (s.movePattern c t.dst).bind (patSide away)

/-- The number of elements that a side fixes. -/
def Side.count (t : Transfer) : Side → Option Nat
  | .pat p => some p.count
  | .peer _ p => some p.count
  | .index _ _ => some t.nidx
  | .ring _ => none

def Side.alignedTo (n : Nat) : Side → Bool
  | .pat p => p.alignedTo n
  | .peer _ p => p.alignedTo n
  | _ => true

/-- The move of a record, if its sides agree (R301, R302, R319). -/
def State.planMove (s : State) (c : Cmd) (k : MoveKind) (t : Transfer) : Option Move :=
  match s.moveSrc c k t, s.moveDst c k t with
  | some a, some b =>
    let n := (a.count t).getD 0
    let agree : Bool := match b with
      | .ring h => (match c.src with
        | some i => n * t.size % ((s.ctx i).getH h).slot.toNat == 0
        | none => false)
      | b => b.count t == some n
    if agree ∧ (k = .gather ∨ k = .scatter ∨ (a.alignedTo t.size ∧ b.alignedTo t.size)) then
      some { size := t.size, n := n, src := a, dst := b, todo := if n = 0 then [] else [(0, n)], idx := [], vals := [], slots := 0 }
    else none
  | _, _ => none

/-- The tiles that a move uses, each with its ME and use; none where a pattern leaves its tile (R295). -/
def State.moveTiles (s : State) (m : Move) : Option (List (Nat × Nat × Nat)) :=
  let one (x : Side) (dst : Bool) : Option (List (Nat × Nat × Nat)) :=
    match x with
    | .pat p =>
      (match p.tileNo with
       | none => some []
       | some (t, drn) =>
         (s.tileMe p m.size t (if dst then .write else .read)).map (fun me => [(me, t, if dst then 0 else if drn then 2 else 1)]))
    | _ => some []
  (one m.src false).bind (fun a => (one m.dst true).map (fun b => a ++ b))

/-- The launch that a copy through an image posts (R301). An image whose header cannot be read, or has no shape, is refused when it is
placed (R205, R211). -/
def State.startVia (s : State) (id : Nat) (c : Cmd) (t : Transfer) : Option State :=
  if !s.mdWorks then none
  else
    let src := c.src.getD 0
    let s := s.inTurn 0 engineRank engineRank
    let shape := ((s.mdBytes t.via 64).map (fun h => fieldAt h 6 1)).getD 0
    let e : Entry := { Entry.blank with img := t.via, nimg := 1, shape := shape, pri := (s.ctx src).pri.toNat, owner := src }
    match s.newEntry e [] 0 with
    | none => some (s.cmdFail id)
    | some (s, lid) => some (s.setCmd id (fun c => { c with job := .via lid t.src t.dst t.ratio }))

/-- The records that a move reads: its transfer record, and the patterns that this names. -/
def State.moveRecords (s : State) (c : Cmd) (k : MoveKind) (xaddr : Nat) : List (Nat × Nat) :=
  (xaddr, 64) :: (match (s.fetchWith c.got c.master xaddr 64).bind (transferOf (k = .gather ∨ k = .scatter) (k = .rcopy)) with
    | some t =>
      if t.via ≠ 0 then []
      else (if k = .gather then [] else [(t.src, 64)]) ++ (if k = .scatter ∨ t.ring.isSome then [] else [(t.dst, 64)])
    | none => [])

/-- A command with a transfer record starts (R296); none where it waits for a tile. -/
def State.startMove (s : State) (id : Nat) (k : MoveKind) (xaddr : Nat) : Option State :=
  match s.cmds.find? id with
  | none => none
  | some c =>
    let recs := s.moveRecords c k xaddr
    match s.askRecords c.master id c.got recs with
    | some s => some s
    | none =>
    let fail : Option State := some ((s.mendAll recs).cmdFail id)
    match (s.fetchWith c.got c.master xaddr 64).bind (transferOf (k = .gather ∨ k = .scatter) (k = .rcopy)) with
    | none => fail
    | some t =>
      let s' := (s.mendAll recs).setCmd id (fun c => { c with count := t.count s c.src, follow := t.follow, ring := t.ring })
      if t.via ≠ 0 then (if k = .copy then s'.startVia id c t else some (s'.cmdFail id))
      else match s.planMove c k t with
        | none => some (s'.cmdFail id)
        | some m =>
          match s.moveTiles m with
          | none => some (s'.cmdFail id)
          | some tiles =>
            (s'.takeTiles id tiles).map (fun s =>
              s.setCmd id (fun c => { c with job := if m.n = 0 then .done else .move m }))

/-! ### The commands -/

def execCopy (site : CmdAt) (h : CmdHdr) (x : BitVec 46) (s : State) : Out :=
  match site with
  | .issue g0 g1 g2 => issue h (fun id => (subst1 s.me g0 g1 g2 x).map (fun x => (.copy (.start id) h x, s.ownEngine))) s
  | .start id => started id (fun s => s.startMove id .copy (x.toNat * 64)) s

def execGather (site : CmdAt) (h : CmdHdr) (x : BitVec 46) (s : State) : Out :=
  match site with
  | .issue g0 g1 g2 => issue h (fun id => (subst1 s.me g0 g1 g2 x).map (fun x => (.gather (.start id) h x, s.ownEngine))) s
  | .start id => started id (fun s => s.startMove id .gather (x.toNat * 64)) s

def execScatter (site : CmdAt) (h : CmdHdr) (x : BitVec 46) (s : State) : Out :=
  match site with
  | .issue g0 g1 g2 => issue h (fun id => (subst1 s.me g0 g1 g2 x).map (fun x => (.scatter (.start id) h x, s.ownEngine))) s
  | .start id => started id (fun s => s.startMove id .scatter (x.toNat * 64)) s

def execRcopy (site : CmdAt) (h : CmdHdr) (x : BitVec 46) (s : State) : Out :=
  match site with
  | .issue g0 g1 g2 => issue h (fun id => (subst1 s.me g0 g1 g2 x).map (fun x => (.rcopy (.start id) h x, s.ownEngine))) s
  | .start id => started id (fun s => s.startMove id .rcopy (x.toNat * 64)) s

def execFetchw (site : CmdAt) (h : CmdHdr) (x : BitVec 46) (pan : BitVec 12) (s : State) : Out :=
  match site with
  | .issue g0 g1 g2 =>
    issue h (fun id => (subst2 s.me g0 g1 g2 x pan).map (fun p => (.fetchw (.start id) h p.1 p.2, s.ownEngine))) s
  | .start id => started id (fun s => s.startMove id .fetchw (x.toNat * 64)) s

/-- The doubleword that PATSET writes: its offset in the record and its value (R298). -/
def patsetWord (sel : BitVec 3) (value : BitVec 52) : Nat × Nat :=
  match sel.toNat with
  | 5 => (0, value.toNat)
  | 6 => (56, value.toNat)
  | 7 => (8, (value.extractLsb' 0 24).toNat)
  | i => (16 + 8 * i, (value.extractLsb' 28 24).toNat + ((value.extractLsb' 0 28).signExtend 32).toNat * 2 ^ 32)

/-- A command that writes doublewords, after zeros. -/
def State.startWrites (s : State) (id : Nat) (w : Writes) : State := s.setCmd id (fun c => { c with job := .write w })

def execPatset (site : CmdAt) (h : CmdHdr) (raddr : BitVec 46) (sel : BitVec 3) (value : BitVec 52) (s : State) : Out :=
  match site with
  | .issue g0 g1 g2 =>
    issue h (fun id => (subst2 s.me g0 g1 g2 value raddr).map (fun p => (.patset (.start id) h p.2 sel p.1, s.ownEngine))) s
  | .start id =>
    let w := patsetWord sel value
    started id (fun s => some (s.startWrites id
      { zeros := 0, unit := 8, todo := [], later := [[(raddr.toNat * 64 + w.1, w.2)]] })) s

/-- A semaphore addition on peer `dev` leaves as a flit, or the command fails where no route leads there (R406, R415). -/
def State.sendSignal (s : State) (id dev core sem n : Nat) : State :=
  if (s.routeTo dev).isNone ∨ !s.portReady dev then s.cmdFail id
  else
    let r := s.request dev 6 2 (core * 64 + sem) 4 (bytesOf 4 n)
    r.1.setCmd id (fun c => { c with job := .signal dev r.2 (core * 64 + sem) })

def State.startSignal (s : State) (id dev : Nat) (rem : Bool) (core sem n : Nat) : State :=
  if rem ∧ dev ≠ s.link.devid.toNat then s.sendSignal id dev core sem n
  else if s.inReset core then s.cmdFail id
  else (s.semAdd core sem (BitVec.ofNat 32 n) (s.issuer id)).cmdDone id

def execSignal (site : CmdAt) (h : CmdHdr) (dev : BitVec 10) (rem : Bool) (core : BitVec 8) (sem : BitVec 6) (n : BitVec 32)
    (s : State) : Out :=
  match site with
  | .issue g0 g1 g2 =>
    issue h (fun id => (if devOk rem dev then subst2 s.me g0 g1 g2 n core else none).map (fun p =>
      (.signal (.start id) h dev rem p.2 sem p.1, s.ownEngine))) s
  | .start id => started id (fun s => some (s.startSignal id dev.toNat rem core.toNat sem.toNat n.toNat)) s

/-- GRIDDEF starts: the source descriptor is checked with VAL taken as 1 (R312). -/
def State.startGriddef (s : State) (id daddr saddr : Nat) (zero : Bool) : State :=
  match s.cmds.find? id with
  | none => s
  | some c =>
    match s.askRecords c.master id c.got [(saddr, 128)] with
    | some s => s
    | none =>
    match s.fetchWith c.got c.master saddr 128 with
    | none => s.cmdFail id
    | some bs =>
      let s := s.mend saddr 128
      let first := bitsOf (fieldAt bs 0 8) 62 0 + 2 ^ 63
      match regionOf (bytesOf 8 first ++ bs.drop 8) with
      | none => s.cmdFail id
      | some g =>
        let unit := min 8 g.entryBytes
        let n := g.l * 2 ^ g.t * g.entryBytes / unit
        s.startWrites id { zeros := g.base, unit := unit, todo := if zero then [(0, n)] else [],
                           later := [(List.range 15).map (fun i => (daddr + 8 * (i + 1), fieldAt bs (8 * (i + 1)) 8)),
                                     [(daddr, first)]] }

def execGriddef (site : CmdAt) (h : CmdHdr) (daddr saddr : BitVec 45) (zero : Bool) (s : State) : Out :=
  match site with
  | .issue g0 g1 g2 =>
    issue h (fun id => (subst2 s.me g0 g1 g2 daddr saddr).map (fun p => (.griddef (.start id) h p.1 p.2 zero, s.ownEngine))) s
  | .start id => started id (fun s => some (s.startGriddef id (daddr.toNat * 128) (saddr.toNat * 128) zero)) s

end Sys2Proof.Machine
end

