-- ==== Sys2Proof/Machine/Starts.lean ====
section
/-! DEFINITION. Stream commands of wide ports, memory elements, regions and the master distributor (R299, R300, R305, R306, R308 to
R311, R313, R322 to R327). -/

namespace Sys2Proof.Machine

/-! ### Residencies that commands name (R289, R291, R313) -/

inductive Target where
  /-- Not pending. -/
  | gone
  /-- Pending and not placed. -/
  | waits
  | here (r : Residency)

def State.target (s : State) (lid : Nat) : Target :=
  if (s.pendingEntry lid).isNone then .gone
  else match s.res.find? lid with
    | some r => .here r
    | none => .waits

/-- `f` once the residency is placed; an error where it is not pending. -/
def State.onTarget (s : State) (id lid : Nat) (f : Residency → Option State) : Option State :=
  match s.target lid with
  | .gone => some (s.cmdFail id)
  | .waits => none
  | .here r => f r

/-! ### Bindings (R299, R300) -/

/-- A port takes a new binding: it has none, or a pass has ended, its writes are acknowledged and no go is pending. -/
def State.portFree (s : State) (r : Residency) (u : Nat) (v : AgView) : Bool :=
  v.st.cmd.isNone &&
    (v.st.core.bound.isNone ||
      (0 < v.st.core.bursts && !v.st.core.active && r.gosFor u ≤ v.x.core.begun
        && (!v.p.out || (v.x.buf.isEmpty && !s.streamBusy r.lid u))))

/-- The binding of a placement list that comes first at a port has not been made: a binding of a program waits for it (R204, R435). -/
def State.listFirst (s : State) (lid wp : Nat) (r : Residency) : Bool :=
  r.unbound wp && s.cmds.any (fun c => c.2.exact.isSome && c.2.job = .queued && (match c.2.instr with
    | .bindld _ _ l p _ => l.toNat = lid && p.toNat = wp
    | .bindst _ _ l p _ => l.toNat = lid && p.toNat = wp
    | _ => false))

/-- BINDLD, or BINDST where `out`, starts. -/
def State.startBind (s : State) (id lid wp va : Nat) (out : Bool) : Option State :=
  s.onTarget id lid (fun r =>
    match (r.agAt wp).bind (fun u => (r.ag u).map (fun v => (u, v))), s.cmds.find? id with
    | some (u, v), some c =>
      if v.p.out ≠ out then some (s.cmdFail id)
      else if !s.portFree r u v ∨ (c.exact.isNone ∧ s.listFirst lid wp r) then none
      else
        let va := c.exact.getD va
        let recs := s.bindingRecords c va
        match s.askRecords c.master id c.got recs with
        | some s => some s
        | none =>
          match s.bindingOf c.got c.master r u v va with
          | .error _ => some (s.cmdFail id)
          | .ok b => (s.bindFor id lid u v b).map (·.mendAll recs)
    | _, _ => some (s.cmdFail id))

def execBindld (site : CmdAt) (h : CmdHdr) (lid : BitVec 32) (wp : BitVec 6) (paddr : BitVec 46) (s : State) : Out :=
  match site with
  | .issue g0 g1 g2 =>
    issue h (fun id => (subst2 s.me g0 g1 g2 paddr lid).map (fun p => (.bindld (.start id) h p.2 wp p.1, s.portDispatcher p.2.toNat wp.toNat))) s
  | .start id => started id (fun s => s.startBind id lid.toNat wp.toNat (paddr.toNat * 64) false) s

def execBindst (site : CmdAt) (h : CmdHdr) (lid : BitVec 32) (wp : BitVec 6) (paddr : BitVec 46) (s : State) : Out :=
  match site with
  | .issue g0 g1 g2 =>
    issue h (fun id => (subst2 s.me g0 g1 g2 paddr lid).map (fun p => (.bindst (.start id) h p.2 wp p.1, s.portDispatcher p.2.toNat wp.toNat))) s
  | .start id => started id (fun s => s.startBind id lid.toNat wp.toNat (paddr.toNat * 64) true) s

/-- The binding of stream `u` stops: its reads and undelivered answers are dropped, and its command completes once its
writes are acknowledged. The go of a pass under way stays pending (log 42). -/
def State.unbind (s : State) (lid u : Nat) (v : AgView) : State :=
  let mine (w : Owner) : Bool := match w with
    | .stream i j _ => i == lid && j == u
    | _ => false
  let s := { s with reqs := s.reqs.filter (fun q => !(mine q.2.owner && (match q.2.op with
                      | .read _ => true
                      | _ => false))),
                    walks := s.walks.filter (fun w => w.2.who ≠ Walker.stream lid u) }
  let s := s.onRes lid (fun r =>
    (r.onStream u (fun st => { st with
        core := { st.core with bound := none, active := false, issued := 0, tokens := 0, bursts := 0, held := [] },
        answers := [], entry := none, walking := false, next := none,
        cmd := if v.p.out then st.cmd else none, left := if v.p.out ∧ st.cmd.isSome then some v.x.buf.length else none })).onUnit u
      (fun x => if v.st.core.active then { x with core := { x.core with begun := x.core.begun - 1 } } else x))
  if v.p.out then s.settleStream lid u
  else match v.st.cmd with
    | some id => s.endBinding id
    | none => s

/-- UNBIND starts; it completes after the command of the binding that it stops. -/
def State.startUnbind (s : State) (id lid wp : Nat) : Option State :=
  match s.target lid with
  | .gone => some (s.cmdDone id)
  | .waits => none
  | .here r =>
    match (r.agAt wp).bind (fun u => (r.ag u).map (fun v => (u, v))) with
    | some (u, v) =>
      if v.st.core.bound.isNone then some (s.cmdDone id)
      else some ((s.setCmd id (fun c => { c with job := .unit })).unbind lid u v)
    | none => some (s.cmdDone id)

def execUnbind (site : CmdAt) (h : CmdHdr) (lid : BitVec 32) (wp : BitVec 6) (s : State) : Out :=
  match site with
  | .issue g0 g1 g2 =>
    issue h (fun id => (subst1 s.me g0 g1 g2 lid).map (fun l => (.unbind (.start id) h l wp, s.portDispatcher l.toNat wp.toNat))) s
  | .start id => started id (fun s => s.startUnbind id lid.toNat wp.toNat) s

/-! ### Memory elements (R305, R306) -/

def meNumber (isl : BitVec 6) (j : BitVec 9) : Nat := isl.toNat * 384 + j.toNat

/-- A command that uses a tile in `mask` at ME `me` is registered and incomplete (R295, R305). -/
def State.tileUsed (s : State) (me : Nat) (mask : BitVec 16) : Bool :=
  s.cmds.any (fun c => c.2.tiles.any (fun u => u.1 = me && mask.getLsbD u.2.1))

def State.startBarrier (s : State) (id isl me : Nat) (mask : BitVec 16) : Option State :=
  if !s.islandReady isl then some (s.cmdFail id)
  else if s.tileUsed me mask then none
  else some (s.cmdDone id)

def execBarrier (site : CmdAt) (h : CmdHdr) (isl : BitVec 6) (j : BitVec 9) (mask : BitVec 16) (s : State) : Out :=
  match site with
  | .issue g0 g1 g2 =>
    issue h (fun id => (if mejOk j then subst0 g0 g1 g2 else none).map (fun _ =>
      (.barrier (.start id) h isl j mask, .me (meNumber isl j)))) s
  | .start id => started id (fun s => s.startBarrier id isl.toNat (meNumber isl j) mask) s

def State.startTiledef (s : State) (id isl me tile : Nat) (base : BitVec 11) (size : BitVec 12) : Option State :=
  if !s.islandReady isl ∨ s.meTaken me ∨ 2048 < base.toNat + size.toNat then some (s.cmdFail id)
  else
    let t := s.tile me tile
    if t.defd ∧ t.st ≠ 0#2 then none
    else some ((s.setTile me tile { defd := true, st := 0, base := base, size := size }).cmdDone id)

def execTiledef (site : CmdAt) (h : CmdHdr) (isl : BitVec 6) (j : BitVec 9) (tile : BitVec 4) (base : BitVec 11) (size : BitVec 12)
    (s : State) : Out :=
  match site with
  | .issue g0 g1 g2 =>
    issue h (fun id => (if mejOk j ∧ sizeOk size then subst0 g0 g1 g2 else none).map (fun _ =>
      (.tiledef (.start id) h isl j tile base size, .me (meNumber isl j)))) s
  | .start id => started id (fun s => s.startTiledef id isl.toNat (meNumber isl j) tile.toNat base size) s

def State.startTileset (s : State) (id isl me tile : Nat) (st : BitVec 2) : State :=
  if !s.islandReady isl ∨ s.meTaken me ∨ !(s.tile me tile).defd then s.cmdFail id
  else (s.setTile me tile { s.tile me tile with st := st }).cmdDone id

def execTileset (site : CmdAt) (h : CmdHdr) (isl : BitVec 6) (j : BitVec 9) (tile : BitVec 4) (st : BitVec 2) (s : State) : Out :=
  match site with
  | .issue g0 g1 g2 =>
    issue h (fun id => (if mejOk j then subst0 g0 g1 g2 else none).map (fun _ =>
      (.tileset (.start id) h isl j tile st, .me (meNumber isl j)))) s
  | .start id => started id (fun s => some (s.startTileset id isl.toNat (meNumber isl j) tile.toNat st)) s

/-! ### Regions (R308 to R311) -/

/-- A CFGSW of the region that was accepted before command `id` has not completed. -/
def State.switchBefore (s : State) (id lid : Nat) : Bool :=
  let n := ((s.cmds.find? id).map (·.accNo)).getD 0
  s.cmds.any (fun c => c.2.accepted && c.2.accNo < n && c.2.job ≠ .done &&
    (match c.2.instr with
     | .cfgsw _ _ l _ => l.toNat = lid
     | _ => false))

/-- CFGLOAD starts: the shadow is loaded, or refused with a record to the issuer. -/
def State.startCfgload (s : State) (id lid va : Nat) : Option State :=
  s.onTarget id lid (fun r =>
    if r.switch.isSome ∨ s.switchBefore id lid then none
    else
      let got := (s.readImage va).bind (fun im =>
        if im.shape ≠ r.plan.img.shape then .error { code := .place, sect := 0, idx := 0 } else checkImage im r.ox r.oy)
      match got with
      | .ok p => some (((s.mendImage va).onRes lid (fun r => { r with shadow := some p })).cmdDone id)
      | .error x =>
        let rec' := { refusedRecord ((s.issuer id).getD r.owner) lid r.island r.cfg r.iter (r.cut + 1) x with rid := some lid }
        some ((((s.mendImage va).onRes lid (fun r => { r with shadow := none })).postRecord rec').cmdFail id))

def execCfgload (site : CmdAt) (h : CmdHdr) (lid : BitVec 32) (iaddr : BitVec 46) (s : State) : Out :=
  match site with
  | .issue g0 g1 g2 =>
    issue h (fun id => (subst2 s.me g0 g1 g2 iaddr lid).map (fun p => (.cfgload (.start id) h p.2 p.1, s.regionDispatcher p.2.toNat))) s
  | .start id => started id (fun s => s.startCfgload id lid.toNat (iaddr.toNat * 64)) s

def State.startCfgsw (s : State) (id lid : Nat) (t : Word) : Option State :=
  s.onTarget id lid (fun r =>
    match r.shadow with
    | none => some (s.cmdFail id)
    | some p =>
      some ((s.onRes lid (fun r => { r with shadow := none, switch := some { t := t, plan := p, fired := false, cmd := id } })).setCmd
        id (fun c => { c with job := .unit })))

def execCfgsw (site : CmdAt) (h : CmdHdr) (lid : BitVec 32) (t : BitVec 64) (s : State) : Out :=
  match site with
  | .issue g0 g1 g2 =>
    issue h (fun id => (subst2 s.me g0 g1 g2 t lid).map (fun p => (.cfgsw (.start id) h p.2 p.1, s.regionDispatcher p.2.toNat))) s
  | .start id => started id (fun s => s.startCfgsw id lid.toNat t) s

def State.startMark (s : State) (id lid : Nat) : Option State :=
  s.onTarget id lid (fun r =>
    some ((s.onRes lid Residency.askCut).setCmd id (fun c => { c with job := .mark (r.top + 1) })))

def execMark (site : CmdAt) (h : CmdHdr) (lid : BitVec 32) (s : State) : Out :=
  match site with
  | .issue g0 g1 g2 =>
    issue h (fun id => (subst1 s.me g0 g1 g2 lid).map (fun l => (.mark (.start id) h l, s.regionDispatcher l.toNat))) s
  | .start id => started id (fun s => s.startMark id lid.toNat) s

/-- The accumulator at a site, where its input a is connected. -/
def Residency.probed (r : Residency) (x y : Nat) : Option Nat :=
  (r.plan.img.elemAt x y 0).bind (fun u =>
    match r.opOf u with
    | some (_, o, _) => if o.isAcc ∧ (r.connTo u 0).isSome then some u else none
    | none => none)

def State.startProbe (s : State) (id lid x y : Nat) : Option State :=
  s.onTarget id lid (fun r =>
    match r.probed x y with
    | some u => some ((s.setCmd id (fun c => { c with job := .probe lid u })).sendProbe lid u)
    | none => some (s.cmdFail id))

def execProbe (site : CmdAt) (h : CmdHdr) (lid : BitVec 32) (x y : BitVec 6) (vd : VNum) (s : State) : Out :=
  match site with
  | .issue g0 g1 g2 =>
    issue h (fun id => (subst1 s.me g0 g1 g2 lid).map (fun l => (.probe (.start id) h l x y vd, s.regionDispatcher l.toNat))) s
  | .start id => started id (fun s => s.startProbe id lid.toNat x.toNat y.toNat) s

/-! ### Pans (R322 to R327) -/

def State.startPandef (s : State) (id n va : Nat) : State :=
  match s.pans.find? n, s.cmds.find? id with
  | none, some c =>
    (match (s.fetch mdMaster va 128).bind (fun bs => s.panOf bs (c.src.getD 0)) with
     | some p => ((s.mend va 128).putPan n p).cmdDone id
     | none => s.cmdFail id)
  | _, _ => s.cmdFail id

def execPandef (site : CmdAt) (h : CmdHdr) (pan : BitVec 12) (daddr : BitVec 45) (s : State) : Out :=
  match site with
  | .issue g0 g1 g2 =>
    issue h (fun id => (subst2 s.me g0 g1 g2 daddr pan).map (fun p => (.pandef (.start id) h p.2 p.1, .md))) s
  | .start id => started id (fun s => some (s.startPandef id pan.toNat (daddr.toNat * 128))) s

/-- PANCTL on a defined pan that the issuer owns, or whoever issues it where `any`; `f` gives the state after the operation, or
none for an error (R326). -/
def State.panctl (s : State) (id n : Nat) (any : Bool) (f : Pan → Option State) : State :=
  match s.pan? n with
  | some p =>
    if !any ∧ s.issuer id ≠ some p.owner then s.cmdFail id
    else match f p with
      | some s => s.cmdDone id
      | none => s.cmdFail id
  | none => s.cmdFail id

/-- PANCTL's fields after substitution: VALUE may have no bit outside `mask` (R326, log 12). -/
def subPanctl (mask : BitVec 32) (c : Ctx) (g0 g1 g2 : GReg) (value : BitVec 32) (pan : BitVec 12) :
    Option (BitVec 32 × BitVec 12) :=
  (subst2 c g0 g1 g2 value pan).filter (fun p => p.1 &&& ~~~mask == 0#32)

def State.panSetf (s : State) (n : Nat) (v : BitVec 32) (p : Pan) : Option State :=
  let f := (v.extractLsb' 0 12).toNat + 1
  if p.rcnt < f ∨ p.bcap < f then none else some (s.putPan n ({ p with f := f }.touch s.gcyc))

def execPanctlSetf (site : CmdAt) (h : CmdHdr) (pan : BitVec 12) (value : BitVec 32) (s : State) : Out :=
  match site with
  | .issue g0 g1 g2 =>
    issue h (fun id => (subPanctl 0xFFF#32 s.me g0 g1 g2 value pan).map (fun p => (.panctlSetf (.start id) h p.2 p.1, .md))) s
  | .start id => started id (fun s => some (s.panctl id pan.toNat false (s.panSetf pan.toNat value))) s

def execPanctlSeta (site : CmdAt) (h : CmdHdr) (pan : BitVec 12) (value : BitVec 32) (s : State) : Out :=
  match site with
  | .issue g0 g1 g2 =>
    issue h (fun id => (subPanctl 0xFFFFFF#32 s.me g0 g1 g2 value pan).map (fun p => (.panctlSeta (.start id) h p.2 p.1, .md))) s
  | .start id =>
    started id (fun s => some (s.panctl id pan.toNat false (fun p =>
      some (s.putPan pan.toNat ({ p with age := (value.extractLsb' 0 24).toNat }.touch s.gcyc))))) s

def execPanctlSetpri (site : CmdAt) (h : CmdHdr) (pan : BitVec 12) (value : BitVec 32) (s : State) : Out :=
  match site with
  | .issue g0 g1 g2 =>
    issue h (fun id => (subPanctl 3#32 s.me g0 g1 g2 value pan).map (fun p => (.panctlSetpri (.start id) h p.2 p.1, .md))) s
  | .start id =>
    started id (fun s => some (s.panctl id pan.toNat false (fun p =>
      some (s.putPan pan.toNat { p with pri := (value.extractLsb' 0 2).toNat })))) s

def State.panSetfb (s : State) (n : Nat) (v : BitVec 32) (p : Pan) : Option State :=
  match (v.extractLsb' 30 2).toNat with
  | 0 => some (s.putPan n { p with fbk := 0 })
  | 1 => some (s.putPan n { p with fbk := 1, fbdev := (v.extractLsb' 12 10).toNat, fbpan := (v.extractLsb' 0 12).toNat })
  | 2 => if p.fbtmpl = 0 then none else some (s.putPan n { p with fbk := 2 })
  | _ => none

def execPanctlSetfb (site : CmdAt) (h : CmdHdr) (pan : BitVec 12) (value : BitVec 32) (s : State) : Out :=
  match site with
  | .issue g0 g1 g2 =>
    issue h (fun id => (subPanctl 0xC03FFFFF#32 s.me g0 g1 g2 value pan).map (fun p => (.panctlSetfb (.start id) h p.2 p.1, .md))) s
  | .start id => started id (fun s => some (s.panctl id pan.toNat false (s.panSetfb pan.toNat value))) s

def execPanctlResume (site : CmdAt) (h : CmdHdr) (pan : BitVec 12) (value : BitVec 32) (s : State) : Out :=
  match site with
  | .issue g0 g1 g2 =>
    issue h (fun id => (subPanctl 0#32 s.me g0 g1 g2 value pan).map (fun p => (.panctlResume (.start id) h p.2 p.1, .md))) s
  | .start id => started id (fun s => some (s.panctl id pan.toNat false (fun _ => some (s.panResume pan.toNat)))) s

/-- The counters whose bits are set are zeroed (R336). -/
def Pan.clear (p : Pan) (v : BitVec 32) : Pan :=
  { p with c0 := if v.getLsbD 0 then 0 else p.c0, thr := if v.getLsbD 1 then 0 else p.thr, tim := if v.getLsbD 1 then 0 else p.tim,
           c2 := if v.getLsbD 2 then 0 else p.c2, c3 := if v.getLsbD 3 then 0 else p.c3 }

def execPanctlClear (site : CmdAt) (h : CmdHdr) (pan : BitVec 12) (value : BitVec 32) (s : State) : Out :=
  match site with
  | .issue g0 g1 g2 =>
    issue h (fun id => (subPanctl 0xF#32 s.me g0 g1 g2 value pan).map (fun p => (.panctlClear (.start id) h p.2 p.1, .md))) s
  | .start id =>
    started id (fun s => some (s.panctl id pan.toNat false (fun p => some (s.putPan pan.toNat (p.clear value))))) s

/-- WINDOW points sy.pancnt of the issuer's core at a counter (R336). -/
def State.panWindow (s : State) (id n : Nat) (v : BitVec 32) : State :=
  match s.issuer id with
  | some t => s.setCore (coreOf t) { s.core (coreOf t) with window := some (n, (v.extractLsb' 0 2).toNat) }
  | none => s

def execPanctlWindow (site : CmdAt) (h : CmdHdr) (pan : BitVec 12) (value : BitVec 32) (s : State) : Out :=
  match site with
  | .issue g0 g1 g2 =>
    issue h (fun id => (subPanctl 3#32 s.me g0 g1 g2 value pan).map (fun p => (.panctlWindow (.start id) h p.2 p.1, .md))) s
  | .start id => started id (fun s => some (s.panctl id pan.toNat true (fun _ => some (s.panWindow id pan.toNat value)))) s

def execPanctlEvict (site : CmdAt) (h : CmdHdr) (pan : BitVec 12) (value : BitVec 32) (s : State) : Out :=
  match site with
  | .issue g0 g1 g2 =>
    issue h (fun id => (subPanctl 0#32 s.me g0 g1 g2 value pan).map (fun p => (.panctlEvict (.start id) h p.2 p.1, .md))) s
  | .start id =>
    started id (fun s => some (s.panctl id pan.toNat false (fun p =>
      if p.wxfer = 0 then none else some (s.putPan pan.toNat { p with present := false })))) s

/-- FREE starts: it waits for the pan to be empty (COMMAND_COMPLETE). -/
def State.startFree (s : State) (id n : Nat) : State :=
  match s.pans.find? n with
  | some p => if s.issuer id ≠ some p.owner then s.cmdFail id else s.setCmd id (fun c => { c with job := .unit })
  | none => s.cmdFail id

def execPanctlFree (site : CmdAt) (h : CmdHdr) (pan : BitVec 12) (value : BitVec 32) (s : State) : Out :=
  match site with
  | .issue g0 g1 g2 =>
    issue h (fun id => (subPanctl 0#32 s.me g0 g1 g2 value pan).map (fun p => (.panctlFree (.start id) h p.2 p.1, .md))) s
  | .start id => started id (fun s => some (s.startFree id pan.toNat)) s

/-- PANDRAIN fires the pan at once, where it can be fired (R327). -/
def State.startPandrain (s : State) (id n : Nat) : State :=
  match s.pans.find? n with
  | some p =>
    if p.count = 0 then s.cmdDone id
    else
      let t := s.setCmd id (fun c => { c with job := .unit })
      if t.panNext = some n then t.fireNow n else t
  | none => s.cmdFail id

def execPandrain (site : CmdAt) (h : CmdHdr) (pan : BitVec 12) (s : State) : Out :=
  match site with
  | .issue g0 g1 g2 => issue h (fun id => (subst1 s.me g0 g1 g2 pan).map (fun p => (.pandrain (.start id) h p, .md))) s
  | .start id => started id (fun s => some (s.startPandrain id pan.toNat)) s

end Sys2Proof.Machine
end

