-- ==== Sys2Proof/Machine/Completing.lean ====
section
/-! DEFINITION. The accesses of the engines and the completion of commands (R248, R290, R291, R293, R296, R297, R301, R302, R319,
R326, R327, R404, R406). -/

namespace Sys2Proof.Machine

/-! ### Accesses of an engine -/

/-- Elements of a ring's slot being filled are still to be moved. -/
def Move.slotOpen (m : Move) (per : Nat) : Bool :=
  let inSlot (e : Nat) : Bool := m.slots * per ≤ e && e < (m.slots + 1) * per
  m.todo.any (fun i => i.1 < (m.slots + 1) * per && m.slots * per < i.2) || m.vals.any (fun p => inSlot p.1)
    || m.idx.any (fun p => inSlot p.1)

/-- A ring's slot whose writes are acknowledged is handed over: P rises by 1 (R319). -/
def State.handOver (s : State) (id : Nat) : State :=
  match s.cmds.find? id with
  | some c =>
    (match c.job, c.src with
     | .move m, some t =>
       (match m.dst with
        | .ring h =>
          let x := (s.ctx t).getH h
          let per := x.slot.toNat / m.size
          if (m.slots + 1) * per ≤ m.n ∧ !m.slotOpen per then
            (s.setCtx t ((s.ctx t).setH h { x with p := x.p + 1 })).setCmd id (fun c =>
              { c with job := .move { m with slots := m.slots + 1 } })
          else s
        | _ => s)
     | _, _ => s)
  | none => s

/-- A job with nothing left to be done is done; a drained tile is EMPTY once the last read has returned (R295). -/
def State.settleJob (s : State) (id : Nat) : State :=
  match s.cmds.find? id with
  | some c =>
    (match c.job with
     | .move m =>
       let s := if m.todo.isEmpty ∧ m.readsDue.isEmpty then s.endTiles id 2 else s
       if m.todo.isEmpty ∧ m.vals.isEmpty ∧ m.idx.isEmpty then (s.endTiles id 0).cmdDone id else s
     | .write w => if w.todo.isEmpty ∧ w.later.isEmpty then s.cmdDone id else s
     | _ => s)
  | none => s

/-- Access `k` of a command is over: with value `v`, or failed, which is an error case (R297, R313). -/
def State.cmdAfter (s : State) (id k : Nat) (v : Option Nat) : State :=
  let s := s.setCmd id (fun c =>
    { c with busy := false, err := c.err || v.isNone,
             job := match c.job with
                    | .move m => .move (m.after k v)
                    | .write w => .write (w.after k)
                    | j => j })
  (s.handOver id).settleJob id

def cmdOp (n : Nat) : Option Nat → AccOp
  | none => .read n
  | some v => .write n (BitVec.ofNat 64 v)

/-- Access `k` of command `c` is made: at a peer, in a CLM, or after a walk. -/
def State.cmdIssue (s : State) (id k : Nat) (c : Cmd) : State :=
  let (dev, va, n, w) := s.cmdAccess c k
  if va % n ≠ 0 then s.cmdAfter id k none
  else match dev with
    | some d =>
      (match s.routeTo d with
       | some p =>
         if s.soundReady p ∧ s.grants (24976 + p) c.master va (if w.isSome then .write else .read) then
           (let r := s.request d (if w.isSome then 1 else 0) 3 va n (bytesOf (if w.isSome then n else 0) (w.getD 0))
            r.1.addReq (cmdReq c.master id k 0 va (cmdOp n w) (.remote d r.2 s.cy)))
         else s.cmdAfter id k none
       | none => s.cmdAfter id k none)
    | none =>
      if inClm va then s.addReq (cmdReq c.master id k va va (cmdOp n w) .sent)
      else if 2 ^ 52 ≤ va then s.cmdAfter id k none
      else s.startWalk c.island (.cmd id k) va (if w.isSome then .write else .read)

/-- The number of accesses that a job may make next. -/
def State.jobChoices (s : State) (c : Cmd) : Nat :=
  match c.job with
  | .move m => m.choices (s.moveRing c m)
  | .write w => if w.todo.isEmpty then (w.later.headD []).length else intervalSize w.todo
  | _ => 0

/-- Choice `j` of them, and the job without it. -/
def State.jobPick (s : State) (c : Cmd) (j : Nat) : Option (Nat × Job) :=
  match c.job with
  | .move m => (m.pick (s.moveRing c m) j).map (fun x => (x.1, .move x.2))
  | .write w =>
    match takeNth w.todo j with
    | some (i, l) => some (2 * i, .write { w with todo := l })
    | none => some (2 * j + 1, .write w)
  | _ => none

/-- An engine makes its next access for command `id`, any of those that R248 allows. -/
def State.engineAccess (s : State) (id : Nat) : State :=
  match s.cmds.find? id with
  | some c =>
    let n := s.jobChoices c
    if c.busy ∨ n = 0 then s
    else match s.jobPick c (Config.pick (2 * s.tick + 1) % n) with
      | some (k, j) =>
        let c := { c with job := j, busy := true }
        (s.setCmd id (fun _ => c)).cmdIssue id k c
      | none => s
  | none => s

/-- The walk for access `k` of a command ends. -/
def State.cmdWalkDone (s : State) (id k va : Nat) (g : WalkGot) : State :=
  match s.cmds.find? id, g with
  | some c, .page e =>
    let (_, _, n, w) := s.cmdAccess c k
    s.addReq (cmdReq c.master id k (e.to va) va (cmdOp n w) .sent)
  | _, _ => s.cmdAfter id k none

/-- A doubleword of a record has been read at a peer, or could not be. -/
def State.recordRead (s : State) (id k : Nat) (v : Option Nat) : State :=
  s.setCmd id (fun c => { c with got := c.got.put (k - 2 ^ 80) (if v.isSome then 1 else 0, v.getD 0) })

/-- Access `k` of a command has been answered. -/
def State.cmdAnswered (s : State) (id k : Nat) (v : Option Nat) : State :=
  if 2 ^ 80 ≤ k then s.recordRead id k v else s.cmdAfter id k v

/-- The answer of request `req` reaches its command. -/
def State.answerCmd (s : State) (req : Nat) : State :=
  match s.reqs.find? req with
  | some r =>
    (match r.st, r.owner with
     | .answered (.value v _), .cmd id k => { s with reqs := s.reqs.drop req }.cmdAnswered id k (some v)
     | .answered _, .cmd id k => { s with reqs := s.reqs.drop req }.cmdAnswered id k none
     | _, _ => s)
  | none => s

/-! ### Completion (R293) -/

/-- A binding of a port that was accepted before number `n` is done and has yet to complete (R300). -/
def State.stopping (s : State) (lid : BitVec 32) (wp : BitVec 6) (n : Nat) : Bool :=
  s.cmds.any (fun c => c.2.job = .done && c.2.accNo < n && (match c.2.instr with
    | .bindld _ _ l p _ => l = lid && p = wp
    | .bindst _ _ l p _ => l = lid && p = wp
    | _ => false))

/-- A command that waited for its unit is through: UNBIND once the stopped command has completed, FREE with an empty pan,
PANDRAIN with nothing left to fire. -/
def State.unitDone (s : State) (id : Nat) (c : Cmd) : State :=
  match c.instr with
  | .unbind _ _ lid wp =>
    (match (s.res.find? lid.toNat).bind (fun r => (r.agAt wp.toNat).bind (fun u => r.streams.find? u)) with
     | some st => if (st.core.bound.isNone ∧ st.cmd.isSome) ∨ s.stopping lid wp c.accNo then s else s.cmdDone id
     | none => if (s.pendingEntry lid.toNat).isNone then s.cmdDone id else s)
  | .panctlFree _ _ pan _ =>
    (match s.pans.find? pan.toNat with
     | some p =>
       if p.count = 0 ∧ p.taken = 0 ∧ p.away.isEmpty ∧ p.bufs.all (· = .free) then
         { s with pans := s.pans.drop pan.toNat }.cmdDone id
       else s
     | none => s.cmdFail id)
  | .pandrain _ _ pan =>
    (match s.pans.find? pan.toNat with
     | some p => if p.count = 0 then s.cmdDone id else s
     | none => s.cmdFail id)
  | _ => s

/-- Step 1: the follow-on launch, as LAUNCH would post it (R301). -/
def State.postFollow (s : State) (id : Nat) (c : Cmd) : State :=
  if !s.mdWorks then s
  else match s.askRecords c.master id c.got [(c.follow, 64)] with
    | some s => s
    | none =>
      let s := s.setCmd id (fun c => { c with follow := 0 })
      let bs := if c.follow % 64 ≠ 0 then none else s.fetchWith c.got c.master c.follow 64
      match bs with
      | none => s.setCmd id (fun c => { c with err := true })
      | some bs =>
        let r := ((s.inTurn 0 engineRank engineRank).mend c.follow 64).launch bs (c.src.getD 0)
        if r.2 < 0 then s.setCmd id (fun c => { c with err := true }) else r.1

/-- Step 2: the counted semaphore (R296). -/
def State.countSem (s : State) (id : Nat) (c : Cmd) (k : Count) : State :=
  let s := s.setCmd id (fun c => { c with count := none })
  match k.dev with
  | some d => s.sendSignal id d k.core k.sem k.n
  | none =>
    if s.inReset k.core then s.setCmd id (fun c => { c with err := true })
    else s.semAdd k.core k.sem (BitVec.ofNat 32 k.n) c.src

/-- A slot counts one command less, and takes its error (R290, R291). -/
def Ctx.slotDown (c : Ctx) (d : BitVec 3) (err : Bool) : Ctx :=
  let k := c.getD d
  c.setD d { count := k.count - 1, err := k.err || err }

/-- Step 3: the slot; the command is over. -/
def State.endCmd (s : State) (id : Nat) (c : Cmd) : State :=
  let s := ((s.endTiles id 0).endTiles id 2)
  let s : State := { s with cmds := s.cmds.drop id }
  let s := match c.src, c.slot with
    | some t, some d => s.setCtx t ((s.ctx t).slotDown d c.err)
    | _, _ => s
  match c.instr, c.err with
  | .fetchw _ _ _ pan, false => s.weightsHere pan.toNat
  | _, _ => s

/-- A weight fetch of the master distributor ends through WEIGHT_FETCH_COMPLETE (R332). -/
def Cmd.ownFetch (c : Cmd) : Bool :=
  c.src.isNone && (match c.instr with
    | .fetchw _ _ _ _ => true
    | _ => false)

/-- COMMAND_COMPLETE: the next step of a command that has nothing left to do (R293). -/
def State.commandComplete (s : State) (id : Nat) : State :=
  match s.cmds.find? id with
  | some c =>
    (match c.job with
     | .unit => s.unitDone id c
     | .probe lid u => s.sendProbe lid u
     | .done =>
       if c.follow ≠ 0 then s.postFollow id c
       else match c.count with
         | some k => s.countSem id c k
         | none => if c.ownFetch then s else s.endCmd id c
     | _ => s)
  | none => s

def execCommandComplete (cmd : Nat) (s : State) : Out := .next (s.commandComplete cmd)

end Sys2Proof.Machine
end

