-- ==== Sys2Proof/Machine/Answers.lean ====
section
/-! DEFINITION. Walks level by level, and the return of answers to whoever asked (R55, R227, R228, R401, R404, R434). -/

namespace Sys2Proof.Machine

/-! ### Walks -/

/-- The right that an access needs (R227, R256). -/
def AccOp.kind : AccOp → Acc
  | .read _ => .read
  | .write _ _ => .write
  | .half _ _ => .write
  | .blockRead _ _ _ => .read
  | .blockWrite _ _ _ => .write
  | .vread _ _ => .read
  | .vwrite _ _ => .write
  | .amo _ _ => .atomic
  | .cas _ _ _ => .atomic
  | .lockCas _ _ => .atomic
  | .ldf empty => if empty then .readWrite else .read
  | .stf _ => .write
  | .gridAdd _ _ => .atomic

/-- The bytes of a peer's request. -/
def AccOp.span : AccOp → Nat
  | .blockRead n _ _ => n
  | .blockWrite n _ _ => n
  | _ => 1

/-- A peer's request has its address: it is queued at its home if the table of the receiving port grants it (R399, R401). -/
def Req.located (r : Req) (s : State) (port pa : Nat) : Req :=
  if s.grants (24976 + port) r.master pa r.op.kind then { r with pa := pa, st := .sent }
  else { r with pa := pa, st := .answered (.denied r.ea) }

/-- The rest of a block, past the page of its first bytes, has its address. -/
def Req.locatedRest (r : Req) (s : State) (port pa : Nat) : Req :=
  if s.grants (24976 + port) r.master pa r.op.kind then { r with pa2 := pa, st := .sent }
  else { r with st := .answered (.denied r.ea) }

/-- The page that a walk for a peer's request has found at `va`: of the request's first bytes, or of the rest of a block, which is
walked next (R401, log 95). -/
def State.peerPage (s : State) (id port va : Nat) (r : Req) (e : TlbEntry) : State :=
  if va ≠ r.ea then { s with reqs := s.reqs.put id (r.locatedRest s port (e.to va)) }
  else
    let got := { r.located s port (e.to va) with split := e.va + e.size - va }
    if got.st = .sent ∧ got.split < r.op.span then
      ({ s with reqs := s.reqs.put id { got with st := .walking } }).startWalk 0 (.req id port) (va + got.split) r.op.kind
    else { s with reqs := s.reqs.put id got }

/-- The walk of a peer's request ends (R401, R404). -/
def State.peerWalkDone (s : State) (id port va : Nat) (g : WalkGot) : State :=
  match s.reqs.find? id with
  | none => s
  | some r =>
    let fails (a : Answer) : State := { s with reqs := s.reqs.put id { r with st := .answered a } }
    match g with
    | .page e => s.peerPage id port va r e
    | .denied => fails (.denied r.ea)
    | .ecc => fails (.uncorrectable r.ea)
    | _ => fails (.unmapped r.ea)

/-- A walk ends: its result goes to the thread, stream, command or peer's request that asked. -/
def State.walkEnds (s : State) (w : Walk) (g : WalkGot) : State :=
  match w.who with
  | .ctx t => s.walkDone t w.va g
  | .stream rid u => s.streamWalkDone rid u w.va g
  | .cmd id k => s.cmdWalkDone id k w.va g
  | .req id port => s.peerWalkDone id port w.va g

/-- Walk `id` goes on with the entry that it has read at a level, or ends. -/
def State.walkStep (s : State) (id : Nat) (w : Walk) (g : WalkGot) : State :=
  match g with
  | .next l b => { s with walks := s.walks.put id { w with lvl := l, base := b, asked := false } }
  | g => { s with walks := s.walks.drop id }.walkEnds w g

/-- PAGE_WALK: a walk in flight reads the entry of one level, or asks a peer for it. -/
def State.pageWalk (s : State) (id : Nat) : State :=
  match s.walks.find? id with
  | some w =>
    if !s.inFlight id ∨ w.asked ∨ s.inCopy (pteAddr w.lvl w.base w.va) then s
    else
      let a := pteAddr w.lvl w.base w.va
      match s.readPte a with
      | (s, .entry v) => s.walkStep id w (walkEntry w.lvl w.va v w.kind)
      | (s, .ends g) => s.walkStep id w g
      | (s, .ask) =>
        let r : Req := { master := walkMaster, owner := .walk id, op := .read 8, pa := a, split := 40, pa2 := 0, ea := a,
                         st := .sent }
        { s.addReq r with walks := s.walks.put id { w with asked := true } }
  | none => s

/-- The answer of a peer to a walk's request. -/
def State.walkAnswer (s : State) (req : Nat) : State :=
  match s.reqs.find? req with
  | some r =>
    (match r.st, r.owner with
     | .answered a, .walk id =>
       let s := { s with reqs := s.reqs.drop req }
       (match s.walks.find? id with
        | some w =>
          s.walkStep id w (match a with
            | .value v _ => walkEntry w.lvl w.va v w.kind
            | .uncorrectable _ => .ecc
            | _ => .fault)
        | none => s)
     | _, _ => s)
  | none => s

def execPageWalk (walk : Nat) (s : State) : Out := .next (s.pageWalk walk)

/-! ### Answers to peers (R401) -/

/-- The status and the bytes that answer a peer. -/
def Answer.flit (a : Answer) (op : AccOp) : Nat × List Byte :=
  match a with
  | .value v _ =>
    (0, match op with
        | .read n => bytesOf n v
        | .blockRead n _ _ => bytesOf n v
        | .amo fn _ => bytesOf (if fnWide fn then 8 else 4) v
        | .cas fn _ _ => bytesOf (if fnWide fn then 8 else 4) v
        | _ => [])
  | .denied _ => (1, [])
  | .uncorrectable _ => (1, [])
  | .unmapped _ => (2, [])

def AccOp.stores : AccOp → Bool
  | .write _ _ => true
  | .vwrite _ _ => true
  | .blockWrite _ _ _ => true
  | _ => false

/-- A peer's request has been performed: RESP, or ACK for a write. -/
def State.answerPeer (s : State) (req : Nat) : State :=
  match s.reqs.find? req with
  | some r =>
    (match r.st, r.owner with
     | .answered a, .peer d _ q =>
       let x := a.flit r.op
       { s with reqs := s.reqs.drop req }.emit
         { op := if r.op.stores then 5 else 4, cls := 1, src := s.link.devid.toNat, dst := d, seq := q, len := x.2.length,
           addr := x.1, payload := x.2 }
     | _, _ => s)
  | none => s

/-- The host's access to a peer's window ends: a read returns its bytes, those before the first piece refused (R409, log 33). -/
def State.hostAnswer (s : State) (req : Nat) : State :=
  match s.reqs.find? req with
  | some r =>
    (match r.st with
     | .answered a =>
       let s := { s with reqs := s.reqs.drop req }
       let give (n v : Nat) : State := { s with hostIn := s.hostIn ++ [bytesOf n v] }
       (match r.op, a with
        | .blockRead n _ _, .value v _ => give n v
        | .blockRead _ i v, _ => give i v
        | _, _ => s)
     | _ => s)
  | none => s

/-! ### ACCESS_ANSWER -/

/-- The answer of request `req` reaches its requester. -/
def State.accessAnswer (s : State) (req : Nat) : State :=
  match s.reqs.find? req with
  | some r =>
    (match r.owner with
     | .ctx _ => s.answerCtx req
     | .stream rid u _ => (s.streamAnswer rid u).getD s
     | .cmd _ _ => s.answerCmd req
     | .peer _ _ _ => s.answerPeer req
     | .walk _ => s.walkAnswer req
     | .host => s.hostAnswer req)
  | none => s

def execAccessAnswer (req : Nat) (s : State) : Out := .next (s.accessAnswer req)

/-! ### Answers from peers (R404) -/

/-- A RESP or ACK of status `status` with value `v` for an outstanding request. RESP carries no flags: those of FADD follow from
the old value that it carries and the operand (R260, R401). -/
def Req.heard (r : Req) (status v : Nat) : Req :=
  if status = 2 then { r with st := .answered (.unmapped r.ea) }
  else if status ≠ 0 then { r with st := .answered (.denied r.ea) }
  else
    let got := match r.op with
      | .vread i img => vreadNext i img v
      | .vwrite i img => vwriteNext i img
      | .blockRead n i x => blockReadNext n i x (pieceOf (r.byteAt i) (n - i)) v
      | .blockWrite n i x => blockWriteNext n i x (pieceOf (r.byteAt i) (n - i))
      | .half odd x => .more (.write 1 (BitVec.ofNat 64 (halfByte odd v x)))
      | .amo fn b => .ans (.value v (amoWord (fnOp fn) (fnWide fn) v b).2)
      | _ => .ans (.value v 0#5)
    match got with
    | .ans a => { r with st := .answered a }
    | .more op => { r with op := op, st := .sent }
    | .wait st => { r with st := st }

/-- The oldest outstanding request to a peer with a sequence number: a store, or another access (log 30). -/
def State.outstanding (s : State) (dev seq : Nat) (store : Bool) : Option (Nat × Req) :=
  List.find? (fun q => q.2.op.stores == store && (match q.2.st with
    | .remote d k _ => d = dev && k = seq
    | _ => false)) s.reqs

/-- REQUEST_TIMEOUT: 2^22 cycles without an answer (R404). -/
def State.timedOut (s : State) (r : Req) : Bool :=
  match r.st with
  | .remote _ _ since => 2 ^ 22 ≤ s.cy - since
  | _ => false

def execRequestTimeout (req : Nat) (s : State) : Out :=
  match s.reqs.find? req with
  | some r =>
    .next (if s.timedOut r then { s with reqs := s.reqs.put req { r with st := .answered (.denied r.ea) } } else s)
  | none => .next s

end Sys2Proof.Machine
end

