-- ==== Sys2Proof/Machine/Atomics.lean ====
section
/-! DEFINITION. Synchronising loads and STF, atomics, locks and FENCE (R254 to R266), LDF_RETRY and LOCK_WAKE. -/

namespace Sys2Proof.Machine

/-! ### LDF, LDFE, STF (R256) -/

/-- The page right that LDFE needs is R and W; a page with both but not A permits it (R256). -/
def ldfWith (empty : Bool) (d a : GReg) (s : State) : Out :=
  access { ea := s.me.get a, n := 8, align := 8, kind := if empty then .readWrite else .read, op := .ldf empty,
           fin := fun _ => .load d 8 false, intr := fun _ => true } s

def execLdf (d a : GReg) (_ : BitVec 3) (s : State) : Out := ldfWith false d a s
def execLdfe (d a : GReg) (_ : BitVec 3) (s : State) : Out := ldfWith true d a s

def execStf (a b : GReg) (_ : BitVec 3) (s : State) : Out :=
  access { ea := s.me.get a, n := 8, align := 8, kind := .write, op := .stf (s.me.get b), fin := fun _ => .store,
           intr := fun _ => false } s

/-- A request that a full wait list refused is sent again after 64 cy (R257). -/
def execLdfRetry (req : Nat) (s : State) : Out :=
  .next { s with reqs := s.reqs.adjust req (fun r => if r.st = .refused then { r with st := .sent } else r) }

/-! ### AMO and CAS (R260 to R262) -/

/-- The fn field of an atomic (R40). -/
def atomicFn (op : Nat) (aq rl : Bool) (scope : BitVec 3) (w : Bool) : BitVec 11 :=
  BitVec.ofNat 4 op ++ BitVec.ofBool aq ++ BitVec.ofBool rl ++ scope ++ BitVec.ofBool w ++ 0#1

/-- An AMO; the result of a 32-bit MINN, MAXN or FADD is zero-extended (R260). -/
def amo (op : Nat) (d a b : GReg) (aq rl : Bool) (scope : BitVec 3) (w : Bool) (s : State) : Out :=
  access { ea := s.me.get a, n := if w then 8 else 4, align := if w then 8 else 4, kind := .atomic,
           op := .amo (atomicFn op aq rl scope w) (s.me.get b),
           fin := fun _ => .old d w (!(op = 6 || op = 7 || op = 10)), intr := fun _ => false } s

def execAmoAdd (d a b : GReg) (aq rl : Bool) (sc : BitVec 3) (w : Bool) (s : State) : Out := amo 0 d a b aq rl sc w s
def execAmoAnd (d a b : GReg) (aq rl : Bool) (sc : BitVec 3) (w : Bool) (s : State) : Out := amo 1 d a b aq rl sc w s
def execAmoOr (d a b : GReg) (aq rl : Bool) (sc : BitVec 3) (w : Bool) (s : State) : Out := amo 2 d a b aq rl sc w s
def execAmoXor (d a b : GReg) (aq rl : Bool) (sc : BitVec 3) (w : Bool) (s : State) : Out := amo 3 d a b aq rl sc w s
def execAmoMin (d a b : GReg) (aq rl : Bool) (sc : BitVec 3) (w : Bool) (s : State) : Out := amo 4 d a b aq rl sc w s
def execAmoMax (d a b : GReg) (aq rl : Bool) (sc : BitVec 3) (w : Bool) (s : State) : Out := amo 5 d a b aq rl sc w s
def execAmoMinn (d a b : GReg) (aq rl : Bool) (sc : BitVec 3) (w : Bool) (s : State) : Out := amo 6 d a b aq rl sc w s
def execAmoMaxn (d a b : GReg) (aq rl : Bool) (sc : BitVec 3) (w : Bool) (s : State) : Out := amo 7 d a b aq rl sc w s
def execAmoSwap (d a b : GReg) (aq rl : Bool) (sc : BitVec 3) (w : Bool) (s : State) : Out := amo 8 d a b aq rl sc w s
def execAmoSadd (d a b : GReg) (aq rl : Bool) (sc : BitVec 3) (w : Bool) (s : State) : Out := amo 9 d a b aq rl sc w s
def execAmoFadd (d a b : GReg) (aq rl : Bool) (sc : BitVec 3) (w : Bool) (s : State) : Out := amo 10 d a b aq rl sc w s

def execCas (d a b : GReg) (aq rl : Bool) (scope : BitVec 3) (w : Bool) (s : State) : Out :=
  access { ea := s.me.get a, n := if w then 8 else 4, align := if w then 8 else 4, kind := .atomic,
           op := .cas (atomicFn 0 aq rl scope w) (s.me.get d) (s.me.get b), fin := fun _ => .old d w true,
           intr := fun _ => false } s

/-! ### Locks (R263 to R265) -/

def execLock (a : GReg) (_ : BitVec 3) (s : State) : Out :=
  access { ea := s.me.get a, n := 8, align := 8, kind := .atomic, op := .lockCas 0 (s.lockWord s.cur),
           fin := fun pa => .lock false pa, intr := fun _ => false } s

def execUnlock (a : GReg) (_ : BitVec 3) (s : State) : Out :=
  access { ea := s.me.get a, n := 8, align := 8, kind := .atomic, op := .lockCas (s.lockWord s.cur) 0,
           fin := fun pa => .unlock pa, intr := fun _ => false } s

/-- The wake of a lock word reaches the sync table of an island: every context in its record executes LOCK again, and
the record is freed (R265). -/
def execLockWake (island key : Nat) (s : State) : Out :=
  if s.wakes.contains (island, key) then
    let s := { s with wakes := s.wakes.erase (island, key) }
    match s.findSync island (isLock key) with
    | some (p, .lock _ w) =>
      .next ((List.range 32).foldl (fun (s : State) i =>
        let t := island * 32 + i
        if w.getLsbD i ∧ (s.ctx t).wait = .lock key then s.setCtx t (s.ctx t).wake else s) (s.dropSync island p))
    | _ => .next s
  else .next s

/-! ### FENCE (R266) -/

/-- Every command that the thread issued has been accepted. -/
def State.allAccepted (s : State) (t : Nat) : Bool := s.cmds.all (fun c => c.2.src ≠ some t || c.2.accepted)

def execFence (scope : BitVec 3) (s : State) : Out :=
  if s.allAccepted s.cur then retireWith 1 (fun c => if 3 ≤ scope.toNat then { c with tlb := [] } else c) s
  else waitOn (.poll .accepted) false s

end Sys2Proof.Machine
end

