-- ==== Sys2Proof/Machine/Control.lean ====
section
/-! DEFINITION. Branches, jumps, LOOP and the moves between v and g registers (R58 to R64). -/

namespace Sys2Proof.Machine

/-- A conditional branch (R58, R62). -/
def branchIf (p : Word → Word → Bool) (a b : GReg) (off : BitVec 16) (s : State) : Out :=
  if p (s.me.get a) (s.me.get b) then jumpTo (relative s.me.pc off) id s else retireWith 1 id s

def execBeq (a b : GReg) (off : BitVec 16) (s : State) : Out := branchIf (fun x y => x == y) a b off s
def execBne (a b : GReg) (off : BitVec 16) (s : State) : Out := branchIf (fun x y => x != y) a b off s
def execBlt (a b : GReg) (off : BitVec 16) (s : State) : Out := branchIf (fun x y => x.slt y) a b off s
def execBge (a b : GReg) (off : BitVec 16) (s : State) : Out := branchIf (fun x y => !x.slt y) a b off s
def execBltn (a b : GReg) (off : BitVec 16) (s : State) : Out := branchIf (fun x y => x.ult y) a b off s
def execBgen (a b : GReg) (off : BitVec 16) (s : State) : Out := branchIf (fun x y => !x.ult y) a b off s

def execJal (d : GReg) (off : BitVec 21) (s : State) : Out :=
  jumpTo (relative s.me.pc off) (fun c => c.set d (c.pc + 4#64)) s

def execJalr (d a : GReg) (off : BitVec 16) (s : State) : Out :=
  jumpTo (s.me.get a + off.signExtend 64) (fun c => c.set d (c.pc + 4#64)) s

/-- LOOP: g0 reads 0 and discards its write, so LOOP g0 is always taken (R61). -/
def execLoop (a : GReg) (off : BitVec 16) (s : State) : Out :=
  let n := s.me.get a - 1#64
  if n != 0#64 then jumpTo (relative s.me.pc off) (fun c => c.set a n) s
  else retireWith 1 (fun c => c.set a n) s

def execVmov (d a : VNum) (s : State) : Out := retireWith 1 (fun c => c.setV d (c.getV a)) s

def execVget (d : GReg) (a : VNum) (lane : BitVec 3) (s : State) : Out :=
  writeReg d (fun c => ((c.getV a).lane lane.toNat).setWidth 64) s

def execVgetLm (d : GReg) (a : VNum) (s : State) : Out := writeReg d (fun c => (c.getV a).lm.setWidth 64) s

end Sys2Proof.Machine
end

