-- ==== Sys2Proof/Machine/Flits.lean ====
section
/-! DEFINITION. Flits that arrive at the sound ports (R363, R399 to R408, R415). -/

namespace Sys2Proof.Machine

/-! ### Arrival -/

/-- A flit is counted in PSTAT [63:32] of a port (R398, R400, R401). -/
def State.countFlit (s : State) (port : Nat) (n : BitVec 32) : State :=
  { s with link := { s.link with resent := s.link.resent.put port (s.link.resent.getD port 0 + n) } }

/-! ### Requests (R399, R401, R403) -/

/-- A peer's request is translated here by a walk, for which island 0's walker stands (log 23), and then queued at its home
under the table of the receiving port (R399). -/
def State.peerRequest (s : State) (port : Nat) (f : Flit) (op : AccOp) : State :=
  let r (st : ReqState) : Req :=
    { master := (Config.peerMaster f.src).toNat, owner := .peer f.src f.cls f.seq, op := op, pa := f.addr, split := 64, pa2 := 0,
      ea := f.addr, st := st }
  if inClm f.addr then s.addReq ((r .sent).located s port f.addr)
  else (s.addReq (r .walking)).startWalk 0 (.req s.nextId port) f.addr op.kind

/-- The bytes that a flit names: 1 to 64 (R400). -/
def flitCount (f : Flit) : Nat := (f.len + 63) % 64 + 1

/-- An access of `n` bytes at the flit's address is one of a single word; any other moves piece by piece (log 95). -/
def singleWord (f : Flit) (n : Nat) : Bool := (n = 1 || n = 2 || n = 4 || n = 8) && f.addr % n = 0

def State.flitRd (s : State) (port : Nat) (f : Flit) : State :=
  let n := flitCount f
  s.peerRequest port f (if singleWord f n then .read n else .blockRead n 0 0)

def State.flitWr (s : State) (port : Nat) (f : Flit) : State :=
  let n := flitCount f
  let v := leNat (f.payload.take n)
  s.peerRequest port f (if singleWord f n then .write n (BitVec.ofNat 64 v) else .blockWrite n 0 v)

/-- A field of a payload. -/
def Flit.word (f : Flit) (off n : Nat) : Nat := fieldAt f.payload off n

/-- An atomic whose address is misaligned is answered at once with status 1. -/
def State.flitAtomic (s : State) (port : Nat) (f : Flit) (fn : BitVec 11) (op : AccOp) : State :=
  if f.addr % (if fnWide fn then 8 else 4) = 0 then s.peerRequest port f op
  else s.addReq { master := (Config.peerMaster f.src).toNat, owner := .peer f.src f.cls f.seq, op := op, pa := f.addr, split := 64,
                  pa2 := 0, ea := f.addr, st := .answered (.denied f.addr) }

def State.flitAmo (s : State) (port : Nat) (f : Flit) : State :=
  let fn := BitVec.ofNat 11 (Flit.word f 8 2)
  s.flitAtomic port f fn (.amo fn (BitVec.ofNat 64 (Flit.word f 0 8)))

def State.flitCas (s : State) (port : Nat) (f : Flit) : State :=
  let fn := BitVec.ofNat 11 (Flit.word f 16 2)
  s.flitAtomic port f fn (.cas fn (BitVec.ofNat 64 (Flit.word f 0 8)) (BitVec.ofNat 64 (Flit.word f 8 8)))

/-- SIGNAL: the addition, and its ACK; status 3 where the core is in reset or the count saturates (R401, R406). -/
def State.peerSignal (s : State) (f : Flit) : State :=
  let core := f.addr / 64 % 256
  let sem := f.addr % 64
  let n := BitVec.ofNat 32 (Flit.word f 0 4)
  if s.inReset core then s.respond f 5 3 []
  else
    let past := decide (2 ^ 32 ≤ (s.sem core sem).toNat + n.toNat)
    (s.semAdd core sem n none).respond f 5 (if past then 3 else 0) []

/-! ### Answers (R404, R406) -/

def State.flitResp (s : State) (f : Flit) : State :=
  match s.outstanding f.src f.seq false with
  | some (id, r) => { s with reqs := s.reqs.put id (r.heard (f.addr % 4) (leNat f.payload)) }
  | none => s

/-- The oldest command whose addition at a peer awaits an ACK. -/
def State.signalOf (s : State) (dev seq : Nat) : Option (Nat × Cmd × Nat) :=
  s.cmds.findSome? (fun c => match c.2.job with
    | .signal d q a => if d = dev ∧ q = seq then some (c.1, c.2, a) else none
    | _ => none)

/-- ACK for a SIGNAL: an error status is the command's error, and saturation its issuer's semaphore fault (R296, R406). -/
def State.signalAcked (s : State) (id : Nat) (c : Cmd) (sem status : Nat) : State :=
  let s := s.setCmd id (fun c => { c with job := .done, err := c.err || status != 0 })
  match status, c.src with
  | 3, some t => s.pendCause t 13 (BitVec.ofNat 64 sem)
  | _, _ => s

def State.flitAck (s : State) (f : Flit) : State :=
  match s.outstanding f.src f.seq true, s.signalOf f.src f.seq with
  | some (id, r), _ => { s with reqs := s.reqs.put id (r.heard (f.addr % 4) 0) }
  | none, some (id, c, sem) => s.signalAcked id c sem (f.addr % 4)
  | none, none => s.panAcked f.src f.seq

/-! ### Pan entries from a peer (R407, R408) -/

/-- The source number of entries that a peer sent, beside the launch ids of PANQ elements. -/
def peerSource (dev : Nat) : Nat := 2 ^ 40 + dev

def Flit.entries (f : Flit) : List PanWord :=
  (List.range (min 5 (flitCount f))).map (fun i => BitVec.ofNat 96 (fieldAt f.payload (12 * i) 12))

/-- Entries of a peer wait at the master distributor for the pan. -/
def State.holdEntries (s : State) (dev pan : Nat) (ws : List PanWord) : State :=
  ws.foldl (fun (s : State) w =>
    { s.fresh with flights := s.flights.put s.nextId { pan := pan, word := w, rid := peerSource dev, unit := 0 } }) s

/-- The entries of an accepted flit are taken in order; from one that fails, the rest wait for the pan. -/
def State.takeEntries (s : State) (dev pan : Nat) : List PanWord → State
  | [] => s
  | w :: ws =>
    match s.pan? pan with
    | none => s.holdEntries dev pan (w :: ws)
    | some p =>
      match s.panAccept pan p w with
      | (t, true) => t.takeEntries dev pan ws
      | (t, false) => t.holdEntries dev pan (w :: ws)

/-- PNACK, with the sequence number of the refused flit. -/
def State.pnack (s : State) (f : Flit) (pan : Nat) (undef : Bool) : State :=
  s.emit { op := 8, cls := 1, src := s.link.devid.toNat, dst := f.src, seq := f.seq, len := 2,
           addr := pan + (if undef then 4096 else 0), payload := bytesOf 2 f.seq }

def State.peerPanq (s : State) (f : Flit) : State :=
  let pan := f.addr % 4096
  match s.pans.find? pan with
  | none => s.pnack f pan true
  | some p =>
    if s.refused.contains (f.src, pan) then s
    else if p.held.isSome then { s with refused := s.refused ++ [(f.src, pan)] }.pnack f pan false
    else
      let waits := s.flights.any (fun x => x.2.rid = peerSource f.src && x.2.pan = pan)
      let s := if waits then s.holdEntries f.src pan (Flit.entries f)
        else (s.inTurn 1 (2 ^ 20 + peerSource f.src) (2 ^ 20 + peerSource f.src)).takeEntries f.src pan (Flit.entries f)
      s.respond f 5 0 []

/-! ### Order of arrival, and what each flit does (R401 to R403) -/

/-- What a flit for this device does. -/
def State.takeFlit (s : State) (port : Nat) (f : Flit) : State :=
  match f.op with
  | 0 => s.flitRd port f
  | 1 => s.flitWr port f
  | 2 => s.flitAmo port f
  | 3 => s.flitCas port f
  | 4 => s.flitResp f
  | 5 => s.flitAck f
  | 6 => s.peerSignal f
  | 7 => s.peerPanq f
  | 8 => s.panRefusedBy f.src (f.addr % 4096) (Flit.word f 0 2 % 4096) (decide (f.addr / 4096 % 2 = 1))
  | _ => s.peerResumes f.src (f.addr % 4096)

/-- The next sequence number of the requests of a source and class. -/
def State.expectedSeq (s : State) (src cls : Nat) : Nat := s.expects.getD (4 * src + cls) 0

/-- The flits that came early and whose turn has come are taken, in order. -/
def State.takeEarly (s : State) (src cls : Nat) : Nat → State
  | 0 => s
  | n + 1 =>
    match s.early.findIdx? (fun e => e.2.2.src = src && e.2.2.cls = cls && e.2.2.seq = s.expectedSeq src cls) with
    | none => s
    | some i =>
      match s.early[i]? with
      | none => s
      | some (_, port, f) =>
        let s := { s with early := s.early.eraseIdx i, expects := s.expects.put (4 * src + cls) ((f.seq + 1) % 4096) }
        (s.takeFlit port f).takeEarly src cls n

/-- A request flit in the order of its sequence number; one ahead of its turn waits, one behind it is taken at once (R403,
log 95). -/
def State.inSeq (s : State) (port : Nat) (f : Flit) : State :=
  let ahead := (f.seq + 4096 - s.expectedSeq f.src f.cls) % 4096
  if ahead = 0 then
    ({ s with expects := s.expects.put (4 * f.src + f.cls) ((f.seq + 1) % 4096) }.takeFlit port f).takeEarly f.src f.cls s.early.length
  else if ahead < 2048 then { s with early := s.early ++ [(s.cy, port, f)] }
  else s.takeFlit port f

/-- A flit of a source has waited 2^22 cycles for one before it, which will not come: what is missing is passed over (log 95). -/
def State.passGap (s : State) (src cls : Nat) : State :=
  let is (e : Nat × Nat × Flit) : Bool := e.2.2.src = src && e.2.2.cls = cls
  if s.early.any (fun e => is e && decide (2 ^ 22 ≤ s.cy - e.1)) then
    let q := s.expectedSeq src cls
    let next := ((s.early.filter is).map (fun e => (e.2.2.seq + 4096 - q) % 4096)).foldl min 4095
    { s with expects := s.expects.put (4 * src + cls) ((q + next) % 4096) }.takeEarly src cls s.early.length
  else s

/-- A flit of operation `op` in one of the classes `cls` is forwarded, or taken; one outside the table is discarded and counted. An
answer carries its request's number, and has no order of its own (R401, R402). -/
def flitIn (port op : Nat) (cls : List Nat) (f : Flit) (s : State) : Out :=
  if f.op ≠ op ∨ !cls.contains f.cls then .next (s.countFlit port 1)
  else if f.dst ≠ s.link.devid.toNat then .next (s.emit f)
  else .next (if f.cls = 1 then s.takeFlit port f else s.inSeq port f)

def execFlitRd (port : Nat) (f : Flit) (s : State) : Out := flitIn port 0 [0, 3] f s
def execFlitWr (port : Nat) (f : Flit) (s : State) : Out := flitIn port 1 [0, 3] f s
def execFlitAmo (port : Nat) (f : Flit) (s : State) : Out := flitIn port 2 [0] f s
def execFlitCas (port : Nat) (f : Flit) (s : State) : Out := flitIn port 3 [0] f s
def execFlitResp (port : Nat) (f : Flit) (s : State) : Out := flitIn port 4 [1] f s
def execFlitAck (port : Nat) (f : Flit) (s : State) : Out := flitIn port 5 [1] f s
def execFlitSignal (port : Nat) (f : Flit) (s : State) : Out := flitIn port 6 [2] f s
def execFlitPanq (port : Nat) (f : Flit) (s : State) : Out := flitIn port 7 [2] f s
def execFlitPnack (port : Nat) (f : Flit) (s : State) : Out := flitIn port 8 [1] f s
def execFlitPresume (port : Nat) (f : Flit) (s : State) : Out := flitIn port 9 [1] f s

/-! ### Flits that are not taken, and lanes (R363, R400, R401) -/

/-- FLIT_RESERVED_OP: discarded and counted. -/
def execFlitReservedOp (port : Nat) (_ : Flit) (s : State) : Out := .next (s.countFlit port 1)

/-- FLIT_CRC_FAILURE: one of the flits that the port has sent and the far end has not acknowledged is sent again, and counted
(log 31). -/
def execFlitCrcFailure (port : Nat) (s : State) : Out :=
  let fs := s.inFlightOn port
  .next (if fs.isEmpty then s else s.resendFlits port ((fs.drop (Config.pick (2 * s.tick + 1) % fs.length)).take 1))

/-- SOUND_PORT_LANE_LOSS: three lanes are left of four, and the flits caught in the loss, as many as a free value says, are sent
again. A further loss takes the port down (log 32). -/
def execSoundPortLaneLoss (port : Nat) (s : State) : Out :=
  let n := s.link.lanes.getD port 0
  let left := if n = 4 then 3 else 0
  let fs := s.inFlightOn port
  let s : State := { s with link := { s.link with lanes := s.link.lanes.put port left } }
  let s := s.resendFlits port (fs.drop (Config.pick (2 * s.tick + 1) % (fs.length + 1)))
  .next (if left = 0 then { s with ready1 := s.ready1 &&& ~~~(1#64 <<< (22 + port)) } else s)

end Sys2Proof.Machine
end

