-- ==== Sys2Proof/Machine/Devices.lean ====
section
/-! DEFINITION. Receive rings, the mailbox, the host, bring-up, control blocks, power, debug and trace events (R360 to R368,
R384, R385, R390, R391, R394, R409 to R422). -/

namespace Sys2Proof.Machine

/-! ### Receive rings (R365, R366, R410) -/

/-- A receive ring's descriptor. -/
structure RingDesc where
  base  : Nat
  size  : Nat
  wr    : Nat
  rd    : Nat
  note  : Nat
  octx  : Nat
  deriving DecidableEq, Repr

/-- An address in ME SRAM or in the CLM window. -/
def State.onChip (s : State) (a : Nat) : Bool :=
  match s.home a with
  | .me _ => true
  | .clm _ => true
  | _ => false

/-- The descriptor at `a`, if it follows the table and the part may read it (log 33). -/
def State.ringDesc (s : State) (a : Nat) : Option RingDesc :=
  let f (off n : Nat) : Nat := s.readMem (a + off) n
  let d : RingDesc := { base := f 0 8, size := f 8 4, wr := f 12 4, rd := f 16 4, note := f 32 2, octx := f 34 1 % 8 }
  if a % 64 = 0 ∧ s.onChip a ∧ s.mayLoad hostMaster a ∧ d.base % 8 = 0 ∧ s.onChip d.base ∧ s.onChip (d.base + d.size - 1)
      ∧ (List.range 19).any (fun k => d.size = 64 * 2 ^ k) then some d
  else none

def RingDesc.core (d : RingDesc) : Nat := d.note / 64 % 256
def RingDesc.chan (d : RingDesc) : Nat := d.note % 64
def RingDesc.free (d : RingDesc) : Nat :=
  let used := (d.wr + 2 ^ 32 - d.rd) % 2 ^ 32
  if d.size < used then 0 else d.size - used

/-- A notice waits for the NOTE channel, or is placed in it with WR as it stands. -/
def State.ringNotice (s : State) (a : Nat) (d : RingDesc) : State :=
  if s.inReset d.core then s
  else if (s.chan d.core d.chan).length < 4 then
    { s with notices := removeNat a s.notices }.place d.core d.chan [BitVec.ofNat 64 d.wr]
  else { s with notices := insertNat a s.notices }

/-- The part writes bytes of a ring or its descriptor for the host, where their home takes them (R410, R418, R420, log 33). -/
def State.ringStore (s : State) (a : Nat) (bs : List Byte) : State := if s.mayStore hostMaster a then s.writeBytes a bs else s

/-- A message that fits is written, in two pieces where it crosses the end of the ring. -/
def State.ringWrite (s : State) (a : Nat) (d : RingDesc) (msg : List Byte) : State :=
  let o := d.wr % d.size
  let first := d.size - o
  let s := if msg.length ≤ first then s.ringStore (d.base + o) msg
    else (((s.ringStore (d.base + o) (msg.take first)).ringStore d.base (msg.drop first)).ringStore (a + 20) (bytesOf 4 d.wr)).ringStore
      (a + 24) (bytesOf 4 first)
  let wr := (d.wr + msg.length) % 2 ^ 32
  (s.ringStore (a + 12) (bytesOf 4 wr)).ringNotice a { d with wr := wr }

/-- The owner of a ring's overflow record. -/
def RingDesc.owner (d : RingDesc) : Nat := d.core * 8 + d.octx

/-- A message meets the ring at `a`: it is written, discarded as too large, or none where it waits. -/
def State.ringTry (s : State) (a : Nat) (msg : List Byte) : Option State :=
  match s.ringDesc a with
  | none => some s
  | some d =>
    let s := s.corrected a 40
    if d.size < msg.length then
      some ((s.ringStore (a + 28) (bytesOf 4 (s.readMem (a + 28) 4 + 1))).postRecord (overflowRecord d.owner a))
    else if msg.length ≤ d.free then some (s.ringWrite a d msg)
    else none

/-- A message arrives: it is written or discarded at once, or it waits (R366). -/
def State.ringArrive (s : State) (a : Nat) (msg : List Byte) (host : Bool) : State :=
  if msg.length % 8 ≠ 0 ∨ msg = [] then s
  else (s.ringTry a msg).getD { s with ringq := s.ringq ++ [{ desc := a, msg := msg, host := host, from_ := s.cy, noted := false }] }

def execRingMessageArrival (desc : Nat) (msg : List Byte) (s : State) : Out := .next (s.ringArrive desc msg false)

/-- The oldest message that waits for a ring is examined again. -/
def State.ringRetry (s : State) (a : Nat) : State :=
  match s.ringq.findIdx? (fun m => m.desc = a) with
  | some i =>
    (match s.ringq[i]? with
     | some m => ({ s with ringq := s.ringq.eraseIdx i }.ringTry a m.msg).getD s
     | none => s)
  | none => s

/-- RING_NOTICE_DELIVERY: the pending notice of a ring, once its channel has room. -/
def execRingNoticeDelivery (desc : Nat) (s : State) : Out :=
  match s.notices.contains desc, s.ringDesc desc with
  | true, some d => .next (s.ringNotice desc d)
  | true, none => .next { s with notices := removeNat desc s.notices }
  | false, _ => .next s

/-- A message has waited 2^20 cycles without its overflow record. -/
def State.overdue (s : State) (m : RingMsg) : Bool := !m.noted && decide (2 ^ 20 ≤ s.cy - m.from_)

/-- RING_OVERFLOW_TIMEOUT: the overflow record of the oldest message of a ring that is overdue. -/
def execRingOverflowTimeout (desc : Nat) (s : State) : Out :=
  match s.ringq.findIdx? (fun m => m.desc = desc && s.overdue m), s.ringDesc desc with
  | some i, some d =>
    .next ({ s with ringq := modifyAt s.ringq i (fun m => { m with noted := true }) }.postRecord (overflowRecord d.owner desc))
  | _, _ => .next s

/-- HNOTE: a notice to the host. -/
def execHnote (value : Word) (s : State) : Out := .next (s.hostNotice value)

/-! ### The host (R409) -/

/-- A local write of the host, piece by piece. -/
def State.hostWrite (s : State) (a : Nat) (bs : List Byte) : Nat → State
  | 0 => s
  | fuel + 1 =>
    if bs.isEmpty then s
    else
      let n := pieceOf a bs.length
      let s := ((s.meshWrote a).writeAt hostMaster a n (leNat (bs.take n)) a false).1
      s.hostWrite (a + n) (bs.drop n) fuel

/-- The bytes of a read of the host; none of the pieces after one that is refused. -/
def State.hostRead (s : State) (a n : Nat) : Nat → State × List Byte
  | 0 => (s, [])
  | fuel + 1 =>
    if n = 0 then (s, [])
    else
      let k := pieceOf a n
      match s.readAt hostMaster a k a with
      | (s, .value v _) =>
        let r := s.hostRead (a + k) (n - k) fuel
        (r.1, bytesOf k v ++ r.2)
      | (s, _) => (s, [])

/-- An access of the host, piece by piece, under the access tables; a piece that is refused is not performed. A read returns its bytes to
the host, those before the first piece that is refused (log 33). In a peer's window its pieces travel one after another. -/
def State.hostPerform (s : State) (r : HostReq) : State :=
  let ask (a : Nat) (op : AccOp) : State :=
    s.addReq { master := hostMaster, owner := .host, op := op, pa := a, split := 2 ^ 64, pa2 := 0, ea := a, st := .sent }
  match r with
  | .write a bs => if s.atPeer a ∧ bs ≠ [] then ask a (.blockWrite bs.length 0 (leNat bs)) else s.hostWrite a bs bs.length
  | .read a n =>
    if s.atPeer a ∧ n ≠ 0 then ask a (.blockRead n 0 0)
    else
      let r := s.hostRead a n n
      { r.1 with hostIn := r.1.hostIn ++ [r.2] }

/-- Etend performs what the host has sent; a mailbox write is a message for the ring that MBOX names (R409, R410). -/
def State.hostTake (s : State) (op : HostOp) : State :=
  match op with
  | .access r => s.hostPerform r
  | .mail bs => if s.link.mbox = 0 then s else s.ringArrive s.link.mbox.toNat bs true

/-- Something that the host sent is still on its way: an access at a peer, or a message that its ring has no room for. -/
def State.hostBusy (s : State) : Bool := s.reqs.any (fun q => q.2.owner = .host) || s.ringq.any (·.host)

/-- What the host sends is performed in the order in which it arrives, once all before it has been (R409, R410), and where the log has
room for its records (R392). -/
def State.hostSend (s : State) (op : HostOp) : State :=
  let t := s.hostTake op
  if s.hostBusy ∨ s.hostq ≠ [] ∨ !s.logFits t then { s with hostq := s.hostq ++ [op] } else t

/-- The oldest of what waits is performed. -/
def State.hostNext (s : State) : State :=
  match s.hostq with
  | [] => s
  | op :: ops =>
    let t := State.hostTake { s with hostq := ops } op
    if s.hostBusy ∨ !s.logFits t then s else t

/-- HOST_ACCESS. -/
def execHostAccess (r : HostReq) (s : State) : Out := .next (if s.readyBit 1 then s.hostSend (.access r) else s)

/-- MAILBOX_WRITE: a message of the host for the ring that MBOX names (R410). -/
def execMailboxWrite (bytes : List Byte) (s : State) : Out :=
  if bytes.length < 8 ∨ 4096 < bytes.length ∨ bytes.length % 8 ≠ 0 ∨ !s.readyBit 1 then .next s
  else .next (s.hostSend (.mail bytes))

/-! ### Update apertures (R394) -/

/-- A write of `v` to doubleword `k` of an aperture, which is not made where the ME is in reorder or buffer mode. Its ATOMIC record
names a requester that the event does not give (R389, log 13); without room for it in the log the write waits (R392). -/
def State.apertureWrite (s : State) (me k : Nat) (v : Word) : State :=
  if s.meTaken me then s
  else if s.apertureBad me v then s.aperture me k v
  else
    let t := (s.apertureEvent me (2 ^ 32) v).aperture me k v
    if s.logFits t then t else s

def execApertureMadd (me : Nat) (value : Word) (s : State) : Out := .next (s.apertureWrite me 0 value)
def execApertureMsaddI (me : Nat) (value : Word) (s : State) : Out := .next (s.apertureWrite me 1 value)
def execApertureMsaddN (me : Nat) (value : Word) (s : State) : Out := .next (s.apertureWrite me 2 value)
def execApertureMminI (me : Nat) (value : Word) (s : State) : Out := .next (s.apertureWrite me 3 value)
def execApertureMmaxI (me : Nat) (value : Word) (s : State) : Out := .next (s.apertureWrite me 4 value)
def execApertureMminN (me : Nat) (value : Word) (s : State) : Out := .next (s.apertureWrite me 5 value)
def execApertureMmaxN (me : Nat) (value : Word) (s : State) : Out := .next (s.apertureWrite me 6 value)
def execApertureMswap (me : Nat) (value : Word) (s : State) : Out := .next (s.apertureWrite me 7 value)

/-! ### Faults of the hardware (R360, R362, R364, R368) -/

/-- MD_FAILOVER: the active copy fails, and the standby takes over (R362). -/
def execMdFailover (s : State) : Out := .next { s with failover := !s.failover }

/-- SOFT_ERROR: a word, a token or a configuration storage is corrupted (R360, R361). -/
def execSoftError (u : Upset) (s : State) : Out :=
  match u with
  | .single a => .next { s with single := if s.bad.contains (a / 8) then s.single else insertNat (a / 8) s.single }
  | .uncorrectable a => .next { s with bad := insertNat (a / 8) s.bad, single := removeNat (a / 8) s.single }
  | .parity rid u port =>
    .next ((s.onRes rid (fun r => if r.broken.isNone ∧ r.hold = .running then r.elementFault u 2 port 0 else r)).siteReport rid u)
  | .config rid u =>
    .next ((s.onRes rid (fun r => if r.broken.isNone ∧ r.hold = .running then r.elementFault u 3 0 0 else r)).siteReport rid u)

/-- The contexts of a core that run. -/
def State.busyCore (s : State) (core : Nat) : Bool :=
  (List.range 8).any (fun x => (s.ctx (core * 8 + x)).st = .runnable)

/-- CORE_POWER_GATED: a core with no runnable context stops issuing; it keeps its state (R368, log 34). -/
def execCorePowerGated (core : Nat) (s : State) : Out :=
  .next (if s.busyCore core then s else s.setCore core { s.core core with gated := true })

def execCorePoweredUp (core : Nat) (s : State) : Out := .next (s.setCore core { s.core core with gated := false })

/-- Where State.spares counts the spares of the kind that a copy takes: the spare rows of its bank, or the spare bank of its channel. -/
def RowCopy.key (c : RowCopy) : Nat := if c.whole then 2 * c.channel + 1 else 256 * c.bank + 2 * c.channel

/-- The spares of that kind (R364). -/
def RowCopy.limit (c : RowCopy) : Nat := if c.whole then 1 else 64

/-- The copy of the row, or of the whole bank, that holds word number `w`. -/
def copyOf (w : Nat) (whole : Bool) : RowCopy :=
  { channel := dramChannel w, bank := Config.dramBank w, row := Config.dramRow w, whole := whole }

/-- A DRAM word that needs correction, in a channel that is not copying. -/
def State.needsSpare (s : State) (w : Nat) : Bool :=
  s.single.contains w && (match s.home (8 * w) with
    | .dram _ _ => true
    | _ => false) && !s.copying.any (fun c => c.channel = dramChannel w)

/-- The firmware maps a spare in place of the row, or bank, of such a word, where one is left, and the channel copies its data (R364,
log 67). -/
def State.mapSpare (s : State) (w : Nat) (whole : Bool) : State :=
  let c := copyOf w whole
  if s.needsSpare w ∧ s.spares.getD c.key 0 < c.limit then { s with copying := s.copying ++ [c] } else s

/-- A copy ends: its row, or its bank, is in a spare; single-bit errors are corrected, and a word that is uncorrectable stays marked
(R364). -/
def State.spareDone (s : State) (c : RowCopy) : State :=
  { s with single := s.single.filter (fun w => !c.has w), spares := s.spares.put c.key (s.spares.getD c.key 0 + 1) }

/-- SPARE_COPY_DONE: the copies of a channel end, and the accesses that waited for their addresses go on (R364). -/
def execSpareCopyDone (channel : Nat) (s : State) : Out :=
  .next ((s.copying.filter (fun c => c.channel = channel)).foldl State.spareDone
    { s with copying := s.copying.filter (fun c => c.channel ≠ channel) })

/-! ### Bring-up (R411 to R417, R421, R422) -/

def execPackageReset (s : State) : Out := .next s.packageReset
def execBootgo (len : Word) (s : State) : Out := .next (s.bootGo len)
def execBootCheckDone (s : State) : Out := .next s.bootDone

/-- A function of the boot ROM's first step: Etend and stack 0 (R411). -/
def comesFirst : ReadyFn → Bool
  | .etend => true
  | .stack n => n = 0
  | _ => false

/-- FUNCTION_READY (R414, R415). Etend and stack 0 come first (R411). -/
def State.functionReady (s : State) (f : ReadyFn) : State :=
  let set1 (i : Nat) : State := { s with ready1 := s.ready1 ||| (1#64 <<< i) }
  if !comesFirst f ∧ !s.bootReady then s
  else match f with
  | .island i => { s with ready0 := s.ready0 ||| (1#64 <<< i) }
  | .sound p => { set1 (22 + p) with link := { s.link with lanes := s.link.lanes.put p 4 } }
  | .cxl l gib => { set1 (6 + l) with cxl := s.cxl.put l gib }
  | .stack n => set1 (2 + n)
  | .etend => set1 1
  | .md => set1 0

def execFunctionReady (f : ReadyFn) (s : State) : Out := .next (s.functionReady f)

def execCcmdStart (core x : Nat) (s : State) : Out := .next (s.ccmdStart core (x % 8))
def execCcmdRelease (core x : Nat) (s : State) : Out := .next (s.ccmdRelease core (x % 8))
def execCcmdStop (core x : Nat) (s : State) : Out := .next (s.ccmdStop core (x % 8))

def execQgo (s : State) : Out := .next s.quoteGo
def execQdataRead (s : State) : Out := .next s.quoteNext.2

def execThrottleStep (s : State) : Out := .next s.throttle
def execThermalEvent (die celsius : Nat) (s : State) : Out := .next (s.thermal die celsius)

/-- REGISTER_WRITE: a write of a device register takes effect (R420); one of an aperture is an update of its ME (R394). -/
def execRegisterWrite (addr width : Nat) (value : Word) (s : State) : Out :=
  .next (if !((width = 4 ∨ width = 8) ∧ addr % width = 0) then s
    else match apertureAt addr with
      | some (me, k) => if width = 8 then s.apertureWrite me k value else s
      | none => s.regWrite addr width value.toNat)

/-! ### Debug and trace (R384, R385, R387, R390, R391) -/

def execIstopReq (island : Nat) (s : State) : Out := .next (s.stopIsland island)
def execIstopCont (island : Nat) (s : State) : Out := .next (s.contIsland island)

/-- The unit or store whose channel a slot watches. -/
def Residency.slotAt (r : Residency) (d : Word × Word) : Nat :=
  let site := (slotX d, slotY d)
  match r.plan.img.units.findIdx? (fun x => x.site == site && (match x with
      | .elem _ => slotPort d == 0
      | .rop _ => slotPort d != 0)) with
  | some u => u
  | none => r.units.length + ((r.plan.stores.findIdx? (fun p => p.mes.headD (0, 0) == site)).getD r.stores.length)

/-- DEBUG_STOP: a break of watch slot `slot` starts its stop, which sets HIT once it is complete (R385, R386). -/
def execDebugStop (island slot : Nat) (s : State) : Out :=
  let b := s.dbgBlk island
  match b.slots[slot]? with
  | some d =>
    .next (if slotMode d = 2 then
      s.startStop island (slotStop d) (slotLid d) (((s.res.find? (slotLid d)).map (fun r => r.slotAt d)).getD 0) [(island, slot)]
    else s)
  | none => .next s

/-- The action of a TRIG. -/
def State.trigger (s : State) (die n : Nat) : State :=
  let t := s.traceCore die
  match (t.trigact.extractLsb' (4 * n) 4).toNat with
  | 1 => s.startStop (16 * die) 2 0 0 []
  | 2 => s.setTrace die (t.setMode 1)
  | 3 => s.setTrace die (t.setMode 0)
  | _ => s

/-- KORO_FILTER_RUN: the oldest record that waits at a trace core goes through the filter. -/
def State.koroStep (s : State) (die : Nat) : State :=
  let t := s.traceCore die
  match t.queue with
  | [] => s
  | r :: q =>
    let s := s.setTrace die { t with queue := q }
    match koroRun r 64 t.inForce (List.replicate 8 0) with
    | .keep => s.keepRecord die r
    | .drop => s
    | .count n => s.setTrace die { t with queue := q, counts := modifyAt t.counts n (· + 1) }
    | .trig n => (s.keepRecord die r).trigger die n

def execKoroFilterRun (die : Nat) (s : State) : Out := .next (s.koroStep die)
def execSwrec (die : Nat) (value : Word) (s : State) : Out := .next (s.swrec die value)
def execFlenWrite (die : Nat) (value : Word) (s : State) : Out := .next (s.writeTrace die 0x180 8 value)
def execStatsClear (island x y : Nat) (s : State) : Out := .next (s.clearStats island x y)

end Sys2Proof.Machine
end

