-- ==== Sys2Proof/Machine/Fetch.lean ====
section
/-! DEFINITION. Choosing a context and fetching its instruction (R9, R11, R12, R22, R25 to R27, R135, R136). -/

namespace Sys2Proof.Machine

/-! ### Contexts that may issue -/

/-- The condition that thread `t` waits for holds. -/
def State.pollHolds (s : State) (t : Nat) (p : Poll) : Bool :=
  match p with
  | .idleSlots x probes => (s.ctx x).slotsIdle && (!probes || s.noProbe x)
  | .slots m => (s.ctx t).slotsZero m
  | .slotRoom d => decide (((s.ctx t).getD (BitVec.ofNat 3 d)).count.toNat < 63)
  | .filled h n => decide (n ≤ ((s.ctx t).getH h).filled)
  | .room h n => decide (n ≤ ((s.ctx t).getH h).room)
  | .ringFree h => !s.ringNamed t h
  | .accepted => s.allAccepted t
  | .mdReady => s.mdWorks
  | .netEmpty => s.msgs.all (fun m => m.2.src ≠ t)
  | .scopeDone h => s.scopeDone h
  | .stopped x => (s.ctx x).st ≠ .runnable

/-- An instruction that its event completes; any other that waits is executed again once its condition holds. -/
def Poll.completes : Poll → Bool
  | .slots _ => true
  | .filled _ _ => true
  | .room _ _ => true
  | .scopeDone _ => true
  | _ => false

/-- The event that thread `t` waits for has come: the context is RUNNABLE from the operation that brings it (R9, R215). -/
def State.wakePoll (s : State) (t : Nat) : State :=
  let c := s.ctx t
  match c.wait with
  | .poll p => if s.pollHolds t p then s.setCtx t (if p.completes then c.retire 1 else c.wake) else s
  | _ => s

/-- Every context whose event the last operation has brought. -/
def State.wakePolls (s : State) : State := s.ctxs.keys.foldl State.wakePoll s

/-- Thread `t` may issue: RUNNABLE with nothing outstanding; a trap that is due comes first (R22, R135). -/
def State.eligible (s : State) (t : Nat) : Bool :=
  let c := s.ctx t
  !(s.core (coreOf t)).gated && !s.trapDue t && decide (c.st = .runnable) && decide (c.wait = .none)

/-- The eligible contexts of a core. -/
def State.eligibleOn (s : State) (core : Nat) : List Nat := (List.range 8).filter (fun x => s.eligible (core * 8 + x))

/-! ### Fetching -/

inductive Fetched where
  | trap (cause : Nat) (addr : Word)
  | run  (i : Instr) (len : Nat)
  deriving DecidableEq, Repr

/-- The number of words that an instruction has, by its first (R25). -/
def fetchLength (w : BitVec 32) : Nat :=
  match (w.extractLsb' 26 6).toNat with
  | 0x21 => 3
  | 0x2D => 5
  | _ => 1

/-- The instruction words at `a`. -/
def State.wordsAt (s : State) (a n : Nat) : List (BitVec 32) :=
  (List.range n).map (fun i => BitVec.ofNat 32 (s.readMem (a + 4 * i) 4))

/-- What thread `t` fetches at its PC: the checks of R11, of R27 and of the CLM's access table (log 10), then the decoder.
Where a prefix with a reserved field has a payload that runs past the window, both R27 and R42 apply: the check of R27 comes
first. DESIGN CHOICE: assumption 83. -/
def State.fetchAt (s : State) (t : Nat) : Fetched :=
  let pc := (s.ctx t).pc
  let a := pc.toNat
  match targetFault t pc with
  | some cause => .trap cause pc
  | none =>
    if !s.grants (24576 + coreOf t) t a .fetch ∨ s.isBad a 4 then .trap 3 pc
    else
      let n := fetchLength (BitVec.ofNat 32 (s.readMem a 4))
      let top := clmBase (coreOf t) + 0x10000
      if top < a + 4 * n then .trap 3 (BitVec.ofNat 64 top)
      else if s.isBad a (4 * n) then .trap 3 pc
      else match decode (s.wordsAt a n) with
        | .ok i => .run i n
        | .error _ => .trap 1 (BitVec.ofNat 64 (s.readMem a 4))

/-- Core `core` chooses a context, which becomes the current one; it fetches and holds its instruction, or traps. A context
whose wait is over may hold its instruction already. None where no context is eligible. -/
def State.fetchNext (s : State) (core : Nat) : Option State :=
  match s.choose core (s.eligibleOn core) with
  | none => none
  | some (x, p) =>
    let t := core * 8 + x
    let k := s.core core
    let s := s.setCore core { k with last := k.last.setIfInBounds p (BitVec.ofNat 3 x) }
    let c := { s.ctx t with waited := 0, boosted := false }
    let s : State := { s.setCtx t c.wake with cur := t }
    if c.held.isSome then some s
    else match s.fetchAt t with
      | .trap cause a => some (s.setCtx t (c.raise cause a))
      | .run i n => some ((s.corrected c.pc.toNat (4 * n)).setCtx t { c with held := some i })

def execInstructionFetch (core : Nat) (s : State) : Out := .next ((s.fetchNext core).getD s)

end Sys2Proof.Machine
end

