-- ==== Sys2Proof/Machine/Lanes.lean ====
section
/-! DEFINITION. The meanings of the seventy-five lane operations (R105 to R127): each is its `LOp` executed at its site,
under VOP (R31, R100) or as a firing of an element (R152). -/

namespace Sys2Proof.Machine

def execFadd (site : LaneAt) (w : LaneW) (s : State) : Out := laneAt .fadd site w s
def execFsub (site : LaneAt) (w : LaneW) (s : State) : Out := laneAt .fsub site w s
def execFmul (site : LaneAt) (w : LaneW) (s : State) : Out := laneAt .fmul site w s
def execFma (site : LaneAt) (w : LaneW) (s : State) : Out := laneAt .fma site w s
def execFnma (site : LaneAt) (w : LaneW) (s : State) : Out := laneAt .fnma site w s
def execFmin (site : LaneAt) (w : LaneW) (s : State) : Out := laneAt .fmin site w s
def execFmax (site : LaneAt) (w : LaneW) (s : State) : Out := laneAt .fmax site w s
def execFneg (site : LaneAt) (w : LaneW) (s : State) : Out := laneAt .fneg site w s
def execFabs (site : LaneAt) (w : LaneW) (s : State) : Out := laneAt .fabs site w s
def execFdiv (site : LaneAt) (w : LaneW) (s : State) : Out := laneAt .fdiv site w s
def execFsqrt (site : LaneAt) (w : LaneW) (s : State) : Out := laneAt .fsqrt site w s
def execFrcp (site : LaneAt) (w : LaneW) (s : State) : Out := laneAt .frcp site w s
def execFrsq (site : LaneAt) (w : LaneW) (s : State) : Out := laneAt .frsq site w s
def execFexp2 (site : LaneAt) (w : LaneW) (s : State) : Out := laneAt .fexp2 site w s
def execFlog2 (site : LaneAt) (w : LaneW) (s : State) : Out := laneAt .flog2 site w s
def execFtanh (site : LaneAt) (w : LaneW) (s : State) : Out := laneAt .ftanh site w s
def execFsig (site : LaneAt) (w : LaneW) (s : State) : Out := laneAt .fsig site w s
def execDadd (site : LaneAt) (w : LaneW) (s : State) : Out := laneAt .dadd site w s
def execDsub (site : LaneAt) (w : LaneW) (s : State) : Out := laneAt .dsub site w s
def execDmul (site : LaneAt) (w : LaneW) (s : State) : Out := laneAt .dmul site w s
def execDfma (site : LaneAt) (w : LaneW) (s : State) : Out := laneAt .dfma site w s
def execDmin (site : LaneAt) (w : LaneW) (s : State) : Out := laneAt .dmin site w s
def execDmax (site : LaneAt) (w : LaneW) (s : State) : Out := laneAt .dmax site w s
def execDdiv (site : LaneAt) (w : LaneW) (s : State) : Out := laneAt .ddiv site w s
def execDsqrt (site : LaneAt) (w : LaneW) (s : State) : Out := laneAt .dsqrt site w s
def execFcmp (site : LaneAt) (w : LaneW) (s : State) : Out := laneAt .fcmp site w s
def execIcmp (site : LaneAt) (w : LaneW) (s : State) : Out := laneAt .icmp site w s
def execSel (site : LaneAt) (w : LaneW) (s : State) : Out := laneAt .sel site w s
def execIadd (site : LaneAt) (w : LaneW) (s : State) : Out := laneAt .iadd site w s
def execIsub (site : LaneAt) (w : LaneW) (s : State) : Out := laneAt .isub site w s
def execImul (site : LaneAt) (w : LaneW) (s : State) : Out := laneAt .imul site w s
def execImulh (site : LaneAt) (w : LaneW) (s : State) : Out := laneAt .imulh site w s
def execImad (site : LaneAt) (w : LaneW) (s : State) : Out := laneAt .imad site w s
def execIand (site : LaneAt) (w : LaneW) (s : State) : Out := laneAt .iand site w s
def execIor (site : LaneAt) (w : LaneW) (s : State) : Out := laneAt .ior site w s
def execIxor (site : LaneAt) (w : LaneW) (s : State) : Out := laneAt .ixor site w s
def execIshl (site : LaneAt) (w : LaneW) (s : State) : Out := laneAt .ishl site w s
def execIshr (site : LaneAt) (w : LaneW) (s : State) : Out := laneAt .ishr site w s
def execIsar (site : LaneAt) (w : LaneW) (s : State) : Out := laneAt .isar site w s
def execImin (site : LaneAt) (w : LaneW) (s : State) : Out := laneAt .imin site w s
def execImax (site : LaneAt) (w : LaneW) (s : State) : Out := laneAt .imax site w s
def execIminn (site : LaneAt) (w : LaneW) (s : State) : Out := laneAt .iminn site w s
def execImaxn (site : LaneAt) (w : LaneW) (s : State) : Out := laneAt .imaxn site w s
def execIsadd (site : LaneAt) (w : LaneW) (s : State) : Out := laneAt .isadd site w s
def execIabs (site : LaneAt) (w : LaneW) (s : State) : Out := laneAt .iabs site w s
def execLsum (site : LaneAt) (w : LaneW) (s : State) : Out := laneAt .lsum site w s
def execLmax (site : LaneAt) (w : LaneW) (s : State) : Out := laneAt .lmax site w s
def execLperm (site : LaneAt) (w : LaneW) (s : State) : Out := laneAt .lperm site w s
def execLbcast (site : LaneAt) (w : LaneW) (s : State) : Out := laneAt .lbcast site w s
def execLshift (site : LaneAt) (w : LaneW) (s : State) : Out := laneAt .lshift site w s
def execLins (site : LaneAt) (w : LaneW) (s : State) : Out := laneAt .lins site w s
def execLext (site : LaneAt) (w : LaneW) (s : State) : Out := laneAt .lext site w s
def execAccf (site : LaneAt) (w : LaneW) (s : State) : Out := laneAt .accf site w s
def execAccd (site : LaneAt) (w : LaneW) (s : State) : Out := laneAt .accd site w s
def execAcci (site : LaneAt) (w : LaneW) (s : State) : Out := laneAt .acci site w s
def execAccs (site : LaneAt) (w : LaneW) (s : State) : Out := laneAt .accs site w s
def execCvtin (site : LaneAt) (w : LaneW) (s : State) : Out := laneAt .cvtin site w s
def execCvtout (site : LaneAt) (w : LaneW) (s : State) : Out := laneAt .cvtout site w s
def execCvtfi (site : LaneAt) (w : LaneW) (s : State) : Out := laneAt .cvtfi site w s
def execCvtif (site : LaneAt) (w : LaneW) (s : State) : Out := laneAt .cvtif site w s
def execCvtfd (site : LaneAt) (w : LaneW) (s : State) : Out := laneAt .cvtfd site w s
def execCvtdf (site : LaneAt) (w : LaneW) (s : State) : Out := laneAt .cvtdf site w s
def execPass (site : LaneAt) (w : LaneW) (s : State) : Out := laneAt .pass site w s
def execZip (site : LaneAt) (w : LaneW) (s : State) : Out := laneAt .zip site w s
def execUnzip (site : LaneAt) (w : LaneW) (s : State) : Out := laneAt .unzip site w s
def execCnt (site : LaneAt) (w : LaneW) (s : State) : Out := laneAt .cnt site w s
def execKmerge (site : LaneAt) (w : LaneW) (s : State) : Out := laneAt .kmerge site w s
def execLut (site : LaneAt) (w : LaneW) (s : State) : Out := laneAt .lut site w s
def execMadd (site : LaneAt) (w : LaneW) (s : State) : Out := laneAt .madd site w s
def execMsadd (site : LaneAt) (w : LaneW) (s : State) : Out := laneAt .msadd site w s
def execMfadd (site : LaneAt) (w : LaneW) (s : State) : Out := laneAt .mfadd site w s
def execMmin (site : LaneAt) (w : LaneW) (s : State) : Out := laneAt .mmin site w s
def execMmax (site : LaneAt) (w : LaneW) (s : State) : Out := laneAt .mmax site w s
def execMswap (site : LaneAt) (w : LaneW) (s : State) : Out := laneAt .mswap site w s
def execPanq (site : LaneAt) (w : LaneW) (s : State) : Out := laneAt .panq site w s

end Sys2Proof.Machine
end

