-- ==== Sys2Proof/Machine/Launching.lean ====
section
/-! DEFINITION. LAUNCH and the scope instructions (R206, R212 to R216, R362, R415). -/

namespace Sys2Proof.Machine

/-- Until the master distributor answers, the instruction waits (R362, R415). -/
def withMd (intr : Bool) (k : State → Out) (s : State) : Out :=
  if s.mdReady ∧ !s.failover then k s else waitOn (.poll .mdReady) intr s

/-- The handle in ga[31:0]. -/
def handleIn (a : GReg) (s : State) : Nat := (s.me.get a).toNat % 2 ^ 32

def execLaunch (d a : GReg) (s : State) : Out := withMd false (launchAccess d a) s

def execScopeopen (d a : GReg) (s : State) : Out :=
  withMd false (fun s =>
    let r := s.openScope (handleIn a s)
    writeReg d (fun _ => r.2) r.1) s

def execScopeclose (a : GReg) (s : State) : Out :=
  withMd false (fun s => retireWith 1 id (s.closeScope (handleIn a s))) s

def execScopewait (a : GReg) (s : State) : Out :=
  withMd true (fun s =>
    if s.scopeDone (handleIn a s) then retireWith 1 id s else waitOn (.poll (.scopeDone (handleIn a s))) true s) s

def execScopeqry (d a : GReg) (s : State) : Out :=
  withMd false (fun s => writeReg d (fun _ => s.queryScope (handleIn a s)) s) s

end Sys2Proof.Machine
end

