-- ==== Sys2Proof/Machine/LoadStore.lean ====
section
/-! DEFINITION. Loads, stores, VLD and VST (R52 to R57, R63, R65), GLD and GSCAT (R272 to R276),
and REMOTE_ACCESS_PERFORM. -/

namespace Sys2Proof.Machine

/-- A load of `n` bytes (R52). A load of a register with a read side effect is not interrupted (R55). -/
def loadN (n : Nat) (sx : Bool) (d a : GReg) (off : BitVec 16) (s : State) : Out :=
  access { ea := s.me.get a + off.signExtend 64, n := n, align := n, kind := .read, op := .read n,
           fin := fun _ => .load d n sx, intr := fun pa => !regSideEffect pa } s

/-- A store of the low `n` bytes of `r` (R52). -/
def storeN (n : Nat) (r a : GReg) (off : BitVec 16) (s : State) : Out :=
  access { ea := s.me.get a + off.signExtend 64, n := n, align := n, kind := .write,
           op := .write n (BitVec.ofNat 64 ((s.me.get r).toNat % 256 ^ n)), fin := fun _ => .store, intr := fun _ => false } s

def execLdB (d a : GReg) (off : BitVec 16) (s : State) : Out := loadN 1 true d a off s
def execLdBn (d a : GReg) (off : BitVec 16) (s : State) : Out := loadN 1 false d a off s
def execLdH (d a : GReg) (off : BitVec 16) (s : State) : Out := loadN 2 true d a off s
def execLdHn (d a : GReg) (off : BitVec 16) (s : State) : Out := loadN 2 false d a off s
def execLdW (d a : GReg) (off : BitVec 16) (s : State) : Out := loadN 4 true d a off s
def execLdWn (d a : GReg) (off : BitVec 16) (s : State) : Out := loadN 4 false d a off s
def execLdD (d a : GReg) (off : BitVec 16) (s : State) : Out := loadN 8 false d a off s
def execStB (r a : GReg) (off : BitVec 16) (s : State) : Out := storeN 1 r a off s
def execStH (r a : GReg) (off : BitVec 16) (s : State) : Out := storeN 2 r a off s
def execStW (r a : GReg) (off : BitVec 16) (s : State) : Out := storeN 4 r a off s
def execStD (r a : GReg) (off : BitVec 16) (s : State) : Out := storeN 8 r a off s

def execVld (d : VNum) (a : GReg) (off : BitVec 11) (s : State) : Out :=
  access { ea := s.me.get a + off.signExtend 64, n := 40, align := 8, kind := .read, op := .vread 0 0,
           fin := fun _ => .vld d, intr := fun _ => true } s

def execVst (r : VNum) (a : GReg) (off : BitVec 11) (s : State) : Out :=
  access { ea := s.me.get a + off.signExtend 64, n := 40, align := 8, kind := .write,
           op := .vwrite 0 (imageOf (s.me.getV r) 0), fin := fun _ => .store, intr := fun _ => false } s

def execGld (v : VNum) (x r : GReg) (level : BitVec 4) (s : State) : Out := gridAccess false v x r level s
def execGscat (v : VNum) (x r : GReg) (level : BitVec 4) (s : State) : Out := gridAccess true v x r level s

/-- A request is performed at its home (R434). -/
def execRemoteAccessPerform (req : Nat) (s : State) : Out := .next (s.performReq req)

end Sys2Proof.Machine
end

