-- ==== Sys2Proof/Machine/Wstep.lean ====
section
/-! DEFINITION. WSTEP (R354 to R359). -/

namespace Sys2Proof.Machine

/-- The result of R357. -/
def wstepWord (st x y : Nat) (fl : Flags) (firing : Nat) : Word :=
  BitVec.ofNat 64 (st * 2 ^ 60 + x % 64 * 2 ^ 54 + y % 64 * 2 ^ 48 + fl.toNat * 2 ^ 32 + firing % 2 ^ 32)

/-- Fields written into the record whose bytes lie from `pa`. -/
def State.patchRecord (s : State) (pa : Nat) (fields : List (Nat × Nat × Nat)) : State :=
  fields.foldl (fun (s : State) f => s.store (pa + f.1) f.2.1 f.2.2) s

/-- The site of unit `u`, or of a store, which is that of its first ME. -/
def Plan.stepSite (p : Plan) (u : Nat) : Nat × Nat :=
  let n := p.img.units.length
  if u < n then p.siteOf u else ((p.stores[u - n]?).map (fun x => x.mes.headD (0, 0))).getD (0, 0)

/-- The tokens at the inputs that unit `u` reads; a bubble of zeros for the others. -/
def Residency.stepTokens (r : Residency) (u : Nat) : List VReg :=
  let zero : VReg := { VReg.zeros with lm := 0#8 }
  (List.range 3).map (fun i =>
    match r.units[u]? with
    | some x => if (r.plan.img.reads u).contains i then x.reg i else zero
    | none => zero)

/-- What an action of WSTEP gives: the result, or a peer that must be asked or a page that must be walked first. -/
inductive WstepGot where
  | done (s : State) (w : Word)
  | ask (s : State) (pa va n : Nat)
  | walk (s : State) (va : Nat) (k : Acc)

/-- ACT 0 on a region held after a fault: one firing (R356). -/
def State.wstepFire (s : State) (rid pa : Nat) (r0 : Residency) : WstepGot :=
  let s := s.settle rid (8 * (r0.units.length + r0.plan.conns.length + 2))
  let r := (s.res.find? rid).getD r0
  match s.stepFirst rid r.plan.stepOrder with
  | none => .done s (wstepWord 2 0 0 0 0)
  | some (u, got) =>
    let site := r.plan.stepSite u
    let firing := ((r.units[u]?).map (fun x => x.firing r.cut)).getD 0
    let token := ((r.units[u]?).map (fun x => x.core.outOrd)).getD 0
    let at' : List (Nat × Nat × Nat) := [(12, 1, site.1), (13, 1, site.2)]
    match got with
    | .no => .done s (wstepWord 2 0 0 0 0)
    | .ask s pa va n => .ask s pa va n
    | .walk s va k => .walk s va k
    | .fired t fl => .done t (wstepWord 0 site.1 site.2 fl firing)
    | .fault _ _ fl =>
      let s := s.patchRecord pa (at' ++ [(15, 1, fl.toNat), (24, 4, firing), (28, 8, token % 2 ^ 48)])
      let ts := r.stepTokens u
      let z : VReg := { VReg.zeros with lm := 0#8 }
      let c := ((s.me.setV 13 (ts.getD 0 z)).setV 14 (ts.getD 1 z)).setV 15 (ts.getD 2 z)
      .done (s.setMe c) (wstepWord 1 site.1 site.2 fl firing)
    | .port why va k =>
      let body := ((r.ag u).map (fun v => (r.portRecord u v why va k).body)).getD []
      let f (off n : Nat) : Nat × Nat × Nat := (off, n, fieldAt body off n)
      let s := s.patchRecord pa ([f 5 1, f 12 1, f 13 1, f 14 1, f 36 8] ++ (List.range 5).map (fun i => f (44 + 4 * i) 4))
      .done s (wstepWord 3 site.1 site.2 0 firing)

/-- An accepted action clears VALID and the residency's note of the record. -/
def State.wstepTaken (s : State) (rid pa addr : Nat) : WstepGot :=
  .done ((s.patchRecord pa [(127, 1, 0)]).onRes rid (fun r => { r with recs := r.recs.filter (fun x => x.addr ≠ addr) }))
    (wstepWord 4 0 0 0 0)

/-- The action of a record at physical address `pa`, which lists residency `rid`. -/
def State.wstepAct (s : State) (rid pa : Nat) (r : Residency) (x : Rec) (act : Nat) : WstepGot :=
  let refused : WstepGot := .done s (wstepWord 5 0 0 0 0)
  let frozen := ((r.streams.find? x.stream).map (·.frozen)).getD false
  let held := r.hold = .fault
  match act, x.kind with
  | 0, 1 => if held then s.wstepFire rid pa r else refused
  | 1, 1 => if held then (s.onRes rid (fun r => { r.leaveStep with hold := .running })).wstepTaken rid pa x.addr else refused
  | 1, 2 =>
    if frozen then
      (s.onRes rid (fun r => r.unfreeze x.stream)).wstepTaken rid pa x.addr
    else refused
  | 2, 1 =>
    if held then
      (s.onRes rid (fun r => { r.leaveStep with hold := .running, masked := some (r.cut + 1) })).wstepTaken rid pa x.addr
    else refused
  | 3, k =>
    if (k = 1 ∧ held) ∨ (k = 2 ∧ frozen) ∨ k = 3 then
      (match (s.closeOut rid).wstepTaken rid pa x.addr with
       | .done s w => .done (s.endRes rid true) w
       | g => g)
    else refused
  | _, _ => refused

/-- The record at `pa` of thread `t`, as the residency that it is about knows it. -/
def State.wstepRec (s : State) (t pa : Nat) : Option (Nat × Residency × Rec) :=
  if s.load (pa + 127) 1 ≠ 1 ∨ s.load (pa + 96) 1 ≠ 1 ∨ s.load (pa + 104) 8 ≠ t ∨ 3 < s.load (pa + 88) 1 then none
  else
    s.res.findSome? (fun r =>
      (r.2.recs.find? (fun x => x.addr = pa && x.kind = s.load (pa + 4) 1 && s.load pa 4 = r.1)).map (fun x => (r.1, r.2, x)))

/-- WSTEP: the checks of R354 in order, then the action that the record's ACT byte names. -/
def wstep (d a : GReg) (s : State) : Out :=
  let ga := s.me.get a
  if ga.toNat % 128 ≠ 0 then raise 2 ga s
  else .next (State.locateThen s.cur .readWrite false (s.blockAt .readWrite ga.toNat 128) (fun s pas =>
    let pa := pas.headD 0
    let got := match s.wstepRec s.cur pa with
      | some (rid, r, x) => s.wstepAct rid pa r x (s.load (pa + 88) 1)
      | none => .done s (wstepWord 5 0 0 0 0)
    match got with
    | .done s w => s.setMe ((s.me.set d w).retire 1)
    | .ask s pa va n => s.await s.cur (wordReq s.cur (.read n) pa va) .peek false
    | .walk s va k => (s.setMe { s.me with peeked := some (va, 5, 0) }).askWalk s.cur va k false))

def execWstepStep (d a : GReg) (s : State) : Out := wstep d a s
def execWstepResume (d a : GReg) (s : State) : Out := wstep d a s
def execWstepMasked (d a : GReg) (s : State) : Out := wstep d a s
def execWstepEnd (d a : GReg) (s : State) : Out := wstep d a s

end Sys2Proof.Machine
end

