-- ==== Sys2Proof/Machine/Dispatch.lean ====
section
/-! DEFINITION. One arm for each constructor of Instr: a direct call of its meaning. -/

namespace Sys2Proof.Machine

/-- The meaning of instruction or event `i` in state `s`. -/
def exec (i : Instr) (s : State) : Host.Outcome State Fault Refusal :=
  match i with
  | .add d a b => Sys2Proof.Machine.execAdd d a b s
  | .sub d a b => Sys2Proof.Machine.execSub d a b s
  | .and d a b => Sys2Proof.Machine.execAnd d a b s
  | .or d a b => Sys2Proof.Machine.execOr d a b s
  | .xor d a b => Sys2Proof.Machine.execXor d a b s
  | .andn d a b => Sys2Proof.Machine.execAndn d a b s
  | .sll d a b => Sys2Proof.Machine.execSll d a b s
  | .srl d a b => Sys2Proof.Machine.execSrl d a b s
  | .sra d a b => Sys2Proof.Machine.execSra d a b s
  | .mul d a b => Sys2Proof.Machine.execMul d a b s
  | .mulh d a b => Sys2Proof.Machine.execMulh d a b s
  | .mulhn d a b => Sys2Proof.Machine.execMulhn d a b s
  | .div d a b => Sys2Proof.Machine.execDiv d a b s
  | .divn d a b => Sys2Proof.Machine.execDivn d a b s
  | .rem d a b => Sys2Proof.Machine.execRem d a b s
  | .remn d a b => Sys2Proof.Machine.execRemn d a b s
  | .min d a b => Sys2Proof.Machine.execMin d a b s
  | .max d a b => Sys2Proof.Machine.execMax d a b s
  | .minn d a b => Sys2Proof.Machine.execMinn d a b s
  | .maxn d a b => Sys2Proof.Machine.execMaxn d a b s
  | .slt d a b => Sys2Proof.Machine.execSlt d a b s
  | .sltn d a b => Sys2Proof.Machine.execSltn d a b s
  | .clz d a => Sys2Proof.Machine.execClz d a s
  | .ctz d a => Sys2Proof.Machine.execCtz d a s
  | .popc d a => Sys2Proof.Machine.execPopc d a s
  | .lea d a b sh => Sys2Proof.Machine.execLea d a b sh s
  | .addi d a imm => Sys2Proof.Machine.execAddi d a imm s
  | .andi d a imm => Sys2Proof.Machine.execAndi d a imm s
  | .ori d a imm => Sys2Proof.Machine.execOri d a imm s
  | .xori d a imm => Sys2Proof.Machine.execXori d a imm s
  | .slti d a imm => Sys2Proof.Machine.execSlti d a imm s
  | .sltni d a imm => Sys2Proof.Machine.execSltni d a imm s
  | .slli d a n => Sys2Proof.Machine.execSlli d a n s
  | .srli d a n => Sys2Proof.Machine.execSrli d a n s
  | .srai d a n => Sys2Proof.Machine.execSrai d a n s
  | .li d imm => Sys2Proof.Machine.execLi d imm s
  | .insh d pos imm => Sys2Proof.Machine.execInsh d pos imm s
  | .pcadd d off => Sys2Proof.Machine.execPcadd d off s
  | .ldB d a off => Sys2Proof.Machine.execLdB d a off s
  | .ldBn d a off => Sys2Proof.Machine.execLdBn d a off s
  | .ldH d a off => Sys2Proof.Machine.execLdH d a off s
  | .ldHn d a off => Sys2Proof.Machine.execLdHn d a off s
  | .ldW d a off => Sys2Proof.Machine.execLdW d a off s
  | .ldWn d a off => Sys2Proof.Machine.execLdWn d a off s
  | .ldD d a off => Sys2Proof.Machine.execLdD d a off s
  | .stB r a off => Sys2Proof.Machine.execStB r a off s
  | .stH r a off => Sys2Proof.Machine.execStH r a off s
  | .stW r a off => Sys2Proof.Machine.execStW r a off s
  | .stD r a off => Sys2Proof.Machine.execStD r a off s
  | .beq a b off => Sys2Proof.Machine.execBeq a b off s
  | .bne a b off => Sys2Proof.Machine.execBne a b off s
  | .blt a b off => Sys2Proof.Machine.execBlt a b off s
  | .bge a b off => Sys2Proof.Machine.execBge a b off s
  | .bltn a b off => Sys2Proof.Machine.execBltn a b off s
  | .bgen a b off => Sys2Proof.Machine.execBgen a b off s
  | .jal d off => Sys2Proof.Machine.execJal d off s
  | .jalr d a off => Sys2Proof.Machine.execJalr d a off s
  | .loop a off => Sys2Proof.Machine.execLoop a off s
  | .vmov d a => Sys2Proof.Machine.execVmov d a s
  | .vget d a lane => Sys2Proof.Machine.execVget d a lane s
  | .vgetLm d a => Sys2Proof.Machine.execVgetLm d a s
  | .vld d a off => Sys2Proof.Machine.execVld d a off s
  | .vst r a off => Sys2Proof.Machine.execVst r a off s
  | .spawn d a b any core => Sys2Proof.Machine.execSpawn d a b any core s
  | .exit => Sys2Proof.Machine.execExit s
  | .yield => Sys2Proof.Machine.execYield s
  | .setpri p => Sys2Proof.Machine.execSetpri p s
  | .send c r n => Sys2Proof.Machine.execSend c r n s
  | .recv d ch => Sys2Proof.Machine.execRecv d ch s
  | .waitch d m => Sys2Proof.Machine.execWaitch d m s
  | .gjoin a => Sys2Proof.Machine.execGjoin a s
  | .gleave a => Sys2Proof.Machine.execGleave a s
  | .gbar a => Sys2Proof.Machine.execGbar a s
  | .launch d a => Sys2Proof.Machine.execLaunch d a s
  | .scopeopen d a => Sys2Proof.Machine.execScopeopen d a s
  | .scopeclose a => Sys2Proof.Machine.execScopeclose a s
  | .scopewait a => Sys2Proof.Machine.execScopewait a s
  | .scopeqry d a => Sys2Proof.Machine.execScopeqry d a s
  | .ldf d a scope => Sys2Proof.Machine.execLdf d a scope s
  | .ldfe d a scope => Sys2Proof.Machine.execLdfe d a scope s
  | .stf a b scope => Sys2Proof.Machine.execStf a b scope s
  | .amoAdd d a b aq rl scope w => Sys2Proof.Machine.execAmoAdd d a b aq rl scope w s
  | .amoAnd d a b aq rl scope w => Sys2Proof.Machine.execAmoAnd d a b aq rl scope w s
  | .amoOr d a b aq rl scope w => Sys2Proof.Machine.execAmoOr d a b aq rl scope w s
  | .amoXor d a b aq rl scope w => Sys2Proof.Machine.execAmoXor d a b aq rl scope w s
  | .amoMin d a b aq rl scope w => Sys2Proof.Machine.execAmoMin d a b aq rl scope w s
  | .amoMax d a b aq rl scope w => Sys2Proof.Machine.execAmoMax d a b aq rl scope w s
  | .amoMinn d a b aq rl scope w => Sys2Proof.Machine.execAmoMinn d a b aq rl scope w s
  | .amoMaxn d a b aq rl scope w => Sys2Proof.Machine.execAmoMaxn d a b aq rl scope w s
  | .amoSwap d a b aq rl scope w => Sys2Proof.Machine.execAmoSwap d a b aq rl scope w s
  | .amoSadd d a b aq rl scope w => Sys2Proof.Machine.execAmoSadd d a b aq rl scope w s
  | .amoFadd d a b aq rl scope w => Sys2Proof.Machine.execAmoFadd d a b aq rl scope w s
  | .cas d a b aq rl scope w => Sys2Proof.Machine.execCas d a b aq rl scope w s
  | .lock a scope => Sys2Proof.Machine.execLock a scope s
  | .unlock a scope => Sys2Proof.Machine.execUnlock a scope s
  | .fence scope => Sys2Proof.Machine.execFence scope s
  | .gld v x r level => Sys2Proof.Machine.execGld v x r level s
  | .gscat v x r level => Sys2Proof.Machine.execGscat v x r level s
  | .semacq n sem => Sys2Proof.Machine.execSemacq n sem s
  | .semrel n sem => Sys2Proof.Machine.execSemrel n sem s
  | .semtry d n sem => Sys2Proof.Machine.execSemtry d n sem s
  | .semset n sem => Sys2Proof.Machine.execSemset n sem s
  | .semget d sem => Sys2Proof.Machine.execSemget d sem s
  | .hset h a b => Sys2Proof.Machine.execHset h a b s
  | .cbwf h n => Sys2Proof.Machine.execCbwf h n s
  | .cbwe h n => Sys2Proof.Machine.execCbwe h n s
  | .cbap h n => Sys2Proof.Machine.execCbap h n s
  | .cbac h n => Sys2Proof.Machine.execCbac h n s
  | .dswait mask => Sys2Proof.Machine.execDswait mask s
  | .sysr d r => Sys2Proof.Machine.execSysr d r s
  | .sysw a r => Sys2Proof.Machine.execSysw a r s
  | .trap imm => Sys2Proof.Machine.execTrap imm s
  | .eret => Sys2Proof.Machine.execEret s
  | .brk => Sys2Proof.Machine.execBrk s
  | .halt => Sys2Proof.Machine.execHalt s
  | .tladj a => Sys2Proof.Machine.execTladj a s
  | .ctxsave a ctx => Sys2Proof.Machine.execCtxsave a ctx s
  | .ctxload a ctx => Sys2Proof.Machine.execCtxload a ctx s
  | .wstepStep d a => Sys2Proof.Machine.execWstepStep d a s
  | .fadd site w => Sys2Proof.Machine.execFadd site w s
  | .fsub site w => Sys2Proof.Machine.execFsub site w s
  | .fmul site w => Sys2Proof.Machine.execFmul site w s
  | .fma site w => Sys2Proof.Machine.execFma site w s
  | .fnma site w => Sys2Proof.Machine.execFnma site w s
  | .fmin site w => Sys2Proof.Machine.execFmin site w s
  | .fmax site w => Sys2Proof.Machine.execFmax site w s
  | .fneg site w => Sys2Proof.Machine.execFneg site w s
  | .fabs site w => Sys2Proof.Machine.execFabs site w s
  | .fdiv site w => Sys2Proof.Machine.execFdiv site w s
  | .fsqrt site w => Sys2Proof.Machine.execFsqrt site w s
  | .frcp site w => Sys2Proof.Machine.execFrcp site w s
  | .frsq site w => Sys2Proof.Machine.execFrsq site w s
  | .fexp2 site w => Sys2Proof.Machine.execFexp2 site w s
  | .flog2 site w => Sys2Proof.Machine.execFlog2 site w s
  | .ftanh site w => Sys2Proof.Machine.execFtanh site w s
  | .fsig site w => Sys2Proof.Machine.execFsig site w s
  | .dadd site w => Sys2Proof.Machine.execDadd site w s
  | .dsub site w => Sys2Proof.Machine.execDsub site w s
  | .dmul site w => Sys2Proof.Machine.execDmul site w s
  | .dfma site w => Sys2Proof.Machine.execDfma site w s
  | .dmin site w => Sys2Proof.Machine.execDmin site w s
  | .dmax site w => Sys2Proof.Machine.execDmax site w s
  | .ddiv site w => Sys2Proof.Machine.execDdiv site w s
  | .dsqrt site w => Sys2Proof.Machine.execDsqrt site w s
  | .fcmp site w => Sys2Proof.Machine.execFcmp site w s
  | .icmp site w => Sys2Proof.Machine.execIcmp site w s
  | .sel site w => Sys2Proof.Machine.execSel site w s
  | .iadd site w => Sys2Proof.Machine.execIadd site w s
  | .isub site w => Sys2Proof.Machine.execIsub site w s
  | .imul site w => Sys2Proof.Machine.execImul site w s
  | .imulh site w => Sys2Proof.Machine.execImulh site w s
  | .imad site w => Sys2Proof.Machine.execImad site w s
  | .iand site w => Sys2Proof.Machine.execIand site w s
  | .ior site w => Sys2Proof.Machine.execIor site w s
  | .ixor site w => Sys2Proof.Machine.execIxor site w s
  | .ishl site w => Sys2Proof.Machine.execIshl site w s
  | .ishr site w => Sys2Proof.Machine.execIshr site w s
  | .isar site w => Sys2Proof.Machine.execIsar site w s
  | .imin site w => Sys2Proof.Machine.execImin site w s
  | .imax site w => Sys2Proof.Machine.execImax site w s
  | .iminn site w => Sys2Proof.Machine.execIminn site w s
  | .imaxn site w => Sys2Proof.Machine.execImaxn site w s
  | .isadd site w => Sys2Proof.Machine.execIsadd site w s
  | .iabs site w => Sys2Proof.Machine.execIabs site w s
  | .lsum site w => Sys2Proof.Machine.execLsum site w s
  | .lmax site w => Sys2Proof.Machine.execLmax site w s
  | .lperm site w => Sys2Proof.Machine.execLperm site w s
  | .lbcast site w => Sys2Proof.Machine.execLbcast site w s
  | .lshift site w => Sys2Proof.Machine.execLshift site w s
  | .lins site w => Sys2Proof.Machine.execLins site w s
  | .lext site w => Sys2Proof.Machine.execLext site w s
  | .accf site w => Sys2Proof.Machine.execAccf site w s
  | .accd site w => Sys2Proof.Machine.execAccd site w s
  | .acci site w => Sys2Proof.Machine.execAcci site w s
  | .accs site w => Sys2Proof.Machine.execAccs site w s
  | .cvtin site w => Sys2Proof.Machine.execCvtin site w s
  | .cvtout site w => Sys2Proof.Machine.execCvtout site w s
  | .cvtfi site w => Sys2Proof.Machine.execCvtfi site w s
  | .cvtif site w => Sys2Proof.Machine.execCvtif site w s
  | .cvtfd site w => Sys2Proof.Machine.execCvtfd site w s
  | .cvtdf site w => Sys2Proof.Machine.execCvtdf site w s
  | .pass site w => Sys2Proof.Machine.execPass site w s
  | .zip site w => Sys2Proof.Machine.execZip site w s
  | .unzip site w => Sys2Proof.Machine.execUnzip site w s
  | .cnt site w => Sys2Proof.Machine.execCnt site w s
  | .kmerge site w => Sys2Proof.Machine.execKmerge site w s
  | .lut site w => Sys2Proof.Machine.execLut site w s
  | .madd site w => Sys2Proof.Machine.execMadd site w s
  | .msadd site w => Sys2Proof.Machine.execMsadd site w s
  | .mfadd site w => Sys2Proof.Machine.execMfadd site w s
  | .mmin site w => Sys2Proof.Machine.execMmin site w s
  | .mmax site w => Sys2Proof.Machine.execMmax site w s
  | .mswap site w => Sys2Proof.Machine.execMswap site w s
  | .panq site w => Sys2Proof.Machine.execPanq site w s
  | .patset site h raddr sel value => Sys2Proof.Machine.execPatset site h raddr sel value s
  | .bindld site h lid wp paddr => Sys2Proof.Machine.execBindld site h lid wp paddr s
  | .bindst site h lid wp paddr => Sys2Proof.Machine.execBindst site h lid wp paddr s
  | .gather site h xaddr => Sys2Proof.Machine.execGather site h xaddr s
  | .scatter site h xaddr => Sys2Proof.Machine.execScatter site h xaddr s
  | .copy site h xaddr => Sys2Proof.Machine.execCopy site h xaddr s
  | .rcopy site h xaddr => Sys2Proof.Machine.execRcopy site h xaddr s
  | .barrier site h isl mej tmask => Sys2Proof.Machine.execBarrier site h isl mej tmask s
  | .tiledef site h isl mej tile base size => Sys2Proof.Machine.execTiledef site h isl mej tile base size s
  | .tileset site h isl mej tile st => Sys2Proof.Machine.execTileset site h isl mej tile st s
  | .signal site h dev rem core sem n => Sys2Proof.Machine.execSignal site h dev rem core sem n s
  | .cfgload site h lid iaddr => Sys2Proof.Machine.execCfgload site h lid iaddr s
  | .cfgsw site h lid t => Sys2Proof.Machine.execCfgsw site h lid t s
  | .mark site h lid => Sys2Proof.Machine.execMark site h lid s
  | .probe site h lid x y vd => Sys2Proof.Machine.execProbe site h lid x y vd s
  | .fetchw site h xaddr pan => Sys2Proof.Machine.execFetchw site h xaddr pan s
  | .unbind site h lid wp => Sys2Proof.Machine.execUnbind site h lid wp s
  | .griddef site h daddr saddr zero => Sys2Proof.Machine.execGriddef site h daddr saddr zero s
  | .pandef site h pan daddr => Sys2Proof.Machine.execPandef site h pan daddr s
  | .panctlSetf site h pan value => Sys2Proof.Machine.execPanctlSetf site h pan value s
  | .panctlSeta site h pan value => Sys2Proof.Machine.execPanctlSeta site h pan value s
  | .panctlSetpri site h pan value => Sys2Proof.Machine.execPanctlSetpri site h pan value s
  | .panctlSetfb site h pan value => Sys2Proof.Machine.execPanctlSetfb site h pan value s
  | .panctlResume site h pan value => Sys2Proof.Machine.execPanctlResume site h pan value s
  | .panctlClear site h pan value => Sys2Proof.Machine.execPanctlClear site h pan value s
  | .panctlWindow site h pan value => Sys2Proof.Machine.execPanctlWindow site h pan value s
  | .panctlEvict site h pan value => Sys2Proof.Machine.execPanctlEvict site h pan value s
  | .panctlFree site h pan value => Sys2Proof.Machine.execPanctlFree site h pan value s
  | .pandrain site h pan => Sys2Proof.Machine.execPandrain site h pan s
  | .instructionFetch core => Sys2Proof.Machine.execInstructionFetch core s
  | .contextBoost tid => Sys2Proof.Machine.execContextBoost tid s
  | .asyncTrapEntry tid => Sys2Proof.Machine.execAsyncTrapEntry tid s
  | .messageDelivery msg => Sys2Proof.Machine.execMessageDelivery msg s
  | .ldfRetry req => Sys2Proof.Machine.execLdfRetry req s
  | .lockWake island key => Sys2Proof.Machine.execLockWake island key s
  | .wstepResume d a => Sys2Proof.Machine.execWstepResume d a s
  | .wstepMasked d a => Sys2Proof.Machine.execWstepMasked d a s
  | .wstepEnd d a => Sys2Proof.Machine.execWstepEnd d a s
  | .tokenHop rid route branch stage => Sys2Proof.Machine.execTokenHop rid route branch stage s
  | .fanoutTake rid route => Sys2Proof.Machine.execFanoutTake rid route s
  | .steer rid op => Sys2Proof.Machine.execSteer rid op s
  | .filter rid op => Sys2Proof.Machine.execFilter rid op s
  | .merge rid op => Sys2Proof.Machine.execMerge rid op s
  | .umerge rid op => Sys2Proof.Machine.execUmerge rid op s
  | .carry rid op => Sys2Proof.Machine.execCarry rid op s
  | .cutOnlyWordTake rid unit port => Sys2Proof.Machine.execCutOnlyWordTake rid unit port s
  | .reorderStoreWrite rid store => Sys2Proof.Machine.execReorderStoreWrite rid store s
  | .reorderStoreRead rid store => Sys2Proof.Machine.execReorderStoreRead rid store s
  | .controllerGo rid node => Sys2Proof.Machine.execControllerGo rid node s
  | .controllerDone rid node => Sys2Proof.Machine.execControllerDone rid node s
  | .configurationStep rid => Sys2Proof.Machine.execConfigurationStep rid s
  | .cfgswTimeReached rid => Sys2Proof.Machine.execCfgswTimeReached rid s
  | .switchMarkerTake rid unit => Sys2Proof.Machine.execSwitchMarkerTake rid unit s
  | .agStreamRead rid stream => Sys2Proof.Machine.execAgStreamRead rid stream s
  | .agStreamDeliver rid stream => Sys2Proof.Machine.execAgStreamDeliver rid stream s
  | .agStreamWrite rid stream => Sys2Proof.Machine.execAgStreamWrite rid stream s
  | .agStreamAccessAnswer rid stream => Sys2Proof.Machine.execAgStreamAccessAnswer rid stream s
  | .gridLookupQuery rid stream => Sys2Proof.Machine.execGridLookupQuery rid stream s
  | .gridScatterQuery rid stream => Sys2Proof.Machine.execGridScatterQuery rid stream s
  | .pageWalk walk => Sys2Proof.Machine.execPageWalk walk s
  | .remoteAccessPerform req => Sys2Proof.Machine.execRemoteAccessPerform req s
  | .accessAnswer req => Sys2Proof.Machine.execAccessAnswer req s
  | .windowCommit rid => Sys2Proof.Machine.execWindowCommit rid s
  | .rollback rid => Sys2Proof.Machine.execRollback rid s
  | .residencyPlace entry island region => Sys2Proof.Machine.execResidencyPlace entry island region s
  | .mdPlacementPass => Sys2Proof.Machine.execMdPlacementPass s
  | .reservationTimeout => Sys2Proof.Machine.execReservationTimeout s
  | .residencyFinish rid => Sys2Proof.Machine.execResidencyFinish rid s
  | .preemptSave rid => Sys2Proof.Machine.execPreemptSave rid s
  | .commandComplete id => Sys2Proof.Machine.execCommandComplete id s
  | .panEntryArrival flight => Sys2Proof.Machine.execPanEntryArrival flight s
  | .panAgeLimit pan => Sys2Proof.Machine.execPanAgeLimit pan s
  | .panFire pan => Sys2Proof.Machine.execPanFire pan s
  | .batchBufferWritten pan buf => Sys2Proof.Machine.execBatchBufferWritten pan buf s
  | .panRefill pan => Sys2Proof.Machine.execPanRefill pan s
  | .weightFetchComplete pan => Sys2Proof.Machine.execWeightFetchComplete pan s
  | .apertureMadd me value => Sys2Proof.Machine.execApertureMadd me value s
  | .apertureMsaddI me value => Sys2Proof.Machine.execApertureMsaddI me value s
  | .apertureMsaddN me value => Sys2Proof.Machine.execApertureMsaddN me value s
  | .apertureMminI me value => Sys2Proof.Machine.execApertureMminI me value s
  | .apertureMmaxI me value => Sys2Proof.Machine.execApertureMmaxI me value s
  | .apertureMminN me value => Sys2Proof.Machine.execApertureMminN me value s
  | .apertureMmaxN me value => Sys2Proof.Machine.execApertureMmaxN me value s
  | .apertureMswap me value => Sys2Proof.Machine.execApertureMswap me value s
  | .ringMessageArrival desc msg => Sys2Proof.Machine.execRingMessageArrival desc msg s
  | .ringNoticeDelivery desc => Sys2Proof.Machine.execRingNoticeDelivery desc s
  | .ringOverflowTimeout desc => Sys2Proof.Machine.execRingOverflowTimeout desc s
  | .columnRepair island column => Sys2Proof.Machine.execColumnRepair island column s
  | .mdFailover => Sys2Proof.Machine.execMdFailover s
  | .soundPortLaneLoss port => Sys2Proof.Machine.execSoundPortLaneLoss port s
  | .flitRd port f => Sys2Proof.Machine.execFlitRd port f s
  | .flitWr port f => Sys2Proof.Machine.execFlitWr port f s
  | .flitAmo port f => Sys2Proof.Machine.execFlitAmo port f s
  | .flitCas port f => Sys2Proof.Machine.execFlitCas port f s
  | .flitResp port f => Sys2Proof.Machine.execFlitResp port f s
  | .flitAck port f => Sys2Proof.Machine.execFlitAck port f s
  | .flitSignal port f => Sys2Proof.Machine.execFlitSignal port f s
  | .flitPanq port f => Sys2Proof.Machine.execFlitPanq port f s
  | .flitPnack port f => Sys2Proof.Machine.execFlitPnack port f s
  | .flitPresume port f => Sys2Proof.Machine.execFlitPresume port f s
  | .requestTimeout req => Sys2Proof.Machine.execRequestTimeout req s
  | .hostAccess r => Sys2Proof.Machine.execHostAccess r s
  | .mailboxWrite bytes => Sys2Proof.Machine.execMailboxWrite bytes s
  | .hnote value => Sys2Proof.Machine.execHnote value s
  | .packageReset => Sys2Proof.Machine.execPackageReset s
  | .bootgo len => Sys2Proof.Machine.execBootgo len s
  | .bootCheckDone => Sys2Proof.Machine.execBootCheckDone s
  | .functionReady f => Sys2Proof.Machine.execFunctionReady f s
  | .ccmdStart core x => Sys2Proof.Machine.execCcmdStart core x s
  | .ccmdRelease core x => Sys2Proof.Machine.execCcmdRelease core x s
  | .ccmdStop core x => Sys2Proof.Machine.execCcmdStop core x s
  | .qgo => Sys2Proof.Machine.execQgo s
  | .qdataRead => Sys2Proof.Machine.execQdataRead s
  | .istopReq island => Sys2Proof.Machine.execIstopReq island s
  | .istopCont island => Sys2Proof.Machine.execIstopCont island s
  | .debugStop island slot => Sys2Proof.Machine.execDebugStop island slot s
  | .koroFilterRun die => Sys2Proof.Machine.execKoroFilterRun die s
  | .swrec die value => Sys2Proof.Machine.execSwrec die value s
  | .flenWrite die value => Sys2Proof.Machine.execFlenWrite die value s
  | .statsClear island x y => Sys2Proof.Machine.execStatsClear island x y s
  | .throttleStep => Sys2Proof.Machine.execThrottleStep s
  | .thermalEvent die celsius => Sys2Proof.Machine.execThermalEvent die celsius s
  | .registerWrite addr width value => Sys2Proof.Machine.execRegisterWrite addr width value s
  | .softError u => Sys2Proof.Machine.execSoftError u s
  | .flitCrcFailure port => Sys2Proof.Machine.execFlitCrcFailure port s
  | .flitReservedOp port f => Sys2Proof.Machine.execFlitReservedOp port f s
  | .corePowerGated core => Sys2Proof.Machine.execCorePowerGated core s
  | .corePoweredUp core => Sys2Proof.Machine.execCorePoweredUp core s
  | .spareCopyDone channel => Sys2Proof.Machine.execSpareCopyDone channel s

end Sys2Proof.Machine
end

