-- ==== Sys2Proof/Machine/Agents.lean ====
section
/-! DEFINITION. The agents of the package that may act next, and what each does (R1, R9, R135, R152, R217, R248, R288,
R289, R329, R435). Every action is the meaning of an instruction or event; where several agents may act, the choice is a
free value (log 2). An agent whose condition does not hold leaves the state as it is. -/

namespace Sys2Proof.Machine

/-- An action that the package takes of itself. -/
inductive Auto where
  /-- INSTRUCTION_FETCH at a core, and the instruction fetched. -/
  | core (k : Nat)
  | trap (t : Nat)
  | boost (t : Nat)
  | powerUp (k : Nat)
  /-- A RELEASE that waited for the context's slots (log 16). -/
  | leave (t : Nat)
  | message (m : Nat)
  | wake (isl key : Nat)
  | retry (req : Nat)
  | walk (w : Nat)
  | perform (req : Nat)
  | answer (req : Nat)
  | timeout (req : Nat)
  /-- A command is accepted, starts, makes an access, completes. -/
  | accept (id : Nat)
  | start (id : Nat)
  | engine (id : Nat)
  | complete (id : Nat)
  /-- The last acknowledgement of a stream's first pass. -/
  | settle (rid u : Nat)
  | hop (rid route branch stage : Nat)
  | take (rid u : Nat)
  | rop (rid op : Nat)
  | cutWord (rid u port : Nat)
  | storeWrite (rid j : Nat)
  | storeRead (rid j : Nat)
  | go (rid n : Nat)
  | nodeDone (rid n : Nat)
  | config (rid : Nat)
  | switchAt (rid : Nat)
  | marker (rid u : Nat)
  | fire (rid u : Nat)
  | read (rid u : Nat)
  | deliver (rid u : Nat)
  | write (rid u : Nat)
  | lookup (rid u : Nat)
  | scatter (rid u : Nat)
  | streamAnswer (rid u : Nat)
  | commit (rid : Nat)
  | rollback (rid : Nat)
  | finish (rid : Nat)
  | save (rid : Nat)
  | pass
  | reserve
  | failover
  | flight (f : Nat)
  | age (pan : Nat)
  | panFire (pan : Nat)
  | buffer (pan b : Nat)
  | refill (pan : Nat)
  | weights (pan : Nat)
  /-- The oldest message that waits for a ring is examined again (R366). -/
  | ring (d : Nat)
  | notice (d : Nat)
  | overflow (d : Nat)
  /-- The oldest record that waits for its slot is written (R342). -/
  | record (k : Nat)
  | koro (die : Nat)
  | bootDone
  | repair (isl col : Nat)
  /-- The bindings of a placed residency are made, and its root has its go (R435). -/
  | rootGo (rid : Nat)
  /-- The far end of a port acknowledges a flit; a flit that will not come is passed over (R402, R403, log 95). -/
  | portAck (port : Nat)
  /-- A stop's marker comes to a unit, a store or the tree; a stop is complete (R385, log 101). -/
  | flood (rid n : Nat)
  | stopped (id : Nat)
  /-- A write of the master distributor for a pan is made (R248). -/
  | mdWrite (i : Nat)
  | gap (src cls : Nat)
  /-- Etend performs the oldest of what the host has sent (R409). -/
  | host
  /-- The firmware maps a spare for a DRAM word that needs correction; a channel ends its copies (R364, log 67). -/
  | spare (w : Nat) (whole : Bool)
  | copied (channel : Nat)
  deriving DecidableEq, Repr

/-! ### What an agent does -/

/-- The current context's instruction in its turn among those of one cycle: an operation on the master distributor's tables, a change of
GCYC, a SPAWN and an operation of the sync table are made by ascending thread id (R132, R140, R209, R367), and a write of the own CLM
comes before one of the memory mesh (R13). -/
def State.turnFor (s : State) (i : Instr) : State :=
  let tables := s.inTurn 0 s.cur s.cur
  let counter := s.inTurn 3 s.cur s.cur
  let sync := s.inTurn (192 + islandOf s.cur) s.cur s.cur
  let own := s.inTurn (256 + coreOf s.cur) 0 0
  match i with
  | .spawn .. => s.inTurn (128 + islandOf s.cur) s.cur s.cur
  | .gjoin .. => sync
  | .gleave .. => sync
  | .gbar .. => sync
  | .lock .. => sync
  | .unlock .. => sync
  | .stB .. => own
  | .stH .. => own
  | .stW .. => own
  | .stD .. => own
  | .vst .. => own
  | .stf .. => own
  | .scopeopen .. => tables
  | .scopeclose .. => tables
  | .scopewait .. => tables
  | .scopeqry .. => tables
  | .tladj .. => counter
  | .sysw _ r => if r = 6 then counter else s
  | _ => s

/-- A core fetches, and executes what its context then holds. -/
def runCore (k : Nat) (s : State) : Out :=
  match s.fetchNext k with
  | some s =>
    (match s.me.held with
     | some i => exec i (s.turnFor i)
     | none => .next s)
  | none => .next s

/-- The start of an accepted command is its own meaning, at its start; the master distributor takes those of one of its cycles by
ascending thread id (R209, R325). -/
def startCmd (id : Nat) (s : State) : Out :=
  match s.cmds.find? id with
  | some c =>
    if s.mayStart id then exec c.instr (if c.disp = .md then s.inTurn 0 (c.src.getD engineRank) (c.src.getD engineRank) else s)
    else .next s
  | none => .next s

/-- A unit's firing is its lane operation's meaning, at the unit. -/
def fireUnit (rid u : Nat) (s : State) : Out :=
  match (s.res.find? rid).bind (fun r => r.opOf u) with
  | some (_, o, w) => laneAt o (.fire rid u) w s
  | none => .next s

/-- A router operator acts (R159 to R163). -/
def ropAct (rid op : Nat) (s : State) : Out :=
  match (s.res.find? rid).bind (fun r => r.plan.img.rops[op]?) with
  | some o => ropEvent o.op o.mode rid op s
  | none => .next s

/-- The head of an output queue is taken (R154, R158). -/
def takeAct (rid u : Nat) (s : State) : Out := inMotion rid (·.takeNow rid u) s

def leaveAct (t : Nat) (s : State) : Out :=
  .next (if (s.ctx t).leaving ∧ (s.ctx t).slotsIdle then s.release t else s)

def Auto.run (a : Auto) (s : State) : Out :=
  match a with
  | .core k => runCore k s
  | .trap t => execAsyncTrapEntry t s
  | .boost t => execContextBoost t s
  | .powerUp k => execCorePoweredUp k s
  | .leave t => leaveAct t s
  | .message m => execMessageDelivery m s
  | .wake isl key => execLockWake isl key s
  | .retry q => execLdfRetry q s
  | .walk w => execPageWalk w s
  | .perform q => execRemoteAccessPerform q s
  | .answer q => execAccessAnswer q s
  | .timeout q => execRequestTimeout q s
  | .accept id => .next (s.accept id)
  | .start id => startCmd id s
  | .engine id => .next (s.engineAccess id)
  | .complete id => execCommandComplete id s
  | .settle rid u => .next (s.settleStream rid u)
  | .hop rid route br st => execTokenHop rid route br st s
  | .take rid u => takeAct rid u s
  | .rop rid op => ropAct rid op s
  | .cutWord rid u port => execCutOnlyWordTake rid u port s
  | .storeWrite rid j => execReorderStoreWrite rid j s
  | .storeRead rid j => execReorderStoreRead rid j s
  | .go rid n => execControllerGo rid n s
  | .nodeDone rid n => execControllerDone rid n s
  | .config rid => execConfigurationStep rid s
  | .switchAt rid => execCfgswTimeReached rid s
  | .marker rid u => execSwitchMarkerTake rid u s
  | .fire rid u => fireUnit rid u s
  | .read rid u => execAgStreamRead rid u s
  | .deliver rid u => execAgStreamDeliver rid u s
  | .write rid u => execAgStreamWrite rid u s
  | .lookup rid u => execGridLookupQuery rid u s
  | .scatter rid u => execGridScatterQuery rid u s
  | .streamAnswer rid u => execAgStreamAccessAnswer rid u s
  | .commit rid => execWindowCommit rid s
  | .rollback rid => execRollback rid s
  | .finish rid => execResidencyFinish rid s
  | .save rid => execPreemptSave rid s
  | .pass => execMdPlacementPass s
  | .reserve => execReservationTimeout s
  | .failover => execMdFailover s
  | .flight f => execPanEntryArrival f s
  | .age p => execPanAgeLimit p s
  | .panFire p => execPanFire p s
  | .buffer p b => execBatchBufferWritten p b s
  | .refill p => execPanRefill p s
  | .weights p => execWeightFetchComplete p s
  | .spare w whole => .next (s.mapSpare w whole)
  | .copied ch => execSpareCopyDone ch s
  | .ring d => .next (s.ringRetry d)
  | .notice d => execRingNoticeDelivery d s
  | .overflow d => execRingOverflowTimeout d s
  | .record k => .next (s.flushRecord k)
  | .koro d => execKoroFilterRun d s
  | .bootDone => execBootCheckDone s
  | .repair isl col => execColumnRepair isl col s
  | .rootGo rid => .next (s.rootGo rid)
  | .portAck p => .next (s.portAcks p)
  | .flood rid n => .next (s.onRes rid (·.flood n))
  | .stopped id => .next (s.completeStop id)
  | .mdWrite i => .next (s.mdWrite i)
  | .gap src cls => .next (s.passGap src cls)
  | .host => .next s.hostNext

/-! ### Who may act -/

/-- Each number once. -/
def distinct (l : List Nat) : List Nat := l.foldr insertNat []

/-- Contexts and cores. A core has an agent only where a context of it may issue. -/
def State.coreAgents (s : State) : List Auto :=
  let ts := s.ctxs.keys
  ((distinct (ts.map coreOf)).filter (fun k => !(s.eligibleOn k).isEmpty)).map Auto.core
    ++ (ts.filter (fun t => s.trapDue t && !(s.core (coreOf t)).gated)).map Auto.trap
    ++ (ts.filter (fun t => decide (4096 ≤ (s.ctx t).waited) && !(s.ctx t).boosted)).map Auto.boost
    ++ (ts.filter (fun t => (s.ctx t).leaving && (s.ctx t).slotsIdle)).map Auto.leave
    ++ (s.cores.filter (fun k => k.2.gated)).map (fun k => Auto.powerUp k.1)
    ++ s.recq.keys.map Auto.record

/-- Messages, lock wakes, walks and requests. -/
def State.requestAgents (s : State) : List Auto :=
  s.msgs.keys.map Auto.message ++ s.wakes.map (fun w => Auto.wake w.1 w.2) ++ s.walks.keys.map Auto.walk
    ++ s.reqs.map (fun q =>
        match q.2.st with
        | .answered _ =>
          (match q.2.owner with
           | .stream rid u _ => Auto.streamAnswer rid u
           | _ => Auto.answer q.1)
        | .refused => Auto.retry q.1
        | .remote _ _ _ => Auto.timeout q.1
        | _ => Auto.perform q.1)

/-- Stream commands. -/
def State.cmdAgents (s : State) : List Auto :=
  s.cmds.map (fun c =>
    if !c.2.accepted then Auto.accept c.1
    else match c.2.job with
      | .queued => Auto.start c.1
      | .move _ => Auto.engine c.1
      | .write _ => Auto.engine c.1
      | _ => Auto.complete c.1)

/-- The places of a branch from which a word may move on. -/
def Residency.hops (rid : Nat) (r : Residency) : List Auto :=
  (r.plan.conns.zipIdx).flatMap (fun p =>
    let own := ((r.branches[p.2]?).map (fun b => b.hops.length + 1)).getD 0
    let tail := ((r.plan.storeOn p.1).bind (fun j => r.stores[j]?)).map (fun st => st.tail.hops.length + 1)
    (List.range (own + tail.getD 0)).map (fun n => Auto.hop rid p.1.route p.1.br n))

/-- What a residency may do (R152 to R166, R236 to R242, R347 to R353, R370). -/
def Residency.agents (rid : Nat) (r : Residency) : List Auto :=
  let n := r.units.length
  let us := List.range n
  let str := r.streams.keys
  r.hops rid
    ++ us.map (Auto.take rid) ++ us.map (Auto.fire rid)
    ++ (List.range r.plan.img.rops.length).map (Auto.rop rid)
    ++ us.flatMap (fun u => (List.range 3).map (Auto.cutWord rid u))
    ++ (List.range r.stores.length).flatMap (fun j =>
        [Auto.storeWrite rid j, Auto.storeRead rid j, Auto.cutWord rid (n + j) 0, Auto.marker rid (n + j)])
    ++ us.map (Auto.marker rid)
    ++ (r.plan.img.ctls.map (·.node)).flatMap (fun k => [Auto.go rid k, Auto.nodeDone rid k])
    ++ str.flatMap (fun u =>
        [Auto.read rid u, Auto.deliver rid u, Auto.write rid u, Auto.lookup rid u, Auto.scatter rid u, Auto.settle rid u])
    ++ (if r.gone then [] else [Auto.rootGo rid])
    ++ (if r.halted.isEmpty ∨ r.dbg then [] else (List.range (r.treeNo + 1)).map (Auto.flood rid))
    ++ [Auto.config rid, Auto.switchAt rid, Auto.commit rid, Auto.rollback rid, Auto.finish rid, Auto.save rid]

/-- The master distributor, pans, rings, trace cores, repair and the boot check. -/
def State.deviceAgents (s : State) : List Auto :=
  (if s.entries.any (fun e => e.2.st = .ready) then [Auto.pass, Auto.reserve] else [])
    ++ (if s.failover then [Auto.failover] else [])
    ++ s.flights.keys.map Auto.flight ++ (List.range s.mdWrites.length).map Auto.mdWrite
    ++ s.pans.flatMap (fun p =>
        [Auto.age p.1, Auto.panFire p.1, Auto.refill p.1, Auto.weights p.1]
          ++ (List.range p.2.bufs.length).map (Auto.buffer p.1))
    ++ (distinct (s.ringq.map (·.desc))).flatMap (fun d => [Auto.ring d, Auto.overflow d])
    ++ s.notices.map Auto.notice
    ++ (s.stops.filter (fun x => !x.2.complete)).map (fun x => Auto.stopped x.1)
    ++ (s.traces.filter (fun t => !t.2.queue.isEmpty)).map (fun t => Auto.koro t.1)
    ++ (if s.hostq.isEmpty then [] else [Auto.host]) ++ (if s.bootLen.isSome then [Auto.bootDone] else [])
    ++ (distinct (s.unacked.map (·.1))).map Auto.portAck
    ++ (distinct (s.early.map (fun e => 4 * e.2.2.src + e.2.2.cls))).map (fun q => Auto.gap (q / 4) (q % 4))
    ++ (s.single.filter s.needsSpare).flatMap (fun w => [Auto.spare w false, Auto.spare w true])
    ++ (distinct (s.copying.map (·.channel))).map Auto.copied
    ++ (match s.repair with
        | some p => [Auto.repair p.island p.column]
        | none => ((distinct (s.reports.map (fun p => p.1 / 64))).filter
            (fun q => s.columnFails (q / 64) (q % 64))).map (fun q => Auto.repair (q / 64) (q % 64)))

/-- Every agent that may act. -/
def State.agents (s : State) : List Auto :=
  s.coreAgents ++ s.requestAgents ++ s.cmdAgents ++ s.res.flatMap (fun r => r.2.agents r.1) ++ s.deviceAgents

/-- What happens next: the outside event that is due, else the action of one agent, else nothing. -/
inductive Turn where
  | input (i : Instr)
  | agent (a : Auto)
  | idle

/-- The turn of a step; where several agents may act, the choice is free. -/
def State.turn (s : State) : Turn :=
  match s.inputs with
  | i :: _ => .input i
  | [] =>
    match s.agents with
    | [] => .idle
    | [a] => .agent a
    | a :: as => .agent ((a :: as).getD (Config.pick (2 * s.tick) % (as.length + 1)) a)

def Turn.run (x : Turn) (s : State) : Out :=
  match x with
  | .input i => exec i { s with inputs := s.inputs.tail }
  | .agent a => a.run s
  | .idle => .next s

/-! ### The passing of time -/

/-- The contexts that may issue. -/
def State.eligibles (s : State) : List Nat := s.ctxs.keys.filter s.eligible

/-- The context that issues in a turn. -/
def Turn.issuer (x : Turn) (s : State) : Option Nat :=
  match x with
  | .agent (.core k) => (s.choose k (s.eligibleOn k)).map (fun c => 8 * k + c.1)
  | _ => none

/-- The contexts that are eligible in a turn and do not issue (R136). -/
def Turn.bystanders (x : Turn) (s : State) : List Nat := s.eligibles.filter (fun t => x.issuer s ≠ some t)

/-- The wait counters of the contexts `was` after `n` cy; that of a context which is not RUNNABLE is 0 (R136). -/
def State.countWait (s : State) (was : List Nat) (n : Nat) : State :=
  { s with ctxs := s.ctxs.map (fun c =>
      (c.1, if c.2.st ≠ .runnable then { c.2 with waited := 0 }
            else if was.contains c.1 then { c.2 with waited := c.2.waited + n } else c.2)) }

/-- The throttle's steps of the 10 µs periods that have ended, 36 000 cycles each; 64 of them reach every end of its range (R422). -/
def State.throttled (s : State) (from_ : Nat) : State :=
  (List.range (min 64 (s.cycle / 36000 - from_ / 36000))).foldl (fun (s : State) _ => s.throttle) s

/-- After a step that began in state `s0`: contexts whose event has come are woken, and an unknown number of cycles has passed (log 2),
which GCYC counts (R14), and of which regions in motion count their stalls in cy (R155); PWR takes a new average each millisecond (R416,
log 8) and the throttle makes its steps (R422). -/
def State.passed (s0 s : State) (was : List Nat) : State :=
  let s := s.wakePolls.advance (Config.cycles s.tick)
  let n := s.cy - s0.cy
  let s := s.countWait was n
  let s := { s with res := s.res.map (fun (r : Nat × Residency) => (r.1, if r.2.flowing then r.2.elapse n else r.2)) }
  let s := if s0.cycle / 3600000 = s.cycle / 3600000 then s else { s with pwr := BitVec.ofNat 64 (Config.power s.tick) }
  { s.throttled s0.cycle with tick := s.tick + 1 }

/-- An outcome with time passed. -/
def afterwards (s0 : State) (was : List Nat) (o : Out) : Out :=
  match o with
  | .next s => .next (s0.passed s was)
  | .fault f => .fault f
  | .refused r => .refused r

/-! ### Placing an instruction -/

/-- The `n` bytes of `w`, stored from `a` on. -/
def State.layWord (s : State) (a n w : Nat) : State := s.writeMem a n w

/-- Context 0 of core 0 stands at an instruction of `nbits` bits `w`, whose words above are 0. -/
def State.layInstr (s : State) (nbits w : Nat) : State :=
  let c := s.ctx 0
  let s := s.layWord c.pc.toNat 20 (w % 2 ^ nbits)
  { s.setCtx 0 { c with st := .runnable, wait := .none, held := none } with inputs := [] }

end Sys2Proof.Machine
end

