-- ==== Sys2Proof/Machine/Step.lean ====
section
/-! DEFINITION. One step of the package: an outside event or an action of one agent, and the time it takes. -/

namespace Sys2Proof.Machine

def step (s : State) : Host.Outcome State Fault Refusal := 
  let x := s.turn
  afterwards s (x.bystanders s) (x.run s)

/-- `s` with the instruction of `nbits` bits `w` where context 0 of core 0 fetches next. -/
def State.withFetchWord (s : State) (nbits w : Nat) : State := s.layInstr nbits w

end Sys2Proof.Machine
end

