-- ==== Sys2Proof/Safety.lean ====
section
/-! DEFINITION. What claims are stated in: frames, results, traps and the invariant that every step keeps. -/

namespace Sys2Proof

open Sys2Proof.Machine

/-- The rows that no word of a program stands for: firings of elements, commands that a dispatcher starts, and the events of the
control cores, the fabric and the devices. -/
def Instr.isEvent : Instr → Bool
  | .fadd (.fire ..) _ | .fsub (.fire ..) _ | .fmul (.fire ..) _ | .fma (.fire ..) _ | .fnma (.fire ..) _
  | .fmin (.fire ..) _ | .fmax (.fire ..) _ | .fneg (.fire ..) _ | .fabs (.fire ..) _ | .fdiv (.fire ..) _
  | .fsqrt (.fire ..) _ | .frcp (.fire ..) _ | .frsq (.fire ..) _ | .fexp2 (.fire ..) _ | .flog2 (.fire ..) _
  | .ftanh (.fire ..) _ | .fsig (.fire ..) _ | .dadd (.fire ..) _ | .dsub (.fire ..) _ | .dmul (.fire ..) _
  | .dfma (.fire ..) _ | .dmin (.fire ..) _ | .dmax (.fire ..) _ | .ddiv (.fire ..) _ | .dsqrt (.fire ..) _
  | .fcmp (.fire ..) _ | .icmp (.fire ..) _ | .sel (.fire ..) _ | .iadd (.fire ..) _ | .isub (.fire ..) _
  | .imul (.fire ..) _ | .imulh (.fire ..) _ | .imad (.fire ..) _ | .iand (.fire ..) _ | .ior (.fire ..) _
  | .ixor (.fire ..) _ | .ishl (.fire ..) _ | .ishr (.fire ..) _ | .isar (.fire ..) _ | .imin (.fire ..) _
  | .imax (.fire ..) _ | .iminn (.fire ..) _ | .imaxn (.fire ..) _ | .isadd (.fire ..) _ | .iabs (.fire ..) _
  | .lsum (.fire ..) _ | .lmax (.fire ..) _ | .lperm (.fire ..) _ | .lbcast (.fire ..) _ | .lshift (.fire ..) _
  | .lins (.fire ..) _ | .lext (.fire ..) _ | .accf (.fire ..) _ | .accd (.fire ..) _ | .acci (.fire ..) _
  | .accs (.fire ..) _ | .cvtin (.fire ..) _ | .cvtout (.fire ..) _ | .cvtfi (.fire ..) _ | .cvtif (.fire ..) _
  | .cvtfd (.fire ..) _ | .cvtdf (.fire ..) _ | .pass (.fire ..) _ | .zip (.fire ..) _ | .unzip (.fire ..) _
  | .cnt (.fire ..) _ | .kmerge (.fire ..) _ | .lut (.fire ..) _ | .madd (.fire ..) _ | .msadd (.fire ..) _
  | .mfadd (.fire ..) _ | .mmin (.fire ..) _ | .mmax (.fire ..) _ | .mswap (.fire ..) _ | .panq (.fire ..) _
  | .patset (.start _) .. | .bindld (.start _) .. | .bindst (.start _) .. | .gather (.start _) ..
  | .scatter (.start _) .. | .copy (.start _) .. | .rcopy (.start _) .. | .barrier (.start _) .. | .tiledef (.start _) ..
  | .tileset (.start _) .. | .signal (.start _) .. | .cfgload (.start _) .. | .cfgsw (.start _) .. | .mark (.start _) ..
  | .probe (.start _) .. | .fetchw (.start _) .. | .unbind (.start _) .. | .griddef (.start _) .. | .pandef (.start _) ..
  | .pandrain (.start _) .. | .panctlSetf (.start _) .. | .panctlSeta (.start _) .. | .panctlSetpri (.start _) ..
  | .panctlSetfb (.start _) .. | .panctlResume (.start _) .. | .panctlClear (.start _) .. | .panctlWindow (.start _) ..
  | .panctlEvict (.start _) .. | .panctlFree (.start _) .. | .instructionFetch .. | .contextBoost .. | .asyncTrapEntry ..
  | .messageDelivery .. | .ldfRetry .. | .lockWake .. | .tokenHop .. | .fanoutTake .. | .steer .. | .filter ..
  | .merge .. | .umerge .. | .carry .. | .cutOnlyWordTake .. | .reorderStoreWrite .. | .reorderStoreRead ..
  | .controllerGo .. | .controllerDone .. | .configurationStep .. | .cfgswTimeReached .. | .switchMarkerTake ..
  | .agStreamRead .. | .agStreamDeliver .. | .agStreamWrite .. | .agStreamAccessAnswer .. | .gridLookupQuery ..
  | .gridScatterQuery .. | .pageWalk .. | .remoteAccessPerform .. | .accessAnswer .. | .windowCommit .. | .rollback ..
  | .residencyPlace .. | .mdPlacementPass | .reservationTimeout | .residencyFinish .. | .preemptSave ..
  | .commandComplete .. | .panEntryArrival .. | .panAgeLimit .. | .panFire .. | .batchBufferWritten .. | .panRefill ..
  | .weightFetchComplete .. | .apertureMadd .. | .apertureMsaddI .. | .apertureMsaddN .. | .apertureMminI ..
  | .apertureMmaxI .. | .apertureMminN .. | .apertureMmaxN .. | .apertureMswap .. | .ringMessageArrival ..
  | .ringNoticeDelivery .. | .ringOverflowTimeout .. | .columnRepair .. | .mdFailover | .soundPortLaneLoss ..
  | .flitRd .. | .flitWr .. | .flitAmo .. | .flitCas .. | .flitResp .. | .flitAck .. | .flitSignal .. | .flitPanq ..
  | .flitPnack .. | .flitPresume .. | .requestTimeout .. | .hostAccess .. | .mailboxWrite .. | .hnote .. | .packageReset
  | .bootgo .. | .bootCheckDone | .functionReady .. | .ccmdStart .. | .ccmdRelease .. | .ccmdStop .. | .qgo | .qdataRead
  | .istopReq .. | .istopCont .. | .debugStop .. | .koroFilterRun .. | .swrec .. | .flenWrite .. | .statsClear ..
  | .throttleStep | .thermalEvent .. | .registerWrite .. | .softError .. | .flitCrcFailure .. | .flitReservedOp ..
  | .corePowerGated .. | .corePoweredUp .. | .spareCopyDone .. => true
  | _ => false

/-- Byte memory and host memory are in canonical form. -/
def MemInv (s : State) : Prop := Memory.wf s.mem = true ∧ Memory.wf s.host = true

/-- Every byte reads as before. -/
def SameMem (s t : State) : Prop := ∀ a, Memory.get t.mem a = Memory.get s.mem a

/-- Every byte outside the `n` bytes at `a` reads as before. -/
def SameMemBut (a n : Nat) (s t : State) : Prop := ∀ x, (x < a ∨ a + n ≤ x) → Memory.get t.mem x = Memory.get s.mem x

/-- Nothing of the package changes but the current context: no other context, no core, no table, no byte. -/
def Alone (s t : State) : Prop :=
  t = { s with ctxs := t.ctxs } ∧ (∀ u, u ≠ s.cur → t.ctx u = s.ctx u) ∧ SameMem s t

/-- `c` with what says how it executes as `d` has it: its state and wait, the instruction under way and the pages walked for it,
a stop asked for, the wait counter. -/
def Machine.Ctx.runAs (c d : Ctx) : Ctx :=
  { c with st := d.st, wait := d.wait, held := d.held, stop := d.stop, pages := d.pages, peeked := d.peeked,
           waited := d.waited }

/-- Nothing of a context changes but its g registers, its PC and what says how it executes: its v registers, handles,
slots, status, priority, floating-point registers, trap registers, pending causes and translation cache stay. -/
def RegsOnly (c d : Ctx) : Prop := d = { c.runAs d with g := d.g, pc := d.pc }

/-- `d` stands at an instruction boundary: nothing is under way, and a context that was RUNNABLE with no stop asked for is
still so. -/
def AtBoundary (c d : Ctx) : Prop :=
  d.held = none ∧ d.wait = .none ∧ d.pages = [] ∧ d.peeked = none
    ∧ (c.st = .runnable → c.stop = false → d.st = .runnable ∧ d.stop = false ∧ d.waited = c.waited)

/-- Register `r` after a write of `v` to `d`: a write of g0 is discarded. -/
def regAfter (c : Ctx) (d : GReg) (v : Word) (r : GReg) : Word := if r = d ∧ d ≠ 0#5 then v else c.get r

/-- An instruction of `len` words at the PC completed, wrote `v` to gd and changed nothing else. -/
def Wrote (d : GReg) (v : Word) (len : Nat) (s t : State) : Prop :=
  Alone s t ∧ RegsOnly s.me t.me ∧ AtBoundary s.me t.me ∧ t.me.pc = s.me.pc + BitVec.ofNat 64 (4 * len)
    ∧ ∀ r, t.me.get r = regAfter s.me d v r

/-- An instruction of `len` words completed and changed nothing but the PC. -/
def Passed (len : Nat) (s t : State) : Prop := Wrote 0#5 0 len s t

/-- Control went to `target`, `v` went to gd, and nothing else changed. -/
def Went (target : Word) (d : GReg) (v : Word) (s t : State) : Prop :=
  Alone s t ∧ RegsOnly s.me t.me ∧ AtBoundary s.me t.me ∧ t.me.pc = target ∧ ∀ r, t.me.get r = regAfter s.me d v r

/-- The current context took a synchronous trap out of code that is in no handler: sy.epc, sy.tcause and sy.taddr hold
`resume`, the cause and `addr`, PRV has gone to PPRV, PRV and IT are 1, and PC is at sy.tvec; no other register changed,
and nothing outside the context. -/
def Trapped (cause : Nat) (addr resume : Word) (s t : State) : Prop :=
  Alone s t ∧ AtBoundary s.me t.me
    ∧ t.me = { s.me.runAs t.me with epc := resume, tcause := BitVec.ofNat 64 cause, taddr := addr, pc := s.me.tvec,
                                    status := statusOf s.me.sen true s.me.prv true, tlb := [] }

/-- The same of an instruction whose accesses went to their homes: no other context and no byte changed. -/
def TrappedAfar (cause : Nat) (addr : Word) (s t : State) : Prop :=
  t.cur = s.cur ∧ (∀ u, u ≠ s.cur → t.ctx u = s.ctx u) ∧ SameMem s t ∧ AtBoundary s.me t.me
    ∧ t.me = { s.me.runAs t.me with epc := s.me.pc, tcause := BitVec.ofNat 64 cause, taddr := addr, pc := s.me.tvec,
                                    status := statusOf s.me.sen true s.me.prv true, tlb := [] }

/-- The current context waits, and nothing else of it changed. -/
def Waits (w : Wait) (interruptible : Bool) (s t : State) : Prop :=
  Alone s t ∧ t.me = { s.me with wait := w, st := if interruptible then .waiting else .runnable }

/-- An address that R11 and R62 let thread `t` execute at. -/
def GoodTarget (t : Nat) (a : Word) : Prop :=
  a.toNat % 4 = 0 ∧ clmBase (coreOf t) ≤ a.toNat ∧ a.toNat < clmBase (coreOf t) + 0x10000

/-- An address in the current thread's own CLM. -/
def InOwn (ea : Nat) (s : State) : Prop :=
  clmBase (coreOf s.cur) ≤ ea ∧ ea < clmBase (coreOf s.cur) + 0x10000 ∧ s.cur < 2048

/-- `n` aligned bytes at `ea` in the current thread's own CLM, whose table grants access `k`. -/
def OwnAt (ea n : Nat) (k : Acc) (s : State) : Prop :=
  ea % n = 0 ∧ InOwn ea s ∧ s.grants (24576 + coreOf s.cur) s.cur ea k = true

/-- Such bytes in words without error. -/
def OwnClm (ea n : Nat) (k : Acc) (s : State) : Prop := OwnAt ea n k s ∧ s.isBad ea n = false

/-- `n` aligned bytes of one page at `ea`, translated to `pa` in an ME that is in no reorder or buffer mode or in ready DRAM, whose
table grants access `k`; no request of the thread under way, no spare copy of the word. -/
def Lands (ea n pa : Nat) (k kt : Acc) (s : State) : Prop :=
  ea % n = 0 ∧ ea + n ≤ s.pageEnd ea ∧ (s.me.lookup ea kt).1 = .pa pa ∧ inClm ea = false ∧ s.accepts s.cur pa k = true
    ∧ ((∃ m, s.home pa = .me m) ∨ ∃ c h, s.home pa = .dram c h) ∧ s.inCopy pa = false
    ∧ s.reqs.all (fun q => q.2.owner ≠ .ctx s.cur) = true

/-- Such bytes in words without error. -/
def Reaches (ea n pa : Nat) (k kt : Acc) (s : State) : Prop := Lands ea n pa k kt s ∧ s.isBad pa n = false

/-- The words marked uncorrectable after a plain store of `n` bytes at `a`: a whole word that is stored loses its mark, a word stored
in part keeps it (R57). -/
def BadAfterStore (a n : Nat) (s t : State) : Prop :=
  ∀ w, t.bad.contains w = (s.bad.contains w && !(n == 8 && w == a / 8))

/-- Instruction `i` sends its request, the home performs it and the answer returns (R55, R434). -/
def ThroughHome (i : Instr) (s t : State) : Prop :=
  ∃ s1 s2, exec i s = .next s1 ∧ exec (.remoteAccessPerform s.nextId) s1 = .next s2
    ∧ exec (.accessAnswer s.nextId) s2 = .next t

/-- The current thread's instruction of one word completed with `v` in gd: no other context and no core's state changed,
and of the thread only g registers, PC, the order of its translation cache and what says that it executes. -/
def Done (d : GReg) (v : Word) (s t : State) : Prop :=
  t.cur = s.cur ∧ (∀ u, u ≠ s.cur → t.ctx u = s.ctx u) ∧ t.cores = s.cores ∧ t.sync = s.sync ∧ t.res = s.res
    ∧ t.me.held = none ∧ t.me.wait = .none ∧ t.me.pc = s.me.pc + 4#64 ∧ (∀ r, t.me.get r = regAfter s.me d v r)
    ∧ t.me = { s.me.runAs t.me with g := t.me.g, pc := t.me.pc, tlb := t.me.tlb }

/-- The 40 bytes of an image at `ea` lie in one page, at `pa`: five words of memory without error, whose homes grant access `k`;
no request of the thread under way, no spare copy of a word. -/
def ImageAt (ea pa : Nat) (k : Acc) (s : State) : Prop :=
  ea % 8 = 0 ∧ ea + 40 ≤ s.pageEnd ea ∧ (s.me.lookupAll ea k).1 = .pa pa ∧ s.isBad pa 40 = false
    ∧ s.reqs.all (fun q => q.2.owner ≠ .ctx s.cur) = true
    ∧ ∀ i, i < 5 → s.accepts s.cur (pa + 8 * i) k = true ∧ (s.home (pa + 8 * i)).holds = true ∧ s.home (pa + 8 * i) ≠ .host
        ∧ s.inCopy (pa + 8 * i) = false

/-- The home performs `n` parts of request `id`, one after another. -/
def Performed (id : Nat) : Nat → State → State → Prop
  | 0, s, t => s = t
  | n + 1, s, t => ∃ u, exec (.remoteAccessPerform id) s = .next u ∧ Performed id n u t

/-- Instruction `i` sends the request of an image, its five words are moved, and the answer returns (R65, R244). -/
def ByWords (i : Instr) (s t : State) : Prop :=
  ∃ s1 s2, exec i s = .next s1 ∧ Performed s.nextId 5 s1 s2 ∧ exec (.accessAnswer s.nextId) s2 = .next t

/-- The `n` bytes at `ea`, doubleword by doubleword, are such bytes of the own CLM. -/
def OwnBlock (ea n : Nat) (k : Acc) (s : State) : Prop := ∀ i, i < n / 8 → OwnClm (ea + 8 * i) 8 k s

/-- `n` bytes at each address of `as` are mapped by `e`, the one entry of the current thread's translation cache, in a home
of memory that grants access `k`, in words without error; no request of the thread is under way. -/
def Mapped (e : TlbEntry) (as : List Nat) (n : Nat) (k : Acc) (s : State) : Prop :=
  s.me.tlb = [e] ∧ e.r = true ∧ e.w = true ∧ e.a = true ∧ s.reqs.all (fun q => q.2.owner ≠ .ctx s.cur) = true
    ∧ ∀ a ∈ as, inClm a = false ∧ a < 2 ^ 52 ∧ e.covers a = true ∧ s.accepts s.cur (e.to a) k = true
        ∧ ((∃ m, s.home (e.to a) = .me m) ∨ ∃ c h, s.home (e.to a) = .dram c h) ∧ s.isBad (e.to a) n = false
        ∧ s.inCopy (e.to a) = false

/-- `n` requests of the current thread, sent one after another, are each performed and answered. -/
def Answered : Nat → State → State → Prop
  | 0, s, t => s = t
  | n + 1, s, t => ∃ u v, exec (.remoteAccessPerform (s.nextId - 1)) s = .next u
      ∧ exec (.accessAnswer (s.nextId - 1)) u = .next v ∧ Answered n v t

/-- Instruction `i` with the `n` requests that it makes. -/
def Through (n : Nat) (i : Instr) (s t : State) : Prop := ∃ u, exec i s = .next u ∧ Answered n u t

/-- ISSUE `i` of a command to dispatcher `d` whose queue has room, with no earlier command waiting there and room in the slot:
the command is accepted as `cmd`, the slot counts one more, and PC moves past the five words; no other register and no byte
changes. -/
def Issued (i : Instr) (h : CmdHdr) (cmd : Instr) (d : Disp) (s : State) : Prop :=
  (h.seten = true → (s.me.getD h.setslot).count.toNat < 63) → s.queueRoom d = true →
  (∀ x ∈ s.cmds, x.2.disp = d → x.2.accepted = true) →
  ∃ t c, exec i s = .next t ∧ t.me.pc = s.me.pc + 20#64 ∧ AtBoundary s.me t.me ∧ (∀ r, t.me.get r = s.me.get r) ∧ SameMem s t
    ∧ (∀ k, t.me.getD k = if h.seten ∧ k = h.setslot then { s.me.getD k with count := (s.me.getD k).count + 1 } else s.me.getD k)
    ∧ t.cmds.find? s.nextId = some c ∧ c.src = some s.cur ∧ c.instr = cmd ∧ c.disp = d ∧ c.wait = h.wait ∧ c.accepted = true
    ∧ c.job = .queued ∧ c.err = false ∧ c.slot = if h.seten then some h.setslot else none

/-- Element `u` of residency `rid`, of operation `o` and word `w`, is free to fire (R152): the region flows, no stop has reached the
unit and no slot watches, the II has passed, the output queue has room, and no firing is under way. -/
def Ready (s : State) (rid u : Nat) (r : Residency) (x : UnitSt) (e : ElemRec) (o : LOp) (w : LaneW) : Prop :=
  s.res.find? rid = some r ∧ r.lid = rid ∧ r.flowing = true ∧ r.halts u = false ∧ s.dbg = [] ∧ r.units[u]? = some x
    ∧ r.opOf u = some (e, o, w) ∧ e.kind ≠ 3 ∧ x.switched = false ∧ r.iiPassed e x = true
    ∧ x.core.out.length < (Unit'.elem e).depth ∧ x.run = LaneRun.idle

/-- Taking the heads of the inputs in `ports` saves no cut and overflows no log (R347). -/
def Uncut (x : UnitSt) (ports : List Nat) : Prop :=
  (x.consume false ports).core.savesDue = false ∧ (x.consume false ports).overflowed = false

/-- Such an element, no source and no KMERGE, with a token on every input that the firing reads; the firing saves no cut. -/
def MayFire (s : State) (rid u : Nat) (r : Residency) (x : UnitSt) (e : ElemRec) (o : LOp) (w : LaneW) : Prop :=
  Ready s rid u r x e o w ∧ r.isSource u = false ∧ (∀ i ∈ firingReads o w e x.core, (x.head i).isSome = true) ∧ o ≠ .cnt
    ∧ o ≠ .kmerge ∧ Uncut x (firingReads o w e x.core)

/-- `n` executions of one instruction, one after another. -/
def Times (i : Instr) : Nat → State → State → Prop
  | 0, s, t => s = t
  | n + 1, s, t => ∃ u, exec i s = .next u ∧ Times i n u t

/-- Memory after the updates of the lanes in `ls`, lane `i` at address `ad i` with operand lane `i` of `b`, one after the other
(R126). -/
def updated (o : LOp) (w : LaneW) (ad : Nat → Nat) (b : VReg) (ls : List Nat) (m : List Host.Cell) : List Host.Cell :=
  ls.foldl (fun m i => Memory.write m (ad i) (rmwBytes o w.fmt.toNat)
    (rmwNew o w.fmt.toNat (elemMode w) (Memory.read m (ad i) (rmwBytes o w.fmt.toNat)) (b.lane i)).1) m

/-- The unit fired: it counts one more firing and each input in `ports` has lost its head. -/
def FiredOnce (rid u : Nat) (ports : List Nat) (x y : UnitSt) (t : State) : Prop :=
  (∃ q, t.res.find? rid = some q ∧ q.units[u]? = some y) ∧ y.core.fires = x.core.fires + 1
    ∧ ∀ i, i < 3 → y.inp.getD i [] = if i ∈ ports then (x.inp.getD i []).tail else x.inp.getD i []

/-- Word `w` entered every branch of an output of unit `u`: at the end of a slack buffer that had room; where the buffer was full, or
SLACK is 0, the word then at its head went to the first hop stage, or, on a branch of one site, to the destination. -/
def Placed (u : Nat) (f : Bool) (w : ChWord) (r q : Residency) : Prop :=
  ∀ i c b, (i, c) ∈ r.outs u f → r.branches[i]? = some b →
    (b.slack.length < c.slack → q.branches[i]? = some { b with slack := b.slack ++ [w] })
    ∧ (b.slack.length = c.slack →
        (∀ h hs, b.hops = h :: hs → q.branches[i]? = some { slack := (b.slack ++ [w]).tail, hops := (b.slack ++ [w]).head? :: hs })
        ∧ (b.hops = [] → q.branches[i]? = some { b with slack := (b.slack ++ [w]).tail }
            ∧ (r.plan.storeOn c = none → ∀ x, r.units[c.dst]? = some x → c.dport < x.inp.length →
                ∃ y, q.units[c.dst]? = some y ∧ (b.slack ++ [w]).headD w ∈ y.inp.getD c.dport [])
            ∧ (∀ j x, r.plan.storeOn c = some j → r.stores[j]? = some x →
                ∃ y, q.stores[j]? = some y ∧ (b.slack ++ [w]).headD w ∈ y.inp)))

/-- Nothing entered a branch of that output. -/
def Unplaced (u : Nat) (f : Bool) (r q : Residency) : Prop := ∀ i c, (i, c) ∈ r.outs u f → q.branches[i]? = r.branches[i]?

/-- The words `ws` are to be written for a pan, word `i` at `ad i`, behind what is to be written already; `buf` is the batch buffer, if it
is one (R248, log 104). -/
def Queues (pan : Nat) (buf : Option Nat) (ad : Nat → Nat) (ws : List Nat) (s t : State) : Prop :=
  ∃ ms, t.mdWrites = s.mdWrites ++ ms ∧ (∀ m ∈ ms, m.pan = pan ∧ m.buf = buf)
    ∧ ms.flatMap (fun m => (List.range m.n).map (fun i => (m.pa + i, m.v / 256 ^ i % 256)))
      = ws.zipIdx.flatMap (fun w => (List.range 4).map (fun i => (ad w.2 + i, w.1 / 256 ^ i % 256)))

/-- Operator `op` of residency `rid` may take from the inputs in `ports`: the region flows, no stop has reached the operator and no
slot watches, both outputs have room, and the take saves no cut. -/
def MayTake (s : State) (rid op : Nat) (r : Residency) (o : RopRec) (x : UnitSt) (ports : List Nat) : Prop :=
  s.res.find? rid = some r ∧ r.flowing = true ∧ r.halts (r.plan.img.elems.length + op) = false ∧ s.dbg = []
    ∧ r.plan.img.rops[op]? = some o
    ∧ r.units[r.plan.img.elems.length + op]? = some x ∧ x.switched = false
    ∧ r.outRoom (r.plan.img.elems.length + op) false = true ∧ r.outRoom (r.plan.img.elems.length + op) true = true
    ∧ Uncut x ports

/-- What the decoder reads from an instruction's words: the four actions of WSTEP share one word (R36, R356). -/
def Instr.asDecoded : Instr → Instr
  | .wstepResume d a => .wstepStep d a
  | .wstepMasked d a => .wstepStep d a
  | .wstepEnd d a => .wstepStep d a
  | i => i

/-- A state from which a step answers a next state `n` times in a row. -/
def RunsFor (n : Nat) (s : State) : Prop :=
  match n with
  | 0 => True
  | n + 1 => ∃ t, step s = .next t ∧ RunsFor n t

end Sys2Proof
end

