-- ==== Sys2Proof/Certificates/Slice0/Obligations.lean ====
section
/-! DEFINITION. The statements for the provers. -/

section

open Sys2Proof Sys2Proof.Machine

/-! ### Integer instructions -/

/-- R45, R46: the value of every three-register integer instruction, the g registers it leaves and its frame.
R47 to R51: the instructions with an immediate. -/
def Obligations.IntegerResults : Prop :=
  (∀ (s : State) (d a b : GReg) (k : BitVec 2), let x := s.me.get a; let y := s.me.get b
    (∃ t, exec (.add d a b) s = .next t ∧ Wrote d (x + y) 1 s t)
    ∧ (∃ t, exec (.sub d a b) s = .next t ∧ Wrote d (x - y) 1 s t)
    ∧ (∃ t, exec (.and d a b) s = .next t ∧ Wrote d (x &&& y) 1 s t)
    ∧ (∃ t, exec (.or d a b) s = .next t ∧ Wrote d (x ||| y) 1 s t)
    ∧ (∃ t, exec (.xor d a b) s = .next t ∧ Wrote d (x ^^^ y) 1 s t)
    ∧ (∃ t, exec (.andn d a b) s = .next t ∧ Wrote d (x &&& ~~~y) 1 s t)
    ∧ (∃ t, exec (.sll d a b) s = .next t ∧ Wrote d (x <<< (y.extractLsb' 0 6).toNat) 1 s t)
    ∧ (∃ t, exec (.srl d a b) s = .next t ∧ Wrote d (x >>> (y.extractLsb' 0 6).toNat) 1 s t)
    ∧ (∃ t, exec (.sra d a b) s = .next t ∧ Wrote d (x.sshiftRight (y.extractLsb' 0 6).toNat) 1 s t)
    ∧ (∃ t, exec (.min d a b) s = .next t ∧ Wrote d (if x.toInt ≤ y.toInt then x else y) 1 s t)
    ∧ (∃ t, exec (.max d a b) s = .next t ∧ Wrote d (if x.toInt ≤ y.toInt then y else x) 1 s t)
    ∧ (∃ t, exec (.minn d a b) s = .next t ∧ Wrote d (if x.toNat ≤ y.toNat then x else y) 1 s t)
    ∧ (∃ t, exec (.maxn d a b) s = .next t ∧ Wrote d (if x.toNat ≤ y.toNat then y else x) 1 s t)
    ∧ (∃ t, exec (.slt d a b) s = .next t ∧ Wrote d (if x.toInt < y.toInt then 1 else 0) 1 s t)
    ∧ (∃ t, exec (.sltn d a b) s = .next t ∧ Wrote d (if x.toNat < y.toNat then 1 else 0) 1 s t)
    ∧ (∃ t, exec (.lea d a b k) s = .next t ∧ Wrote d (x + (y <<< k.toNat)) 1 s t))
  ∧ ∀ (s : State) (d a : GReg) (imm : BitVec 16) (n : BitVec 6) (j : BitVec 21) (pos : BitVec 2), let x := s.me.get a
    (∃ t, exec (.addi d a imm) s = .next t ∧ Wrote d (x + imm.signExtend 64) 1 s t)
    ∧ (∃ t, exec (.andi d a imm) s = .next t ∧ Wrote d (x &&& imm.setWidth 64) 1 s t)
    ∧ (∃ t, exec (.ori d a imm) s = .next t ∧ Wrote d (x ||| imm.setWidth 64) 1 s t)
    ∧ (∃ t, exec (.xori d a imm) s = .next t ∧ Wrote d (x ^^^ imm.setWidth 64) 1 s t)
    ∧ (∃ t, exec (.slti d a imm) s = .next t ∧ Wrote d (if x.toInt < imm.toInt then 1 else 0) 1 s t)
    ∧ (∃ t, exec (.sltni d a imm) s = .next t
        ∧ Wrote d (if x.toNat < (imm.signExtend 64).toNat then 1 else 0) 1 s t)
    ∧ (∃ t, exec (.slli d a n) s = .next t ∧ Wrote d (x <<< n.toNat) 1 s t)
    ∧ (∃ t, exec (.srli d a n) s = .next t ∧ Wrote d (x >>> n.toNat) 1 s t)
    ∧ (∃ t, exec (.srai d a n) s = .next t ∧ Wrote d (x.sshiftRight n.toNat) 1 s t)
    ∧ (∃ t, exec (.li d j) s = .next t ∧ Wrote d (j.signExtend 64) 1 s t)
    ∧ (∃ t v, exec (.insh d pos imm) s = .next t ∧ Wrote d v 1 s t
        ∧ ∀ i, i < 64 → v.getLsbD i
            = if i / 16 = pos.toNat then imm.getLsbD (i % 16) else (s.me.get d).getLsbD i)
    ∧ (∃ t, exec (.pcadd d j) s = .next t ∧ Wrote d (s.me.pc + j.signExtend 64 * 4#64) 1 s t)

/-- R45, R46: the low half and the two high halves of the product; quotient and remainder, with the rules for a divisor of 0 and for the most negative number divided by −1. -/
def Obligations.MultiplyAndDivide : Prop :=
  ∀ (s : State) (d a b : GReg), let x := s.me.get a; let y := s.me.get b
    (∃ t, exec (.mul d a b) s = .next t ∧ Wrote d (x * y) 1 s t)
    ∧ (∃ t, exec (.mulh d a b) s = .next t ∧ Wrote d (BitVec.ofInt 64 (x.toInt * y.toInt / 2 ^ 64)) 1 s t)
    ∧ (∃ t, exec (.mulhn d a b) s = .next t ∧ Wrote d (BitVec.ofNat 64 (x.toNat * y.toNat / 2 ^ 64)) 1 s t)
    ∧ (∃ t q, exec (.div d a b) s = .next t ∧ Wrote d q 1 s t
      ∧ (y = 0 → q = -1) ∧ (x.toInt = -2 ^ 63 → y.toInt = -1 → q = x)
      ∧ (y ≠ 0 → ¬(x.toInt = -2 ^ 63 ∧ y.toInt = -1) → q.toInt = x.toInt.tdiv y.toInt))
    ∧ (∃ t r, exec (.rem d a b) s = .next t ∧ Wrote d r 1 s t
      ∧ (y = 0 → r = x) ∧ (x.toInt = -2 ^ 63 → y.toInt = -1 → r = 0)
      ∧ (y ≠ 0 → r.toInt = x.toInt.tmod y.toInt))
    ∧ (∃ t q, exec (.divn d a b) s = .next t ∧ Wrote d q 1 s t
      ∧ (y = 0 → q = -1) ∧ (y ≠ 0 → q.toNat = x.toNat / y.toNat))
    ∧ (∃ t r, exec (.remn d a b) s = .next t ∧ Wrote d r 1 s t
      ∧ (y = 0 → r = x) ∧ (y ≠ 0 → r.toNat = x.toNat % y.toNat))

/-- R45: the counts of CLZ, CTZ and POPC, said bit by bit. -/
def Obligations.BitCounts : Prop :=
  ∀ (s : State) (d a : GReg), let x := s.me.get a
    (∃ t, ∃ n : Nat, exec (.clz d a) s = .next t ∧ Wrote d (BitVec.ofNat 64 n) 1 s t
      ∧ n ≤ 64 ∧ (∀ i, 64 - n ≤ i → x.getLsbD i = false) ∧ (n < 64 → x.getLsbD (63 - n) = true))
    ∧ (∃ t, ∃ n : Nat, exec (.ctz d a) s = .next t ∧ Wrote d (BitVec.ofNat 64 n) 1 s t
      ∧ n ≤ 64 ∧ (∀ i, i < n → x.getLsbD i = false) ∧ (n < 64 → x.getLsbD n = true))
    ∧ (∃ t, exec (.popc d a) s = .next t
      ∧ Wrote d (BitVec.ofNat 64 ((List.range 64).countP (fun i => x.getLsbD i))) 1 s t)

/-! ### Branches, jumps and traps -/

/-- R58: a conditional branch whose condition holds goes to `here + off × 4`, and otherwise falls through, whatever the
target; neither changes any register. -/
def Obligations.ConditionalBranches : Prop :=
  ∀ (s : State) (a b : GReg) (off : BitVec 16), let x := s.me.get a; let y := s.me.get b
    let dest := s.me.pc + off.signExtend 64 * 4#64
    let branch (i : Instr) (taken : Prop) : Prop :=
      (taken → GoodTarget s.cur dest → ∃ t, exec i s = .next t ∧ Went dest 0#5 0 s t)
      ∧ (¬taken → ∃ t, exec i s = .next t ∧ Passed 1 s t)
    branch (.beq a b off) (x = y) ∧ branch (.bne a b off) (x ≠ y)
    ∧ branch (.blt a b off) (x.toInt < y.toInt) ∧ branch (.bge a b off) (y.toInt ≤ x.toInt)
    ∧ branch (.bltn a b off) (x.toNat < y.toNat) ∧ branch (.bgen a b off) (y.toNat ≤ x.toNat)

/-- R59 to R61: JAL and JALR write the address of the next instruction to gd, JALR reading ga first; LOOP counts ga down and
branches while the result is not 0. -/
def Obligations.JumpsAndLoop : Prop :=
  ∀ (s : State) (d a : GReg) (off : BitVec 16) (far : BitVec 21),
    (GoodTarget s.cur (s.me.pc + far.signExtend 64 * 4#64) →
      ∃ t, exec (.jal d far) s = .next t ∧ Went (s.me.pc + far.signExtend 64 * 4#64) d (s.me.pc + 4#64) s t)
    ∧ (GoodTarget s.cur (s.me.get a + off.signExtend 64) →
      ∃ t, exec (.jalr d a off) s = .next t ∧ Went (s.me.get a + off.signExtend 64) d (s.me.pc + 4#64) s t)
    ∧ (s.me.get a ≠ 1 → GoodTarget s.cur (s.me.pc + off.signExtend 64 * 4#64) →
      ∃ t, exec (.loop a off) s = .next t ∧ Went (s.me.pc + off.signExtend 64 * 4#64) a (s.me.get a - 1#64) s t)
    ∧ (s.me.get a = 1 → ∃ t, exec (.loop a off) s = .next t ∧ Wrote a 0 1 s t)

/-- R62: a taken branch or jump to an address that is no multiple of 4 takes a misaligned trap, to one outside the own CLM
an access-denied trap, with nothing else done; sy.taddr holds the target. ERET checks sy.epc in the same way. A branch that
is not taken is in `ConditionalBranches`, where it checks nothing. -/
def Obligations.BadTargetsTrap : Prop :=
  ∀ (s : State) (d a b : GReg) (off : BitVec 16) (far : BitVec 21), s.me.it = false →
    let x := s.me.get a; let y := s.me.get b
    let near := s.me.pc + off.signExtend 64 * 4#64
    let trap (i : Instr) (dest : Word) : Prop :=
      (dest.toNat % 4 ≠ 0 → ∃ t, exec i s = .next t ∧ Trapped 2 dest s.me.pc s t)
      ∧ (dest.toNat % 4 = 0 → ¬GoodTarget s.cur dest → ∃ t, exec i s = .next t ∧ Trapped 3 dest s.me.pc s t)
    trap (.jal d far) (s.me.pc + far.signExtend 64 * 4#64) ∧ trap (.jalr d a off) (x + off.signExtend 64)
      ∧ (x ≠ 1 → trap (.loop a off) near)
      ∧ (x = y → trap (.beq a b off) near) ∧ (x ≠ y → trap (.bne a b off) near)
      ∧ (x.toInt < y.toInt → trap (.blt a b off) near) ∧ (y.toInt ≤ x.toInt → trap (.bge a b off) near)
      ∧ (x.toNat < y.toNat → trap (.bltn a b off) near) ∧ (y.toNat ≤ x.toNat → trap (.bgen a b off) near)
      ∧ (s.me.prv = true → trap .eret s.me.epc)
      ∧ (x = 1 → ∃ t, exec (.loop a off) s = .next t ∧ Wrote a 0 1 s t)

/-- R68, R69: TRAP takes a trap of cause 12 with its immediate in sy.taddr, and resumes after itself; BRK takes one of
cause 11 and resumes at itself. -/
def Obligations.TrapInstructions : Prop :=
  ∀ (s : State) (imm : BitVec 11), s.me.it = false →
    (∃ t, exec (.trap imm) s = .next t ∧ Trapped 12 (imm.setWidth 64) (s.me.pc + 4#64) s t)
    ∧ (∃ t, exec .brk s = .next t ∧ Trapped 11 s.me.pc s.me.pc s t)

/-- R21: a synchronous trap while sy.status.IT is 1 halts the context with sy.tcause bit 9 set; sy.epc, sy.taddr,
sy.status and PC keep their values. -/
def Obligations.NestedTrapsHalt : Prop :=
  ∀ (s : State) (cause : Nat) (addr : Word), s.me.it = true →
    ∃ t, raise cause addr s = .next t ∧ Alone s t ∧ t.me.st = .halted
      ∧ t.me = { s.me with tcause := s.me.tcause ||| 0x200#64, st := .halted, held := none, wait := .none, stop := false,
                           pages := [], peeked := none, waited := 0 }

/-- R23, R71: ERET in privileged mode goes to sy.epc with PRV := PPRV and IT := 0; no other register changes but the
translation cache, which it empties (R54). -/
def Obligations.ReturnFromTrap : Prop :=
  ∀ (s : State), s.me.prv = true → GoodTarget s.cur s.me.epc →
    ∃ t, exec .eret s = .next t ∧ Alone s t ∧ AtBoundary s.me t.me
      ∧ t.me = { s.me.runAs t.me with pc := s.me.epc, status := statusOf s.me.sen false s.me.pprv s.me.pprv, tlb := [] }

/-- R15, R66, R67, R71, R73, R315, R378: without privilege, a privileged instruction and an access to a privileged system
register take an illegal-instruction trap, with the instruction's first word in sy.taddr. -/
def Obligations.PrivilegeTraps : Prop :=
  ∀ (s : State) (d a : GReg) (sem : BitVec 6) (x : BitVec 3) (r : BitVec 11), s.me.prv = false → s.me.it = false →
    let trap (i : Instr) : Prop :=
      ∃ t, exec i s = .next t ∧ Trapped 1 (BitVec.ofNat 64 (s.readMem s.me.pc.toNat 4)) s.me.pc s t
    trap .eret ∧ trap (.tladj a) ∧ trap (.semset a sem) ∧ trap (.ctxsave a x) ∧ trap (.ctxload a x)
      ∧ (0x00A ≤ r.toNat → r.toNat ≤ 0x00D → trap (.sysr d r) ∧ trap (.sysw a r)) ∧ trap (.sysw a 0x006#11)
      ∧ ((s.me.get a).extractLsb' 0 3 ≠ s.me.status.extractLsb' 0 3 → trap (.sysw a 0x000#11))

/-- R14, R15, R336, R414: what SYSR reads from each system register of a thread: those of Access RW and RO in any mode, those of Access
PRV in privileged mode; a number not in the table traps. -/
def Obligations.SystemRegisterReads : Prop :=
  ∀ (s : State) (d : GReg),
    let reads (n : BitVec 11) (v : Word) : Prop := ∃ t, exec (.sysr d n) s = .next t ∧ Wrote d v 1 s t
    reads 0x000#11 (s.me.status.setWidth 64)
      ∧ reads 0x001#11 (BitVec.ofNat 64 (s.cur % 8)) ∧ reads 0x002#11 (BitVec.ofNat 64 (s.cur / 8 % 4))
      ∧ reads 0x003#11 (BitVec.ofNat 64 (s.cur / 32)) ∧ reads 0x004#11 (BitVec.ofNat 64 (s.cur / 512))
      ∧ reads 0x005#11 (BitVec.ofNat 64 ((List.range 64).countP (fun i => s.grant.getLsbD i)))
      ∧ reads 0x006#11 s.gcyc ∧ reads 0x007#11 (s.me.pri.setWidth 64) ∧ reads 0x008#11 (s.me.fpctl.setWidth 64)
      ∧ reads 0x009#11 (s.me.fflags.setWidth 64)
      ∧ (s.me.prv = true → reads 0x00A#11 s.me.tvec ∧ reads 0x00B#11 s.me.epc ∧ reads 0x00C#11 s.me.tcause
          ∧ reads 0x00D#11 s.me.taddr)
      ∧ (∃ v, reads 0x00E#11 v ∧ ∀ i, i < 64 → v.getLsbD i = if i < 46 then s.readyBit i
          else if i < 62 then s.islandReady (16 * (s.cur / 512) + (i - 46)) else false)
      ∧ (let w := (s.core (coreOf s.cur)).window
         (w = none → reads 0x010#11 0)
         ∧ ∀ p i x, w = some (p, i) → s.pans.find? p = some x →
            (i = 0 → reads 0x010#11 x.c0) ∧ (i = 1 → reads 0x010#11 (x.tim ++ x.thr)) ∧ (i = 2 → reads 0x010#11 x.c2)
              ∧ (i = 3 → reads 0x010#11 x.c3))
      ∧ (∀ n : BitVec 11, (0x010 < n.toNat ∨ n.toNat = 0x00F) → s.me.it = false →
          ∃ t, exec (.sysr d n) s = .next t
            ∧ Trapped 1 (BitVec.ofNat 64 (s.readMem s.me.pc.toNat 4)) s.me.pc s t)

/-- R14 to R19, R66, R67: what SYSW writes to each system register, to sy.status without privilege where only SEN changes, to those of
Access PRV and sy.gcyc in privileged mode; a write of a read-only one is ignored, and a rounding mode of 5 to 7 traps. -/
def Obligations.SystemRegisterWrites : Prop :=
  ∀ (s : State) (a : GReg), let v := s.me.get a
    let sets (n : BitVec 11) (f : Ctx → Ctx) : Prop :=
      ∃ t, exec (.sysw a n) s = .next t ∧ Alone s t ∧ AtBoundary s.me t.me
        ∧ t.me = { (f s.me).runAs t.me with pc := s.me.pc + 4#64 }
    (s.me.prv = true ∨ v.extractLsb' 0 3 = s.me.status.extractLsb' 0 3 →
        sets 0x000#11 (fun c => { c with status := v.setWidth 4 }))
      ∧ sets 0x007#11 (fun c => { c with pri := v.setWidth 2 })
      ∧ ((v.setWidth 3).toNat < 5 → sets 0x008#11 (fun c => { c with fpctl := v.setWidth 3 }))
      ∧ (5 ≤ (v.setWidth 3).toNat → s.me.it = false → ∃ t, exec (.sysw a 0x008#11) s = .next t
          ∧ Trapped 1 (BitVec.ofNat 64 (s.readMem s.me.pc.toNat 4)) s.me.pc s t)
      ∧ sets 0x009#11 (fun c => { c with fflags := v.setWidth 5 })
      ∧ (∀ n ∈ [0x001#11, 0x002#11, 0x003#11, 0x004#11, 0x005#11, 0x00E#11, 0x010#11], sets n id)
      ∧ (s.me.prv = true →
          sets 0x00A#11 (fun c => { c with tvec := v &&& ~~~3#64 }) ∧ sets 0x00B#11 (fun c => { c with epc := v })
            ∧ sets 0x00C#11 (fun c => { c with tcause := v &&& 0x3FF#64 }) ∧ sets 0x00D#11 (fun c => { c with taddr := v })
            ∧ ∃ t, exec (.sysw a 0x006#11) s = .next t ∧ t.gcyc = v ∧ Passed 1 { s with gcyc := v } t)

/-- R72, R73, R367: HALT completes and leaves the context HALTED; TLADJ in privileged mode adds ga to GCYC and to every
armed time, and leaves every register and byte. -/
def Obligations.HaltAndTladj : Prop :=
  ∀ (s : State) (a : GReg),
    (∃ t, exec .halt s = .next t ∧ Alone s t ∧ t.me.st = .halted ∧ t.me.pc = s.me.pc + 4#64
      ∧ t.me = { s.me with pc := t.me.pc, st := .halted, wait := .none, held := none, stop := false, pages := [], peeked := none,
                           waited := 0 })
    ∧ (s.me.prv = true → ∃ t, exec (.tladj a) s = .next t ∧ t.gcyc = s.gcyc + s.me.get a ∧ SameMem s t
        ∧ (∀ r, t.me.get r = s.me.get r) ∧ t.me.pc = s.me.pc + 4#64
        ∧ (∀ p x, s.pans.find? p = some x → ∃ y, t.pans.find? p = some y ∧ y.times = x.times.map (· + s.me.get a)
            ∧ y.readyAt = x.readyAt.map (· + s.me.get a))
        ∧ (∀ i e, s.entries.find? i = some e → ∃ y, t.entries.find? i = some y ∧ y.rtime = e.rtime + s.me.get a)
        ∧ (∀ k r w, s.res.find? k = some r → r.switch = some w →
            ∃ y v, t.res.find? k = some y ∧ y.switch = some v ∧ v.t = w.t + s.me.get a)
        ∧ (∀ k x w, s.saved.find? k = some x → x.res.switch = some w →
            ∃ y v, t.saved.find? k = some y ∧ y.res.switch = some v ∧ v.t = w.t + s.me.get a))

/-! ### Loads and stores -/

/-- R52, R53: a load from the own CLM writes the extended bytes to gd and changes nothing else; single-bit errors of the
words read are corrected (R234). -/
def Obligations.LocalLoads : Prop :=
  ∀ (s : State) (d a : GReg) (off : BitVec 16), let ea := (s.me.get a + off.signExtend 64).toNat
    let loads (i : Instr) (n : Nat) (v : Word) : Prop :=
      OwnClm ea n .read s → ∃ t, exec i s = .next t ∧ Wrote d v 1 (s.corrected ea n) t
    loads (.ldB d a off) 1 ((BitVec.ofNat 8 (s.readMem ea 1)).signExtend 64)
      ∧ loads (.ldBn d a off) 1 ((BitVec.ofNat 8 (s.readMem ea 1)).setWidth 64)
      ∧ loads (.ldH d a off) 2 ((BitVec.ofNat 16 (s.readMem ea 2)).signExtend 64)
      ∧ loads (.ldHn d a off) 2 ((BitVec.ofNat 16 (s.readMem ea 2)).setWidth 64)
      ∧ loads (.ldW d a off) 4 ((BitVec.ofNat 32 (s.readMem ea 4)).signExtend 64)
      ∧ loads (.ldWn d a off) 4 ((BitVec.ofNat 32 (s.readMem ea 4)).setWidth 64)
      ∧ loads (.ldD d a off) 8 (BitVec.ofNat 64 (s.readMem ea 8))

/-- R52, R53, R57: a store to the own CLM writes the low bytes of gs at `ga + off`, least significant first, and no other byte;
no register changes. A word marked uncorrectable takes the store too, and stays marked where only a part of it is stored. -/
def Obligations.LocalStores : Prop :=
  ∀ (s : State) (r a : GReg) (off : BitVec 16), let ea := (s.me.get a + off.signExtend 64).toNat
    let stores (i : Instr) (n : Nat) : Prop :=
      MemInv s → OwnAt ea n .write s →
        ∃ t, exec i s = .next t ∧ Passed 1 (s.writeMem ea n ((s.me.get r).toNat % 256 ^ n)) t ∧ SameMemBut ea n s t
          ∧ BadAfterStore ea n s t
          ∧ ∀ k, k < n → Memory.get t.mem (ea + k) = (s.me.get r).extractLsb' (8 * k) 8
    stores (.stB r a off) 1 ∧ stores (.stH r a off) 2 ∧ stores (.stW r a off) 4 ∧ stores (.stD r a off) 8

/-- R53, R65, R206, R254, R260, R263, R273: a misaligned address traps before anything else, then an address that a page at hand does not let
the access reach, then, for plain loads and stores, VLD and VST, one whose home's table refuses it, in the own CLM or elsewhere;
sy.taddr holds the address. -/
def Obligations.MisalignedTraps : Prop :=
  ∀ (s : State) (d a b : GReg) (v : VNum) (off : BitVec 16) (o : BitVec 11) (aq rl w : Bool) (sc : BitVec 3) (lv : BitVec 4),
    s.me.it = false →
    let trap (i : Instr) (ea : Word) (n : Nat) : Prop :=
      ea.toNat % n ≠ 0 → ∃ t, exec i s = .next t ∧ Trapped 2 ea s.me.pc s t
    let barred (i : Instr) (ea : Word) (n : Nat) (k : Acc) : Prop :=
      trap i ea n ∧ (ea.toNat % n = 0 → (s.me.lookupAll ea.toNat k).1 = .fault → ∃ t, exec i s = .next t ∧ Trapped 4 ea s.me.pc s t)
    let denied (i : Instr) (ea : Word) (al n : Nat) (k : Acc) : Prop :=
      barred i ea al k ∧ (ea.toNat % al = 0 →
        (n ≤ 8 → InOwn ea.toNat s → s.grants (24576 + coreOf s.cur) s.cur ea.toNat k = false →
          ∃ t, exec i s = .next t ∧ Trapped 3 ea s.me.pc s t)
        ∧ (∀ pa, (s.me.lookupAll ea.toNat k).1 = .pa pa → (InOwn ea.toNat s → 8 < n) →
          ea.toNat + n ≤ s.pageEnd ea.toNat → s.accepts s.cur pa k = false → s.home pa ≠ .reg →
          (∀ m, s.home pa ≠ .peer m) → s.inCopy pa = false → s.reqs.all (fun q => q.2.owner ≠ .ctx s.cur) = true →
          ∃ t, ThroughHome i s t ∧ TrappedAfar 3 ea s t))
    let ea := s.me.get a + off.signExtend 64
    let ev := s.me.get a + o.signExtend 64
    let ga := s.me.get a
    let size := if w then 8 else 4
    denied (.ldB d a off) ea 1 1 .read ∧ denied (.ldBn d a off) ea 1 1 .read ∧ denied (.ldH d a off) ea 2 2 .read
      ∧ denied (.ldHn d a off) ea 2 2 .read ∧ denied (.ldW d a off) ea 4 4 .read ∧ denied (.ldWn d a off) ea 4 4 .read
      ∧ denied (.ldD d a off) ea 8 8 .read ∧ denied (.stB d a off) ea 1 1 .write ∧ denied (.stH d a off) ea 2 2 .write
      ∧ denied (.stW d a off) ea 4 4 .write ∧ denied (.stD d a off) ea 8 8 .write
      ∧ denied (.vld v a o) ev 8 40 .read ∧ denied (.vst v a o) ev 8 40 .write
      ∧ barred (.ldf d a sc) ga 8 .read ∧ barred (.ldfe d a sc) ga 8 .readWrite ∧ barred (.stf a b sc) ga 8 .write
      ∧ (∀ i ∈ [Instr.amoAdd d a b aq rl sc w, .amoAnd d a b aq rl sc w, .amoOr d a b aq rl sc w, .amoXor d a b aq rl sc w,
          .amoMin d a b aq rl sc w, .amoMax d a b aq rl sc w, .amoMinn d a b aq rl sc w, .amoMaxn d a b aq rl sc w,
          .amoSwap d a b aq rl sc w, .amoSadd d a b aq rl sc w, .amoFadd d a b aq rl sc w, .cas d a b aq rl sc w],
          barred i ga size .atomic)
      ∧ barred (.lock a sc) ga 8 .atomic ∧ barred (.unlock a sc) ga 8 .atomic
      ∧ trap (.gld v b a lv) ga 128 ∧ trap (.gscat v b a lv) ga 128
      ∧ (s.mdReady = true → s.failover = false → trap (.launch d a) ga 64)

/-- R55, R52, R434: a load from an ME or stack DRAM that a translation reaches: its request is performed at the home, and
the answer completes it, with every byte of memory as before. -/
def Obligations.RemoteLoads : Prop :=
  ∀ (s : State) (d a : GReg) (off : BitVec 16) (pa : Nat), let ea := (s.me.get a + off.signExtend 64).toNat
    let loads (i : Instr) (n : Nat) (v : Word) : Prop :=
      Reaches ea n pa .read .read s → ∃ t, ThroughHome i s t ∧ Done d v s t ∧ SameMem s t
    loads (.ldB d a off) 1 ((BitVec.ofNat 8 (s.readMem pa 1)).signExtend 64)
      ∧ loads (.ldBn d a off) 1 ((BitVec.ofNat 8 (s.readMem pa 1)).setWidth 64)
      ∧ loads (.ldH d a off) 2 ((BitVec.ofNat 16 (s.readMem pa 2)).signExtend 64)
      ∧ loads (.ldHn d a off) 2 ((BitVec.ofNat 16 (s.readMem pa 2)).setWidth 64)
      ∧ loads (.ldW d a off) 4 ((BitVec.ofNat 32 (s.readMem pa 4)).signExtend 64)
      ∧ loads (.ldWn d a off) 4 ((BitVec.ofNat 32 (s.readMem pa 4)).setWidth 64)
      ∧ loads (.ldD d a off) 8 (BitVec.ofNat 64 (s.readMem pa 8))

/-- R55, R52, R57, R434: the same for stores, onto words marked uncorrectable too. -/
def Obligations.RemoteStores : Prop :=
  ∀ (s : State) (r a : GReg) (off : BitVec 16) (pa : Nat), let ea := (s.me.get a + off.signExtend 64).toNat
    let stores (i : Instr) (n : Nat) : Prop :=
      MemInv s → Lands ea n pa .write .write s →
        ∃ t, ThroughHome i s t ∧ Done 0#5 0 s t ∧ SameMemBut pa n s t ∧ BadAfterStore pa n s t
          ∧ ∀ k, k < n → Memory.get t.mem (pa + k) = (s.me.get r).extractLsb' (8 * k) 8
    stores (.stB r a off) 1 ∧ stores (.stH r a off) 2 ∧ stores (.stW r a off) 4 ∧ stores (.stD r a off) 8

/-- R65, R244: VST writes the 40 bytes of the register's image, VLD reads them back into a register, word by word, in a CLM, an
ME, stack DRAM or CXL memory, and neither touches another byte. -/
def Obligations.VectorLoadsAndStores : Prop :=
  ∀ (s : State) (v : VNum) (a : GReg) (off : BitVec 11) (pa : Nat), let ea := (s.me.get a + off.signExtend 64).toNat
    (ImageAt ea pa .read s →
      ∃ t, ByWords (.vld v a off) s t ∧ SameMem s t ∧ t.me.pc = s.me.pc + 4#64 ∧ (∀ r, t.me.get r = s.me.get r)
        ∧ ∀ q, t.me.getV q = if q = v then { lanes := BitVec.ofNat 288 (s.readMem pa 40),
                                             lm := BitVec.ofNat 8 (s.readMem (pa + 36) 1) } else s.me.getV q)
    ∧ (MemInv s → ImageAt ea pa .write s →
      ∃ t, ByWords (.vst v a off) s t ∧ SameMemBut pa 40 s t ∧ t.me.pc = s.me.pc + 4#64
        ∧ (∀ r, t.me.get r = s.me.get r) ∧ (∀ q, t.me.getV q = s.me.getV q)
        ∧ t.readMem pa 36 = (s.me.getV v).lanes.toNat ∧ t.readMem (pa + 36) 1 = (s.me.getV v).lm.toNat)

/-- R64: moves between v and g registers; every other register, and all of memory, as before. -/
def Obligations.VectorMoves : Prop :=
  ∀ (s : State) (d : GReg) (vd va : VNum) (lane : BitVec 3),
    (∃ t, exec (.vmov vd va) s = .next t ∧ Alone s t ∧ AtBoundary s.me t.me ∧ t.me.pc = s.me.pc + 4#64
      ∧ (∀ q, t.me.getV q = if q = vd then s.me.getV va else s.me.getV q)
      ∧ t.me = { s.me.runAs t.me with v := t.me.v, pc := t.me.pc })
    ∧ (∃ t, exec (.vget d va lane) s = .next t
      ∧ Wrote d (((s.me.getV va).lanes.extractLsb' (36 * lane.toNat) 36).setWidth 64) 1 s t)
    ∧ (∃ t, exec (.vgetLm d va) s = .next t ∧ Wrote d ((s.me.getV va).lm.setWidth 64) 1 s t)

/-! ### Lane operations -/

/-- R95, R98, R99, R102: a legal VOP none of whose flags is enabled writes the operation's result to vd and ORs its flags
into sy.fflags; an enabled flag traps with cause 5 and no effect. All operations that VOP takes are meant. On registers (ASEL,
BSEL, CSEL the inputs) the values are R83's and R105 to R113's: an active lane or pair holds the exact sum, product or fused
result rounded once, or the first NaN operand quiet; a quotient and a root are the truncated ones with the rest as sticky, rounded
once; the special operands of R107; comparisons; selection, whose pair mask under FMT 1 is log 85's choice; sums and maxima; the
moves of lanes; and R120's and R118's conversions. -/
def Obligations.VopCompletes : Prop :=
  (∀ (s : State) (o : LOp) (vd va vb vc : VNum) (w : LaneW), laneLegal true o w = true →
    let regs := prefixReg s.me va vb vc
    let st := s.me.getV vd
    let x := laneOp o w (s.me.mode w.rnd) (operand o w 0 w.asel regs st) (operand o w 1 w.bsel regs st)
      (operand o w 2 w.csel regs st) st (regs 0)
    (trapped w x.2 = 0#5 → ∃ t, exec (o.instr (.vop vd va vb vc) w) s = .next t ∧ Alone s t ∧ AtBoundary s.me t.me
      ∧ t.me.pc = s.me.pc + 12#64 ∧ t.me.fflags = s.me.fflags ||| x.2
      ∧ (∀ q, t.me.getV q = if q = vd then x.1 else s.me.getV q)
      ∧ t.me = { s.me.runAs t.me with v := t.me.v, fflags := t.me.fflags, pc := t.me.pc })
    ∧ (trapped w x.2 ≠ 0#5 → s.me.it = false →
      ∃ t, exec (o.instr (.vop vd va vb vc) w) s = .next t ∧ Trapped 5 ((trapped w x.2).setWidth 64) s.me.pc s t))
  ∧ (∀ (s : State) (vd va vb vc : VNum) (w : LaneW), w.asel = 1#3 → w.xen = 0#5 →
    let A := s.me.getV va; let B := s.me.getV vb; let C := s.me.getV vc
    let rm := s.me.mode w.rnd
    let gives (o : LOp) (lm : Nat → Bool) (lane : Nat → Lane) (flags : Nat → Flags) : Prop :=
      laneLegal true o w = true → ∃ t, exec (o.instr (.vop vd va vb vc) w) s = .next t ∧ SameMem s t
        ∧ (∀ i, i < 8 → (t.me.getV vd).lm.getLsbD i = lm i ∧ (t.me.getV vd).lane i = lane i)
        ∧ ∀ k, k < 5 → (t.me.fflags.getLsbD k = true ↔
            s.me.fflags.getLsbD k = true ∨ ∃ i, i < 8 ∧ (flags i).getLsbD k = true)
    let lanes (o : LOp) (act : BitVec 8) (f : Nat → Lane × Flags) : Prop :=
      gives o (act.getLsbD ·) (fun i => if act.getLsbD i then (f i).1 else A.lane i)
        (fun i => if act.getLsbD i then (f i).2 else 0#5)
    let pairs (o : LOp) (act odd : BitVec 8) (f : Nat → BitVec 72 × Flags) : Prop :=
      gives o (fun i => act.getLsbD (i / 2 * 2) && odd.getLsbD (i % 2))
        (fun i => if act.getLsbD (i / 2 * 2) then (f (i / 2)).1.extractLsb' (i % 2 * 36) 36 else A.lane i)
        (fun i => if act.getLsbD (i / 2 * 2) then (f (i / 2)).2 else 0#5)
    let AB := A.lm &&& B.lm; let ABC := A.lm &&& B.lm &&& C.lm
    let ff1 (o : LOp) (f : Num.FV → Num.FV × Flags) : Prop :=
      lanes o A.lm (fun i => ffLane (f (Num.unpackFF (A.lane i))))
    let ff2 (o : LOp) (f : Num.FV → Num.FV → Num.FV × Flags) : Prop := w.bsel = 2#3 →
      lanes o AB (fun i => ffLane (f (Num.unpackFF (A.lane i)) (Num.unpackFF (B.lane i))))
    let ff3 (o : LOp) (f : Num.FV → Num.FV → Num.FV → Num.FV × Flags) : Prop := w.bsel = 2#3 → w.csel = 3#3 →
      lanes o ABC (fun i => ffLane (f (Num.unpackFF (A.lane i)) (Num.unpackFF (B.lane i)) (Num.unpackFF (C.lane i))))
    let fd2 (o : LOp) (f : Num.FV → Num.FV → Num.FV × Flags) : Prop := w.bsel = 2#3 →
      pairs o AB 3#8 (fun p => fdPair (f (Num.unpackFD (A.pair p)) (Num.unpackFD (B.pair p))))
    let nan (xs : List Num.FV) (r : Num.FV × Flags) : Num.FV × Flags :=
      match xs.filter Num.FV.isNaN with
      | x :: _ => (x.quiet, if xs.any Num.FV.isSignalling then Num.nv else 0#5)
      | [] => r
    let rounded (f : Num.Fmt) (x : Option Num.FV) : Num.FV × Flags :=
      match x with
      | some y => Num.roundFV f rm y
      | none => (Num.FV.canon, Num.nv)
    let add (f : Num.Fmt) (a b : Num.FV) := nan [a, b] (rounded f (Num.exactAdd rm a b))
    let sub (f : Num.Fmt) (a b : Num.FV) := nan [a, b] (rounded f (Num.exactAdd rm a b.neg))
    let mul (f : Num.Fmt) (a b : Num.FV) := nan [a, b] (rounded f (Num.exactMul a b))
    let fma (f : Num.Fmt) (negate : Bool) (a b c : Num.FV) : Num.FV × Flags :=
      let r := nan [a, b, c] (rounded f (((Num.exactMul a b).map (fun p => if negate then p.neg else p)).bind
        (fun p => Num.exactAdd rm p c)))
      (r.1, if Num.zeroTimesInf a b then r.2 ||| Num.nv else r.2)
    let pick (max : Bool) (a b : Num.FV) : Num.FV × Flags :=
      (if a.isNaN then (if b.isNaN then a.quiet else b) else if b.isNaN then a
        else if (if max then Num.lt true a b else Num.lt true b a) then b else a,
       if [a, b].any Num.FV.isSignalling then Num.nv else 0#5)
    ff2 .fadd (add Num.ff36) ∧ ff2 .fsub (sub Num.ff36) ∧ ff2 .fmul (mul Num.ff36)
      ∧ ff3 .fma (fma Num.ff36 false) ∧ ff3 .fnma (fma Num.ff36 true) ∧ ff2 .fmin (pick false) ∧ ff2 .fmax (pick true)
      ∧ ff1 .fneg (fun a => (a.neg, 0#5)) ∧ ff1 .fabs (fun a => (if a.sign then a.neg else a, 0#5))
      ∧ ff2 .fdiv (Num.divR Num.ff36 rm) ∧ ff1 .fsqrt (Num.sqrtR Num.ff36 rm)
      ∧ ff1 .frcp (Num.divR Num.ff36 rm (.fin false 1 0)) ∧ ff1 .frsq (Num.rsqrtR Num.ff36 rm)
      ∧ ff1 .fexp2 (Num.exp2R Num.ff36 rm) ∧ ff1 .flog2 (Num.log2R Num.ff36 rm)
      ∧ ff1 .ftanh (Num.tanhR Num.ff36 rm) ∧ ff1 .fsig (Num.sigR Num.ff36 rm)
      ∧ fd2 .dadd (add Num.fd72) ∧ fd2 .dsub (sub Num.fd72) ∧ fd2 .dmul (mul Num.fd72)
      ∧ (w.bsel = 2#3 → w.csel = 3#3 → pairs .dfma ABC 3#8 (fun p => fdPair
          (fma Num.fd72 false (Num.unpackFD (A.pair p)) (Num.unpackFD (B.pair p)) (Num.unpackFD (C.pair p)))))
      ∧ fd2 .dmin (pick false) ∧ fd2 .dmax (pick true) ∧ fd2 .ddiv (Num.divR Num.fd72 rm)
      ∧ pairs .dsqrt A.lm 3#8 (fun p => fdPair (Num.sqrtR Num.fd72 rm (Num.unpackFD (A.pair p))))
      -- comparisons (R109) and selection (R110)
      ∧ (∀ o, o = .fcmp ∨ o = .icmp → w.bsel = 2#3 →
          let at' (i : Nat) : Nat := if w.fmt = 1#4 then i / 2 * 2 else i
          let x (i : Nat) : Num.FV := if w.fmt = 1#4 then Num.unpackFD (A.pair (i / 2)) else Num.unpackFF (A.lane i)
          let y (i : Nat) : Num.FV := if w.fmt = 1#4 then Num.unpackFD (B.pair (i / 2)) else Num.unpackFF (B.lane i)
          let holds (i : Nat) : Bool := if o = .icmp then icmp (w.param.toNat % 16) (i32 (A.lane i)) (i32 (B.lane i))
            else match w.param.toNat % 16 with
              | 0 => !(x i).isNaN && !(y i).isNaN && !Num.lt false (x i) (y i) && !Num.lt false (y i) (x i)
              | 1 => (x i).isNaN || (y i).isNaN || Num.lt false (x i) (y i) || Num.lt false (y i) (x i)
              | 2 => !(x i).isNaN && !(y i).isNaN && Num.lt false (x i) (y i)
              | 3 => !(x i).isNaN && !(y i).isNaN && (Num.lt false (x i) (y i) || !Num.lt false (y i) (x i))
              | 4 => !(x i).isNaN && !(y i).isNaN && Num.lt false (y i) (x i)
              | 5 => !(x i).isNaN && !(y i).isNaN && (Num.lt false (y i) (x i) || !Num.lt false (x i) (y i))
              | 6 => (x i).isNaN || (y i).isNaN
              | _ => !((x i).isNaN || (y i).isNaN)
          let invalid (i : Nat) : Bool := o = .fcmp && ((x i).isSignalling || (y i).isSignalling
            || (((x i).isNaN || (y i).isNaN) && decide (2 ≤ w.param.toNat % 16 ∧ w.param.toNat % 16 ≤ 5)))
          gives o (fun i => AB.getLsbD (at' i) && (!w.param.getLsbD 4 || holds i))
            (fun i => if AB.getLsbD (at' i) then (if holds i then 1#36 else 0#36) else A.lane i)
            (fun i => if AB.getLsbD (at' i) && invalid i then Num.nv else 0#5))
      ∧ (w.bsel = 2#3 → w.csel = 3#3 →
          let at' (i : Nat) : Nat := if w.fmt = 1#4 then i / 2 * 2 else i
          let src (i : Nat) : VReg := if i32 (C.lane (at' i)) ≠ 0#32 then A else B
          gives .sel (fun i => (src i).lm.getLsbD i && C.lm.getLsbD (at' i)) (fun i => (src i).lane i) (fun _ => 0#5))
      -- reductions (R112)
      ∧ (∀ o, o = .lsum ∨ o = .lmax →
          let reduces (n : Nat) (lane : Nat → Lane) (fl : Flags) : Prop :=
            gives o (fun i => decide (i < n)) (fun i => if i < n then lane i else A.lane i) (fun _ => fl)
          let largest (xs : List Num.FV) : Num.FV × Flags :=
            match xs with
            | x :: ys =>
              let first : Flags := if x.isSignalling then Num.nv else 0#5
              let r : Num.FV × Flags := ys.foldl (fun m y => ((pick true m.1 y).1, m.2 ||| (pick true m.1 y).2)) (x, first)
              (r.1.quiet, r.2)
            | [] => (.zero false, 0#5)
          let plus (f : Num.Fmt) (x y : Num.FV × Flags) : Num.FV × Flags :=
            ((add f x.1 y.1).1, x.2 ||| y.2 ||| (add f x.1 y.1).2)
          let l (i : Nat) : Num.FV × Flags := (if A.lm.getLsbD i then Num.unpackFF (A.lane i) else .zero false, 0#5)
          let p (i : Nat) : Num.FV × Flags := (if A.lm.getLsbD (2 * i) then Num.unpackFD (A.pair i) else .zero false, 0#5)
          let tree (plus : Num.FV × Flags → Num.FV × Flags → Num.FV × Flags) (x : Nat → Num.FV × Flags) (k : Nat) :=
            plus (plus (x k) (x (k + 1))) (plus (x (k + 2)) (x (k + 3)))
          let on := (List.range 8).filter (A.lm.getLsbD ·)
          (on = [] → reduces 0 A.lane 0#5)
          ∧ (on ≠ [] → w.fmt = 0#4 →
              let r := if o = .lsum then plus Num.ff36 (tree (plus Num.ff36) l 0) (tree (plus Num.ff36) l 4)
                else largest (on.map (fun i => Num.unpackFF (A.lane i)))
              reduces 1 (fun _ => Num.packFF r.1) r.2)
          ∧ (w.fmt = 1#4 → let ons := (List.range 4).filter (fun q => A.lm.getLsbD (2 * q))
              let r := if o = .lsum then tree (plus Num.fd72) p 0 else largest (ons.map (fun q => Num.unpackFD (A.pair q)))
              if ons = [] then reduces 0 A.lane 0#5
              else reduces 2 (fun i => (Num.packFD r.1).extractLsb' (36 * i) 36) r.2)
          ∧ (on ≠ [] → w.fmt = 2#4 →
              let xs := on.map (fun i => i32 (A.lane i))
              let ys := on.map (fun i => (i32 (A.lane i)).toInt)
              if o = .lsum then reduces 1 (fun _ => (BitVec.ofNat 32 (xs.map BitVec.toNat).sum).signExtend 36) 0#5
              else reduces 1 (fun _ => (BitVec.ofInt 32 (ys.foldl max (-2 ^ 31))).signExtend 36) 0#5))
      -- lanes that travel (R113)
      ∧ (let moves (o : LOp) (src : Nat → Option (VReg × Nat)) : Prop :=
          gives o (fun i => match src i with | some x => x.1.lm.getLsbD x.2 | none => false)
            (fun i => match src i with | some x => x.1.lane x.2 | none => 0#36) (fun _ => 0#5)
        let j := w.param.toNat % 8
        moves .lperm (fun i => some (A, (w.imm.toNat % 256 * 2 ^ 16 + w.param.toNat) / 2 ^ (3 * i) % 8))
        ∧ moves .lbcast (fun _ => some (A, j))
        ∧ (w.bsel = 2#3 → moves .lshift (fun i =>
            let k : Int := 8 + i - (w.param.setWidth 4).toInt
            if k < 8 then some (B, k.toNat) else if k < 16 then some (A, (k - 8).toNat) else some (B, (k - 16).toNat)))
        ∧ (w.bsel = 2#3 → moves .lins (fun i => if i = j then some (B, 0) else some (A, i)))
        ∧ moves .lext (fun i => if i = 0 then some (A, j) else none))
      -- R111's operations with a form of their own
      ∧ (let int (x : Int) : Lane × Flags := ((BitVec.ofInt 32 x).signExtend 36, 0#5)
        let val (x : Lane) : Int := if w.fmt = 3#4 then (i32 x).toNat else (i32 x).toInt
        let clamp (lo hi x : Int) : Int := if x < lo then lo else if hi < x then hi else x
        (w.bsel = 2#3 → lanes .imulh AB (fun i => int (val (A.lane i) * val (B.lane i) / 2 ^ 32)))
        ∧ (w.bsel = 2#3 → w.csel = 3#3 → lanes .imad ABC (fun i => int (val (A.lane i) * val (B.lane i) + val (C.lane i))))
        ∧ (w.bsel = 2#3 → lanes .isadd AB (fun i => int (clamp (if w.fmt = 3#4 then 0 else -2 ^ 31)
            (if w.fmt = 3#4 then 2 ^ 32 - 1 else 2 ^ 31 - 1) (val (A.lane i) + val (B.lane i)))))
        ∧ lanes .iabs A.lm (fun i => int (val (A.lane i)).natAbs)
        -- conversions (R118, R120)
        ∧ lanes .cvtfi A.lm (fun i =>
            let lo : Int := if w.fmt = 3#4 then 0 else -2 ^ 31
            let hi : Int := if w.fmt = 3#4 then 2 ^ 32 - 1 else 2 ^ 31 - 1
            let r := Num.toIntSat rm lo hi (Num.unpackFF (A.lane i))
            ((int r.1).1, r.2))
        ∧ lanes .cvtif A.lm (fun i => let x := val (A.lane i)
            ffLane (if x = 0 then (.zero false, 0#5) else Num.roundFV Num.ff36 rm (.fin (decide (x < 0)) x.natAbs 0)))
        ∧ pairs .cvtfd A.lm 3#8 (fun p => let x := Num.unpackFF (A.lane (2 * p))
            (Num.packFD x.quiet, if x.isSignalling then Num.nv else 0#5))
        ∧ pairs .cvtdf A.lm 1#8 (fun p => let x := Num.unpackFD (A.pair p)
            let r := nan [x] (Num.roundFV Num.ff36 rm x)
            ((Num.packFF r.1).setWidth 72, r.2))
        ∧ (w.param = 0#16 → 1 ≤ w.fmt.toNat → w.fmt.toNat ≤ 6 →
            lanes .cvtin A.lm (fun i =>
              let x := (sfloat w.fmt.toNat).unpack ((A.lane i).toNat % 2 ^ storageBits w.fmt.toNat)
              (Num.packFF x.quiet, if x.isSignalling then Num.nv else 0#5))
            ∧ (w.rnd ≠ 5#3 → lanes .cvtout A.lm (fun i =>
              let x := Num.unpackFF (A.lane i)
              let r := Num.roundFV (sfloat w.fmt.toNat).fmt rm x
              let n := (sfloat w.fmt.toNat).pack r.1
              (BitVec.ofNat 36 n.1, r.2 ||| n.2 ||| if x.isSignalling then Num.nv else 0#5))))))
  ∧ (∀ (f : Num.Fmt) (rm : Num.RMode) (s : Bool) (m n : Nat) (e d : Int) (a b : Num.FV), 0 < m → 0 < n →
    -- R107: the special operands
    (∀ g ∈ [Num.sqrtR f rm, Num.rsqrtR f rm, Num.exp2R f rm, Num.log2R f rm, Num.tanhR f rm, Num.sigR f rm],
      ∀ (s : Bool) (x : Nat), g (.nan s x) = ((Num.FV.nan s x).quiet, Num.snan [.nan s x]))
    ∧ Num.sqrtR f rm (.inf true) = (.canon, Num.nv) ∧ Num.sqrtR f rm (.zero s) = (.zero s, 0#5)
    ∧ Num.sqrtR f rm (.inf false) = (.inf false, 0#5) ∧ Num.sqrtR f rm (.fin true m e) = (.canon, Num.nv)
    ∧ Num.divR f rm (.fin false 1 0) (.inf s) = (.zero s, 0#5)
    ∧ Num.divR f rm (.fin false 1 0) (.zero s) = (.inf s, Num.dz)
    ∧ Num.rsqrtR f rm (.inf true) = (.canon, Num.nv) ∧ Num.rsqrtR f rm (.zero s) = (.inf s, Num.dz)
    ∧ Num.rsqrtR f rm (.inf false) = (.zero false, 0#5) ∧ Num.rsqrtR f rm (.fin true m e) = (.canon, Num.nv)
    ∧ Num.exp2R f rm (.inf true) = (.zero false, 0#5) ∧ Num.exp2R f rm (.zero s) = (.fin false 1 0, 0#5)
    ∧ Num.exp2R f rm (.inf false) = (.inf false, 0#5)
    ∧ Num.log2R f rm (.inf true) = (.canon, Num.nv) ∧ Num.log2R f rm (.zero s) = (.inf true, Num.dz)
    ∧ Num.log2R f rm (.inf false) = (.inf false, 0#5) ∧ Num.log2R f rm (.fin true m e) = (.canon, Num.nv)
    ∧ Num.log2R f rm (.fin false (2 ^ n) (-n)) = (.zero false, 0#5)
    ∧ Num.tanhR f rm (.inf s) = (.fin s 1 0, 0#5) ∧ Num.tanhR f rm (.zero s) = (.zero s, 0#5)
    ∧ Num.sigR f rm (.inf true) = (.zero false, 0#5) ∧ Num.sigR f rm (.zero s) = (.fin false 1 (-1), 0#5)
    ∧ Num.sigR f rm (.inf false) = (.fin false 1 0, 0#5)
    ∧ (∀ x ∈ [a, b], x.isNaN = true → ∀ y, [a, b].find? Num.FV.isNaN = some y →
        Num.divR f rm a b = (y.quiet, Num.snan [a, b]))
    ∧ Num.divR f rm (.zero s) (.zero false) = (.canon, Num.nv) ∧ Num.divR f rm (.inf s) (.inf false) = (.canon, Num.nv)
    ∧ Num.divR f rm (.fin s m e) (.zero false) = (.inf s, Num.dz)
    -- R105: the quotient and the roots, cut below the format's last bit, rounded once
    ∧ (∃ k q : Nat, q = m * 2 ^ k / n ∧ 2 ^ (f.p + 2) ≤ q
        ∧ Num.divR f rm (.fin s m e) (.fin false n d) = Num.roundTo f rm s q (e - d - k) (q * n ≠ m * 2 ^ k))
    ∧ (∃ k q : Nat, let x := Num.evenExp m e
        q * q ≤ x.1 * 2 ^ (2 * k) ∧ x.1 * 2 ^ (2 * k) < (q + 1) * (q + 1) ∧ 2 ^ (f.p + 2) ≤ q
        ∧ Num.sqrtR f rm (.fin false m e) = Num.roundTo f rm false q (x.2 / 2 - k) (q * q ≠ x.1 * 2 ^ (2 * k)))
    ∧ (∃ k q : Nat, let x := Num.evenExp m e
        q * q * x.1 ≤ 2 ^ (2 * k) ∧ 2 ^ (2 * k) < (q + 1) * (q + 1) * x.1 ∧ 2 ^ (f.p + 2) ≤ q
        ∧ Num.rsqrtR f rm (.fin false m e) = Num.roundTo f rm false q (-(x.2 / 2) - k) (q * q * x.1 ≠ 2 ^ (2 * k))))

/-- R79, R99, R111: the lane-wise integer operations under VOP on registers va and vb: a lane active in both holds the
32-bit result, sign-extended to 36 bits; the other lanes are inactive; sy.fflags stays. -/
def Obligations.IntegerLanes : Prop :=
  ∀ (s : State) (vd va vb vc : VNum) (w : LaneW), w.asel = 1#3 → w.bsel = 2#3 →
    let lanes (o : LOp) (f : BitVec 32 → BitVec 32 → BitVec 32) : Prop :=
      laneLegal true o w = true → ∃ t, exec (o.instr (.vop vd va vb vc) w) s = .next t ∧ t.me.fflags = s.me.fflags
        ∧ SameMem s t ∧ (t.me.getV vd).lm = (s.me.getV va).lm &&& (s.me.getV vb).lm
        ∧ ∀ i, i < 8 → (t.me.getV vd).lm.getLsbD i = true → (t.me.getV vd).lanes.extractLsb' (36 * i) 36
            = (f (((s.me.getV va).lanes.extractLsb' (36 * i) 36).setWidth 32)
                 (((s.me.getV vb).lanes.extractLsb' (36 * i) 36).setWidth 32)).signExtend 36
    lanes .iadd (· + ·) ∧ lanes .isub (· - ·) ∧ lanes .imul (· * ·) ∧ lanes .iand (· &&& ·) ∧ lanes .ior (· ||| ·)
      ∧ lanes .ixor (· ^^^ ·) ∧ lanes .ishl (fun x y => x <<< (y.toNat % 32)) ∧ lanes .ishr (fun x y => x >>> (y.toNat % 32))
      ∧ lanes .isar (fun x y => x.sshiftRight (y.toNat % 32))
      ∧ lanes .imin (fun x y => if x.toInt ≤ y.toInt then x else y)
      ∧ lanes .imax (fun x y => if x.toInt ≤ y.toInt then y else x)
      ∧ lanes .iminn (fun x y => if x.toNat ≤ y.toNat then x else y)
      ∧ lanes .imaxn (fun x y => if x.toNat ≤ y.toNat then y else x)

/-! ### Threads, messages and groups -/

/-- R130 to R133, R137: SPAWN on the own core starts the lowest free context with ga at PC, gb in g1 and the parent's id in
g2, and gives its thread id, or −1 where none is free; EXIT with idle slots frees the context; YIELD changes nothing;
SETPRI sets the priority alone. -/
def Obligations.ThreadInstructions : Prop :=
  ∀ (s : State) (d a b : GReg) (p : BitVec 2), let core := coreOf s.cur
    (∀ x, (s.freeCtxs core).head? = some x → x ≠ s.cur → s.groupsOf x = [] →
      ∃ t, exec (.spawn d a b false (BitVec.ofNat 2 core)) s = .next t ∧ t.me.get d = (if d = 0#5 then 0 else BitVec.ofNat 64 x)
        ∧ t.me.pc = s.me.pc + 4#64 ∧ (t.ctx x).st = .runnable ∧ (t.ctx x).pc = s.me.get a
        ∧ (t.ctx x).get 1#5 = s.me.get b ∧ (t.ctx x).get 2#5 = BitVec.ofNat 64 s.cur ∧ (t.ctx x).pri = s.me.pri
        ∧ (t.ctx x).prv = s.me.prv ∧ (t.ctx x).it = false ∧ SameMem s t)
    ∧ (s.freeCtxs core = [] → ∃ t, exec (.spawn d a b false (BitVec.ofNat 2 core)) s = .next t ∧ Wrote d (-1) 1 s t)
    ∧ (s.me.slotsIdle = true → s.groupsOf s.cur = [] →
        ∃ t, exec .exit s = .next t ∧ Alone s t ∧ t.me.st = .free ∧ t.me.pend = 0 ∧ t.me.wait = .none)
    ∧ (∃ t, exec .yield s = .next t ∧ Passed 1 s t)
    ∧ (∃ t, exec (.setpri p) s = .next t ∧ Alone s t ∧ AtBoundary s.me t.me
        ∧ t.me = { s.me.runAs t.me with pri := p, pc := s.me.pc + 4#64 })

/-- R143 to R147: SEND gives its words to the network and waits; delivery into a channel with room completes it and places
the message, which a RECV of the target then takes, with zeros in the registers that the message does not fill. -/
def Obligations.Messages : Prop :=
  ∀ (s : State) (c r d : GReg) (n : BitVec 2) (ch : BitVec 6),
    let core := ((s.me.get c).extractLsb' 6 8).toNat
    let chan := ((s.me.get c).extractLsb' 0 6).toNat
    let words := (List.range (n.toNat + 1)).map (fun i => s.me.get (r + BitVec.ofNat 5 i))
    (s.sendRefused s.cur core = false → s.msgs.all (fun x => x.2.src ≠ s.cur) = true →
      ∃ t, exec (.send c r n) s = .next t ∧ t.me.wait = .send s.nextId ∧ SameMem s t
        ∧ t.msgs.find? s.nextId = some { src := s.cur, core := core, ch := chan, words := words }
        ∧ (s.inReset core = false → (s.chan core chan).length < 4 → (s.core core).recvq.getD chan [] = [] →
            (∀ i, i < 8 → ∀ q, (s.ctx (core * 8 + i)).wait ≠ .waitch q) →
            ∃ u, exec (.messageDelivery s.nextId) t = .next u ∧ u.chan core chan = s.chan core chan ++ [words]
              ∧ u.me.pc = s.me.pc + 4#64 ∧ u.me.wait = .none ∧ u.msgs.find? s.nextId = none))
    ∧ (∀ w ws, s.chan (coreOf s.cur) ch.toNat = w :: ws → (s.core (coreOf s.cur)).recvq.getD ch.toNat [] = [] →
      d.toNat + 3 < 32 →
      ∃ t, exec (.recv d ch) s = .next t ∧ t.chan (coreOf s.cur) ch.toNat = ws ∧ t.me.pc = s.me.pc + 4#64 ∧ SameMem s t
        ∧ ∀ i, i < 4 → d + BitVec.ofNat 5 i ≠ 0#5 → t.me.get (d + BitVec.ofNat 5 i) = w.getD i 0)
    ∧ (s.ready (coreOf s.cur) (s.me.get r) ≠ 0 →
      ∃ t, exec (.waitch d r) s = .next t ∧ Wrote d (s.ready (coreOf s.cur) (s.me.get r)) 1 s t)

/-- R138 to R141: GJOIN to a new group makes an entry with the thread as its one member; GLEAVE of a group whose last
member leaves frees the entry; GBAR of a group's only member passes the barrier at once. -/
def Obligations.Groups : Prop :=
  ∀ (s : State) (a : GReg), let isl := islandOf s.cur; let g := ((s.me.get a).extractLsb' 0 16).toNat
    (s.findSync isl (isGroup g) = none → (s.table isl).length < 64 →
      ∃ t, exec (.gjoin a) s = .next t ∧ t.table isl = s.table isl ++ [.group g (1#32 <<< (s.cur % 32)) 0]
        ∧ t.me.pc = s.me.pc + 4#64 ∧ (∀ r, t.me.get r = s.me.get r) ∧ SameMem s t)
    ∧ (∀ i, s.findSync isl (isGroup g) = some (.tab i, .group g (1#32 <<< (s.cur % 32)) 0) →
      (∃ t, exec (.gleave a) s = .next t ∧ t.table isl = (s.table isl).eraseIdx i ∧ t.me.pc = s.me.pc + 4#64 ∧ SameMem s t)
      ∧ (s.me.rn = none → s.me.bf = .none → s.me.stop = false → s.me.st = .runnable →
          ∃ t, exec (.gbar a) s = .next t ∧ t.me.pc = s.me.pc + 4#64 ∧ t.me.wait = .none ∧ t.me.bf = .none ∧ SameMem s t))

/-! ### Semaphores, slots, rings -/

/-- R290, R292, R315, R316: the semaphore instructions where no context waits: SEMACQ that fits takes its count, SEMREL adds with
saturation, SEMTRY takes and gives 1 or leaves the count and gives 0, SEMSET sets and SEMGET reads. DSWAIT completes with no
effect where every slot of its mask counts 0, and else waits. -/
def Obligations.SemaphoresAndSlots : Prop :=
  (∀ (s : State) (d n : GReg) (m : BitVec 6), let k := coreOf s.cur; let c := s.sem k m.toNat
    let v := (s.me.get n).setWidth 32
    (s.core k).semq.getD m.toNat [] = [] → s.me.stop = false → s.me.st = .runnable →
    (v.toNat ≤ c.toNat → ∃ t, exec (.semacq n m) s = .next t ∧ t.sem k m.toNat = c - v ∧ t.me.pc = s.me.pc + 4#64
        ∧ t.me.wait = .none ∧ SameMem s t)
    ∧ (∃ t, exec (.semrel n m) s = .next t ∧ t.me.pc = s.me.pc + 4#64 ∧ SameMem s t
        ∧ (t.sem k m.toNat).toNat = min (c.toNat + v.toNat) (2 ^ 32 - 1))
    ∧ (∃ t, exec (.semtry d n m) s = .next t ∧ t.me.pc = s.me.pc + 4#64 ∧ SameMem s t
        ∧ t.sem k m.toNat = (if v.toNat ≤ c.toNat then c - v else c)
        ∧ ∀ r, t.me.get r = regAfter s.me d (if v.toNat ≤ c.toNat then 1 else 0) r)
    ∧ (s.me.prv = true → ∃ t, exec (.semset n m) s = .next t ∧ t.sem k m.toNat = v ∧ t.me.pc = s.me.pc + 4#64 ∧ SameMem s t)
    ∧ (∃ t, exec (.semget d m) s = .next t ∧ Wrote d (c.setWidth 64) 1 s t))
  ∧ ∀ (s : State) (mask : BitVec 8),
    ((∀ i : BitVec 3, mask.getLsbD i.toNat = true → (s.me.getD i).count = 0) →
      ∃ t, exec (.dswait mask) s = .next t ∧ Passed 1 s t)
    ∧ ((∃ i : BitVec 3, mask.getLsbD i.toNat = true ∧ (s.me.getD i).count ≠ 0) →
      ∃ t, exec (.dswait mask) s = .next t ∧ Waits (.poll (.slots mask)) true s t)

/-- R317, R318: HSET on a ring in the own CLM that no command names sets the handle, with both counters 0; CBWF and CBWE
pass where so many slots are filled or free; CBAP and CBAC advance the counters. -/
def Obligations.RingInstructions : Prop :=
  ∀ (s : State) (h : VNum) (a b : GReg) (n : BitVec 11), let x := s.me.getH h
    let slot := ((s.me.get b).extractLsb' 0 16).toNat
    let cnt := ((s.me.get b).extractLsb' 16 12).toNat + 1
    let after (i : Instr) (y : Handle) : Prop :=
      ∃ t, exec i s = .next t ∧ Alone s t ∧ AtBoundary s.me t.me ∧ t.me.pc = s.me.pc + 4#64
        ∧ (∀ q, t.me.getH q = if q = h then y else s.me.getH q) ∧ (∀ r, t.me.get r = s.me.get r)
    ((s.me.get b).toNat < 2 ^ 28 → slot % 8 = 0 → 0 < slot → slot ≤ 32768 → (s.me.get a).toNat % 8 = 0 →
      s.cur < 2048 → clmBase (coreOf s.cur) ≤ (s.me.get a).toNat →
      (s.me.get a).toNat + cnt * slot ≤ clmBase (coreOf s.cur) + 0x10000 → s.ringNamed s.cur h = false →
      after (.hset h a b) { base := s.me.get a, slot := BitVec.ofNat 16 slot, count := BitVec.ofNat 13 cnt, p := 0, c := 0,
                            valid := true })
    ∧ (x.valid = true → n.toNat ≤ x.count.toNat → n.toNat ≤ (x.p - x.c).toNat → after (.cbwf h n) x)
    ∧ (x.valid = true → n.toNat ≤ x.count.toNat → n.toNat ≤ x.count.toNat - (x.p - x.c).toNat → after (.cbwe h n) x)
    ∧ (x.valid = true → (x.p - x.c).toNat + n.toNat ≤ x.count.toNat → after (.cbap h n) { x with p := x.p + n.setWidth 32 })
    ∧ (x.valid = true → n.toNat ≤ (x.p - x.c).toNat → after (.cbac h n) { x with c := x.c + n.setWidth 32 })

/-! ### Synchronising and atomic accesses -/

/-- R254, R256: on an ME word: LDF of a full word reads it, LDFE reads it and leaves it empty, STF writes it and leaves it
full. -/
def Obligations.SynchronisingAccesses : Prop :=
  ∀ (s : State) (d a b : GReg) (sc : BitVec 3) (pa : Nat), let ea := (s.me.get a).toNat
    MemInv s → (∃ m, s.home pa = .me m) → s.waitersOf (pa / 8) = [] →
    (s.isFull pa = true → Reaches ea 8 pa .read .read s →
      ∃ t, ThroughHome (.ldf d a sc) s t ∧ Done d (BitVec.ofNat 64 (s.readMem pa 8)) s t ∧ SameMem s t ∧ t.full = s.full)
    ∧ (s.isFull pa = true → Reaches ea 8 pa .read .readWrite s → s.accepts s.cur pa .write = true →
      ∃ t, ThroughHome (.ldfe d a sc) s t ∧ Done d (BitVec.ofNat 64 (s.readMem pa 8)) s t ∧ SameMem s t
        ∧ t.isFull pa = false ∧ ∀ w, w ≠ pa / 8 → t.full.contains w = s.full.contains w)
    ∧ (Reaches ea 8 pa .write .write s →
      ∃ t, ThroughHome (.stf a b sc) s t ∧ Done 0#5 0 s t ∧ SameMemBut pa 8 s t
        ∧ t.readMem pa 8 = (s.me.get b).toNat ∧ t.isFull pa = true)

/-- R260, R261, R266: with no watch slot set, an AMO of 64 or of 32 bits writes the new value to its word and gives the old one in gd,
sign-extended or, for MINN, MAXN and FADD, zero-extended; CAS writes where the word equals gd; no other byte changes; FENCE with every
command accepted completes. -/
def Obligations.Atomics : Prop :=
  ∀ (s : State) (d a b : GReg) (aq rl : Bool) (sc : BitVec 3) (pa : Nat), let ea := (s.me.get a).toNat
    let amo (i : Instr) (n : Nat) (old : Word) (new : Nat) : Prop :=
      ∃ t, ThroughHome i s t ∧ Done d old s t ∧ SameMemBut pa n s t ∧ t.readMem pa n = new
    let adds (i : Instr) (n : Nat) (old : Word) (x : Nat × Flags) : Prop :=
      ∃ t, ThroughHome i s t ∧ t.me.pc = s.me.pc + 4#64 ∧ (∀ r, t.me.get r = regAfter s.me d old r) ∧ SameMemBut pa n s t
        ∧ t.readMem pa n = x.1 ∧ t.me.fflags = s.me.fflags ||| x.2
    (MemInv s → s.dbg = [] → Reaches ea 8 pa .atomic .atomic s →
      let old := BitVec.ofNat 64 (s.readMem pa 8)
      let y := s.me.get b
      let wide (i : Instr) (new : Word) : Prop := amo i 8 old new.toNat
      wide (.amoAdd d a b aq rl sc true) (old + y) ∧ wide (.amoAnd d a b aq rl sc true) (old &&& y)
        ∧ wide (.amoOr d a b aq rl sc true) (old ||| y) ∧ wide (.amoXor d a b aq rl sc true) (old ^^^ y)
        ∧ wide (.amoMin d a b aq rl sc true) (if old.toInt ≤ y.toInt then old else y)
        ∧ wide (.amoMax d a b aq rl sc true) (if old.toInt ≤ y.toInt then y else old)
        ∧ wide (.amoMinn d a b aq rl sc true) (if old.toNat ≤ y.toNat then old else y)
        ∧ wide (.amoMaxn d a b aq rl sc true) (if old.toNat ≤ y.toNat then y else old)
        ∧ wide (.amoSwap d a b aq rl sc true) y
        ∧ wide (.amoSadd d a b aq rl sc true) (BitVec.ofInt 64 (max (-2 ^ 63) (min (2 ^ 63 - 1) (old.toInt + y.toInt))))
        ∧ wide (.cas d a b aq rl sc true) (if old = s.me.get d then y else old)
        ∧ adds (.amoFadd d a b aq rl sc true) 8 old ((amoNew 64 .f64 10 old y).1.toNat, (amoNew 64 .f64 10 old y).2))
    ∧ (MemInv s → s.dbg = [] → Reaches ea 4 pa .atomic .atomic s →
      let old := BitVec.ofNat 32 (s.readMem pa 4)
      let y := (s.me.get b).setWidth 32
      let signed (i : Instr) (new : BitVec 32) : Prop := amo i 4 (old.signExtend 64) new.toNat
      let plain (i : Instr) (new : BitVec 32) : Prop := amo i 4 (old.setWidth 64) new.toNat
      signed (.amoAdd d a b aq rl sc false) (old + y) ∧ signed (.amoAnd d a b aq rl sc false) (old &&& y)
        ∧ signed (.amoOr d a b aq rl sc false) (old ||| y) ∧ signed (.amoXor d a b aq rl sc false) (old ^^^ y)
        ∧ signed (.amoMin d a b aq rl sc false) (if old.toInt ≤ y.toInt then old else y)
        ∧ signed (.amoMax d a b aq rl sc false) (if old.toInt ≤ y.toInt then y else old)
        ∧ plain (.amoMinn d a b aq rl sc false) (if old.toNat ≤ y.toNat then old else y)
        ∧ plain (.amoMaxn d a b aq rl sc false) (if old.toNat ≤ y.toNat then y else old)
        ∧ signed (.amoSwap d a b aq rl sc false) y
        ∧ signed (.amoSadd d a b aq rl sc false) (BitVec.ofInt 32 (max (-2 ^ 31) (min (2 ^ 31 - 1) (old.toInt + y.toInt))))
        ∧ signed (.cas d a b aq rl sc false) (if old = (s.me.get d).setWidth 32 then (s.me.get b).setWidth 32 else old)
        ∧ adds (.amoFadd d a b aq rl sc false) 4 (old.setWidth 64)
            ((amoNew 32 .f32 10 old y).1.toNat, (amoNew 32 .f32 10 old y).2))
    ∧ (s.cmds.all (fun c => c.2.src ≠ some s.cur || c.2.accepted) = true →
        ∃ t, exec (.fence sc) s = .next t ∧ Wrote 0#5 0 1 (s.setMe { s.me with tlb := t.me.tlb }) t
          ∧ (3 ≤ sc.toNat → t.me.tlb = []) ∧ (sc.toNat < 3 → t.me.tlb = s.me.tlb))

/-- R263 to R265: LOCK of a free word writes the thread's word and completes; UNLOCK of a word that the thread holds writes
0, completes, and wakes the word in every island. -/
def Obligations.Locks : Prop :=
  ∀ (s : State) (a : GReg) (sc : BitVec 3) (pa : Nat), let ea := (s.me.get a).toNat
    MemInv s → s.dbg = [] → Reaches ea 8 pa .atomic .atomic s →
    (s.cur < 2048 → s.readMem pa 8 = 0 →
      ∃ t, ThroughHome (.lock a sc) s t ∧ Done 0#5 0 s t ∧ SameMemBut pa 8 s t
        ∧ t.readMem pa 8 = 2 ^ 63 + s.link.devid.toNat * 2 ^ 11 + s.cur)
    ∧ (s.cur < 2048 → s.readMem pa 8 = 2 ^ 63 + s.link.devid.toNat * 2 ^ 11 + s.cur →
      ∃ t, ThroughHome (.unlock a sc) s t ∧ Done 0#5 0 s t ∧ SameMemBut pa 8 s t ∧ t.readMem pa 8 = 0
        ∧ ∀ i, i < 64 → (i, pa) ∈ t.wakes)

/-! ### Context moves, WSTEP, scopes, launches and crystal regions -/

/-- R376 to R378: in privileged mode, on an area in the own CLM and a context of the core that is HALTED or FREE, CTXSAVE writes
the area from the context, and no other byte; CTXLOAD of an area without a reserved value gives the context what the area
holds, and changes no byte. -/
def Obligations.ContextMoves : Prop :=
  ∀ (s : State) (a : GReg) (x : BitVec 3), let ga := (s.me.get a).toNat
    let y := s.cur / 8 * 8 + x.toNat; let c := s.ctx y
    s.me.prv = true → y ≠ s.cur → ga % 64 = 0 → (c.st = .halted ∨ c.st = .free) →
    (MemInv s → OwnBlock ga 1536 .write s → c.slotsIdle = true → s.noProbe y = true →
      ∃ t, exec (.ctxsave a x) s = .next t ∧ t.me.pc = s.me.pc + 4#64 ∧ (∀ r, t.me.get r = s.me.get r)
        ∧ SameMemBut ga 1536 s t ∧ t.ctx y = { c with ran := false }
        ∧ (∀ i : GReg, i ≠ 0#5 → t.readMem (ga + 8 * i.toNat) 8 = (c.get i).toNat)
        ∧ (∀ i : VNum, t.readMem (ga + 256 + 40 * i.toNat) 36 = (c.getV i).lanes.toNat
            ∧ t.readMem (ga + 292 + 40 * i.toNat) 1 = (c.getV i).lm.toNat)
        ∧ t.readMem (ga + 1416) 8 = c.pc.toNat ∧ t.readMem (ga + 1424) 8 = c.status.toNat
        ∧ t.readMem (ga + 1432) 8 = c.pri.toNat ∧ t.readMem (ga + 1440) 8 = c.fpctl.toNat
        ∧ t.readMem (ga + 1448) 8 = c.fflags.toNat ∧ t.readMem (ga + 1456) 8 = c.tvec.toNat
        ∧ t.readMem (ga + 1464) 8 = c.epc.toNat ∧ t.readMem (ga + 1472) 8 = c.tcause.toNat
        ∧ t.readMem (ga + 1480) 8 = c.taddr.toNat
        ∧ t.readMem (ga + 1496) 8 = (if c.st = .free then 0 else if c.ran then 1 else 2))
    ∧ (OwnBlock ga 1536 .read s → areaOk ((List.range 1536).map (fun i => Memory.get s.mem (ga + i))) = true →
      ∃ t, exec (.ctxload a x) s = .next t ∧ t.me.pc = s.me.pc + 4#64 ∧ (∀ r, t.me.get r = s.me.get r) ∧ SameMem s t
        ∧ (∀ i : GReg, i ≠ 0#5 → (t.ctx y).get i = BitVec.ofNat 64 (s.readMem (ga + 8 * i.toNat) 8))
        ∧ (∀ i : VNum, (t.ctx y).getV i = { lanes := BitVec.ofNat 288 (s.readMem (ga + 256 + 40 * i.toNat) 36),
                                            lm := BitVec.ofNat 8 (s.readMem (ga + 292 + 40 * i.toNat) 1) })
        ∧ (t.ctx y).pc = BitVec.ofNat 64 (s.readMem (ga + 1416) 8) ∧ (t.ctx y).status = BitVec.ofNat 4 (s.readMem (ga + 1424) 8)
        ∧ (t.ctx y).pri = BitVec.ofNat 2 (s.readMem (ga + 1432) 8) ∧ (t.ctx y).fpctl = BitVec.ofNat 3 (s.readMem (ga + 1440) 8)
        ∧ (t.ctx y).fflags = BitVec.ofNat 5 (s.readMem (ga + 1448) 8) ∧ (t.ctx y).tvec = BitVec.ofNat 64 (s.readMem (ga + 1456) 8)
        ∧ (t.ctx y).epc = BitVec.ofNat 64 (s.readMem (ga + 1464) 8) ∧ (t.ctx y).tcause = BitVec.ofNat 64 (s.readMem (ga + 1472) 8)
        ∧ (t.ctx y).taddr = BitVec.ofNat 64 (s.readMem (ga + 1480) 8)
        ∧ (t.ctx y).st = (match s.readMem (ga + 1496) 1 with
            | 0 => .free
            | 1 => .runnable
            | _ => .halted)
        ∧ (t.ctx y).wait = .none ∧ (t.ctx y).held = none)

/-- R354 to R359: WSTEP on a record in the own CLM. The four instructions share one encoding, and the record's ACT byte says which
is meant. No record: result 5, nothing done. STEP: result 0 to 3, or a wait for what a source reads at a peer. RESUME of an element's record: result 4, VALID cleared,
the region runs. RESUME MASKED: the same, masked until the next cut. RESUME of a port's record: the stream goes on. END: the
residency ends. -/
def Obligations.WstepActions : Prop :=
  ∀ (s : State) (d a : GReg), let ga := (s.me.get a).toNat
    ga % 128 = 0 → OwnBlock ga 128 .read s → OwnBlock ga 128 .write s →
    let act := s.readMem (ga + 88) 1
    let gives (t : State) (n : Nat) : Prop :=
      t.me.pc = s.me.pc + 4#64 ∧ ∀ r, t.me.get r = regAfter s.me d (BitVec.ofNat 64 (n * 2 ^ 60)) r
    let runs (i : Instr) : Prop :=
      (s.wstepRec s.cur ga = none → ∃ t, exec i s = .next t ∧ gives t 5 ∧ SameMem s t ∧ t.res = s.res)
      ∧ ∀ rid r x, s.wstepRec s.cur ga = some (rid, r, x) → s.res.find? rid = some r → MemInv s →
        let recs := r.recs.filter (fun y => y.addr ≠ ga)
        (act = 0 → x.kind = 1 → r.hold = .fault →
          (∃ t w, exec i s = .next t ∧ t.me.pc = s.me.pc + 4#64 ∧ t.me.get d = (if d = 0#5 then 0 else w) ∧ (w >>> 60).toNat ≤ 3)
          ∨ (s.link.route ≠ [] ∧ ∃ t id, exec i s = .next t ∧ t.me.wait = .answer id .peek ∧ t.me.pc = s.me.pc))
        ∧ (act = 1 → x.kind = 1 → r.hold = .fault → ∃ t, exec i s = .next t ∧ gives t 4 ∧ SameMemBut (ga + 127) 1 s t
            ∧ t.readMem (ga + 127) 1 = 0 ∧ t.res.find? rid = some { r with hold := .running, recs := recs })
        ∧ (∀ st, act = 1 → x.kind = 2 → r.streams.find? x.stream = some st → st.frozen = true →
            ∃ t q st', exec i s = .next t ∧ gives t 4 ∧ SameMemBut (ga + 127) 1 s t ∧ t.readMem (ga + 127) 1 = 0
              ∧ t.res.find? rid = some q ∧ q.recs = recs ∧ q.hold = r.hold
              ∧ q.streams.find? x.stream = some st' ∧ st'.frozen = false ∧ st'.core = st.core)
        ∧ (act = 2 → x.kind = 1 → r.hold = .fault → ∃ t, exec i s = .next t ∧ gives t 4 ∧ SameMemBut (ga + 127) 1 s t
            ∧ t.readMem (ga + 127) 1 = 0
            ∧ t.res.find? rid = some { r with hold := .running, masked := some (r.cut + 1), recs := recs })
        ∧ (act = 3 → (x.kind = 1 ∧ r.hold = .fault) ∨ x.kind = 3 →
            ∃ t, exec i s = .next t ∧ t.me.get d = (if d = 0#5 then 0 else 0x4000000000000000#64) ∧ t.res.find? rid = none)
    runs (.wstepStep d a) ∧ runs (.wstepResume d a) ∧ runs (.wstepMasked d a) ∧ runs (.wstepEnd d a)

/-- R212 to R216: with the master distributor ready, SCOPEOPEN under a live open scope takes the lowest entry not in use and
gives its handle, and −3 or −1 where the parent is not so or no entry is left; SCOPECLOSE of a scope that still counts work
closes it, of one that counts none frees it with a new generation; SCOPEWAIT passes where the scope counts no residency;
SCOPEQRY reads count, CLOSED, ERR and DEAD. -/
def Obligations.Scopes : Prop :=
  ∀ (s : State) (d a : GReg), let h := (s.me.get a).toNat % 2 ^ 32
    s.mdReady = true → s.failover = false →
    let dead : Prop := s.liveScope h = none
    (∀ p i, s.liveScope h = some p → (s.scope p).closed = false → 1 ≤ i → i < 256 → (s.scope i).inUse = false →
      (∀ j, 1 ≤ j → j < i → (s.scope j).inUse = true) →
      ∃ t, exec (.scopeopen d a) s = .next t ∧ t.me.pc = s.me.pc + 4#64 ∧ SameMem s t
        ∧ (∀ r, t.me.get r = regAfter s.me d (BitVec.ofNat 64 ((s.scope i).gen * 256 + i)) r)
        ∧ t.scope i = { inUse := true, gen := (s.scope i).gen, parent := h, count := 0, kids := 0, closed := false, err := false }
        ∧ t.scope p = { s.scope p with kids := (s.scope p).kids + 1 } ∧ ∀ j, j ≠ i → j ≠ p → t.scope j = s.scope j)
    ∧ (dead → ∃ t, exec (.scopeopen d a) s = .next t ∧ Wrote d (-3) 1 s t)
    ∧ (∀ p, s.liveScope h = some p → (s.scope p).closed = true → ∃ t, exec (.scopeopen d a) s = .next t ∧ Wrote d (-3) 1 s t)
    ∧ (∀ p, s.liveScope h = some p → (s.scope p).closed = false → (∀ j, 1 ≤ j → j < 256 → (s.scope j).inUse = true) →
        ∃ t, exec (.scopeopen d a) s = .next t ∧ Wrote d (-1) 1 s t)
    ∧ (dead ∨ s.liveScope h = some 0 → ∃ t, exec (.scopeclose a) s = .next t ∧ Passed 1 s t)
    ∧ (∀ i, s.liveScope h = some i → i ≠ 0 → (s.scope i).count ≠ 0 ∨ (s.scope i).kids ≠ 0 →
        ∃ t, exec (.scopeclose a) s = .next t ∧ t.me.pc = s.me.pc + 4#64 ∧ t.scope i = { s.scope i with closed := true }
          ∧ ∀ j, j ≠ i → t.scope j = s.scope j)
    ∧ (∀ i, s.liveScope h = some i → i ≠ 0 → (s.scope i).count = 0 → (s.scope i).kids = 0 →
        ∃ t, exec (.scopeclose a) s = .next t ∧ t.me.pc = s.me.pc + 4#64 ∧ (t.scope i).inUse = false
          ∧ (t.scope i).gen = ((s.scope i).gen + 1) % 2 ^ 24)
    ∧ (dead ∨ (∃ i, s.liveScope h = some i ∧ (s.scope i).count = 0) → ∃ t, exec (.scopewait a) s = .next t ∧ Passed 1 s t)
    ∧ (∀ i, s.liveScope h = some i → (s.scope i).count ≠ 0 →
        ∃ t, exec (.scopewait a) s = .next t ∧ Waits (.poll (.scopeDone h)) true s t)
    ∧ (dead → ∃ t, exec (.scopeqry d a) s = .next t ∧ Wrote d (1#64 <<< 34) 1 s t)
    ∧ (∀ i, s.liveScope h = some i → ∃ t, exec (.scopeqry d a) s = .next t
        ∧ Wrote d (BitVec.ofNat 64 ((s.scope i).count + (if (s.scope i).closed then 2 ^ 32 else 0)
            + (if (s.scope i).err then 2 ^ 33 else 0))) 1 s t)

/-- R206 to R208, R213, R214: LAUNCH reads its record's 64 bytes. A record that breaks the table's rules gives −2, a scope that is not
live and open −3, a full table −1, and each changes nothing. Else the lowest free entry is made, READY where no predecessor is pending,
else WAITING with their number; each pending predecessor with a free link gets a link to it; its scope and every enclosing one count
one more; the result is its launch id. -/
def Obligations.Launches : Prop :=
  ∀ (s : State) (d a : GReg) (e : TlbEntry), let ga := (s.me.get a).toNat
    s.mdReady = true → s.failover = false → ga % 64 = 0 → Mapped e (dwordsOf ga 64) 8 .read s →
    let bs := (List.range 8).flatMap (fun i => bytesOf 8 (s.readMem (e.to ga + 8 * i) 8))
    let fails (v : Word) : Prop :=
      ∃ t, Through 8 (.launch d a) s t ∧ Done d v s t ∧ SameMem s t ∧ t.entries = s.entries ∧ t.scopes = s.scopes
    (launchRecord bs s.cur = none → fails (-2))
    ∧ (∀ q ps, launchRecord bs s.cur = some (q, ps) →
      (s.liveScope q.scope = none → fails (-3))
      ∧ ∀ i, s.liveScope q.scope = some i →
        ((s.scope i).closed = true → fails (-3))
        ∧ ((s.scope i).closed = false → s.freeEntry = none → fails (-1))
        ∧ (∀ j, (s.scope i).closed = false → s.freeEntry = some j → let need := ps.filterMap s.pendingEntry
          need.Nodup → (∀ p ∈ need, (s.entry p).succ.length < 8) →
          ∃ t, Through 8 (.launch d a) s t ∧ Done d (BitVec.ofNat 64 ((s.entry j).gen * 4096 + j)) s t ∧ SameMem s t
            ∧ t.entry j = { q with st := if need = [] then .ready else .waiting, gen := (s.entry j).gen, pcnt := need.length,
                                   rtime := if need = [] then t.gcyc else q.rtime }
            ∧ (∀ p ∈ need, t.entry p = { s.entry p with succ := (s.entry p).succ ++ [j] })
            ∧ (∀ x, x ≠ j → x ∉ need → t.entry x = s.entry x)
            ∧ ∀ path : List Nat, path.head? = some i → path.getLast? = some 0 → path.Nodup → path.length ≤ 256 →
                (∀ k, k + 1 < path.length → (s.scope (path.getD k 0)).parent % 256 = path.getD (k + 1) 0) →
                ∀ x, t.scope x = if x ∈ path then { s.scope x with count := (s.scope x).count + 1 } else s.scope x))

/-- R271, R273 to R275: a coordinate whose address is no multiple of 4, or that leaves the own CLM, traps once the descriptor has been
read. GLD of a usable region writes the level's values to the first F lanes of vd, ORs its flags into sy.fflags and changes no byte;
GSCAT makes one add for each feature of each corner, and where their words do not overlap each word holds the value that the add of
R125 gives; no other byte and no register changes. -/
def Obligations.CrystalAccesses : Prop :=
  ∀ (s : State) (v : VNum) (x r : GReg) (level : BitVec 4) (e : TlbEntry) (q : Region) (xs : List Num.FV) (f0 : Flags),
    let ga := (s.me.get r).toNat; let l := level.toNat
    let bs := (List.range 16).flatMap (fun i => bytesOf 8 (s.readMem (e.to ga + 8 * i) 8))
    let n := featureBytes q.ef
    let ks := q.corners l xs
    let as := q.touched l ks.1
    ga % 128 = 0 → Mapped e (dwordsOf ga 128) 8 .read s → regionOf bs = some q → l < q.l →
    let gx := s.me.get x
    (s.me.it = false → ∀ i ∈ [Instr.gld v x r level, .gscat v x r level],
      (gx.toNat % 4 ≠ 0 → ∃ t, Through 16 i s t ∧ TrappedAfar 2 gx s t)
      ∧ (gx.toNat % 4 = 0 → (gx.toNat < clmBase (coreOf s.cur) ∨ clmBase (coreOf s.cur) + 0x10000 < gx.toNat + 4 * q.d) →
          ∃ t, Through 16 i s t ∧ TrappedAfar 3 gx s t))
    ∧ (s.gridCoord s.cur q.d gx = .ok (xs, f0) →
    let value (f : Nat) : Num.FV × Flags :=
      levelValue q.ef (ks.1.map (fun k => Num.unpackFF (Num.packFF k.2)))
        (ks.1.map (fun k => s.readMem (e.to (q.wordAt l k.1 f)) n))
    (Mapped e as n .read s →
      ∃ t, Through (16 + as.length) (.gld v x r level) s t ∧ SameMem s t ∧ t.me.pc = s.me.pc + 4#64
        ∧ (∀ g, t.me.get g = s.me.get g) ∧ (∀ u, u ≠ v → t.me.getV u = s.me.getV u)
        ∧ (∀ i, i < 8 → (t.me.getV v).lm.getLsbD i = decide (i < q.f))
        ∧ (∀ i, i < 8 → (t.me.getV v).lane i = if i < q.f then Num.packFF (value i).1 else 0#36)
        ∧ t.me.fflags = s.me.fflags ||| (f0 ||| ks.2) ||| (List.range q.f).foldl (fun f i => f ||| (value i).2) 0#5)
    ∧ (let img := s.me.getV v
       let adds := (q.adds l ks.1 ((List.range q.f).map (fun j =>
         if img.lm.getLsbD j then some (Num.unpackFF (img.lane j)) else none))).1
       MemInv s → s.dbg = [] → Mapped e (adds.map (·.1)) n .atomic s →
       (q.ef ≠ 0 → ∀ p ∈ adds, ∃ m, s.home (e.to p.1) = .me m) →
       ∃ t, Through (16 + adds.length) (.gscat v x r level) s t ∧ t.me.pc = s.me.pc + 4#64
        ∧ (∀ g, t.me.get g = s.me.get g) ∧ (∀ u, t.me.getV u = s.me.getV u)
        ∧ (∀ b, (∀ p ∈ adds, b < e.to p.1 ∨ e.to p.1 + n ≤ b) → Memory.get t.mem b = Memory.get s.mem b)
        ∧ (adds.Pairwise (fun p p' => e.to p.1 + n ≤ e.to p'.1 ∨ e.to p'.1 + n ≤ e.to p.1) →
            ∀ p ∈ adds, t.readMem (e.to p.1) n = (rmwNew .mfadd q.ef .rne (s.readMem (e.to p.1) n) p.2).1 % 256 ^ n)))

/-! ### Stream commands -/

/-- R288, R290: ISSUE of each command, with no substitution, to the dispatcher that R289 gives it. -/
def Obligations.CommandsIssue : Prop :=
  ∀ (s : State) (h : CmdHdr) (x y : BitVec 46) (sel : BitVec 3) (v52 : BitVec 52) (lid v : BitVec 32) (wp sx sy sem isl : BitVec 6)
    (j : BitVec 9) (mask : BitVec 16) (tile : BitVec 4) (base : BitVec 11) (size pan : BitVec 12) (st : BitVec 2)
    (dev : BitVec 10) (rem zero : Bool) (core : BitVec 8) (tm : BitVec 64) (vd : VNum) (da db : BitVec 45),
    hdrOk h = true →
    let at0 := CmdAt.issue 0#5 0#5 0#5; let go := CmdAt.start s.nextId
    let eng := Disp.engine (islandOf s.cur); let port := s.portDispatcher lid.toNat wp.toNat
    let reg := s.regionDispatcher lid.toNat
    let me := Disp.me (isl.toNat * 384 + j.toNat)
    let pc (mask : BitVec 32) (i : CmdAt → Instr) : Prop := v &&& ~~~mask = 0 → Issued (i at0) h (i go) .md s
    Issued (.patset at0 h x sel v52) h (.patset go h x sel v52) eng s
    ∧ Issued (.gather at0 h x) h (.gather go h x) eng s ∧ Issued (.scatter at0 h x) h (.scatter go h x) eng s
    ∧ Issued (.copy at0 h x) h (.copy go h x) eng s ∧ Issued (.rcopy at0 h x) h (.rcopy go h x) eng s
    ∧ Issued (.fetchw at0 h x pan) h (.fetchw go h x pan) eng s
    ∧ Issued (.griddef at0 h da db zero) h (.griddef go h da db zero) eng s
    ∧ (rem = true ∨ dev = 0 → Issued (.signal at0 h dev rem core sem v) h (.signal go h dev rem core sem v) eng s)
    ∧ Issued (.bindld at0 h lid wp x) h (.bindld go h lid wp x) port s
    ∧ Issued (.bindst at0 h lid wp y) h (.bindst go h lid wp y) port s
    ∧ Issued (.unbind at0 h lid wp) h (.unbind go h lid wp) port s
    ∧ (j.toNat < 384 → Issued (.barrier at0 h isl j mask) h (.barrier go h isl j mask) me s
        ∧ Issued (.tileset at0 h isl j tile st) h (.tileset go h isl j tile st) me s
        ∧ (1 ≤ size.toNat → size.toNat ≤ 2048 →
            Issued (.tiledef at0 h isl j tile base size) h (.tiledef go h isl j tile base size) me s))
    ∧ Issued (.cfgload at0 h lid x) h (.cfgload go h lid x) reg s ∧ Issued (.cfgsw at0 h lid tm) h (.cfgsw go h lid tm) reg s
    ∧ Issued (.mark at0 h lid) h (.mark go h lid) reg s
    ∧ Issued (.probe at0 h lid sx sy vd) h (.probe go h lid sx sy vd) reg s
    ∧ Issued (.pandef at0 h pan da) h (.pandef go h pan da) .md s ∧ Issued (.pandrain at0 h pan) h (.pandrain go h pan) .md s
    ∧ pc 0xFFF#32 (fun a => .panctlSetf a h pan v) ∧ pc 0xFFFFFF#32 (fun a => .panctlSeta a h pan v)
    ∧ pc 3#32 (fun a => .panctlSetpri a h pan v) ∧ pc 0xC03FFFFF#32 (fun a => .panctlSetfb a h pan v)
    ∧ pc 0#32 (fun a => .panctlResume a h pan v) ∧ pc 0xF#32 (fun a => .panctlClear a h pan v)
    ∧ pc 3#32 (fun a => .panctlWindow a h pan v) ∧ pc 0#32 (fun a => .panctlEvict a h pan v)
    ∧ pc 0#32 (fun a => .panctlFree a h pan v)

/-- R33, R34, R287, R288: a substitution register that fits its field replaces it; one that does not fit, one named for a field
that the command lacks, and a slot that its own WAIT names, each take an illegal-instruction trap; a full slot makes ISSUE
wait, with nothing done. -/
def Obligations.IssueChecks : Prop :=
  ∀ (s : State) (h : CmdHdr) (g : GReg) (x : BitVec 46) (l : BitVec 32) (isl : BitVec 6) (j : BitVec 9) (mask : BitVec 16),
    let bad (i : Instr) : Prop :=
      s.me.it = false → ∃ t, exec i s = .next t ∧ Trapped 1 (BitVec.ofNat 64 (s.readMem s.me.pc.toNat 4)) s.me.pc s t
    let v := s.me.get g
    (hdrOk h = true → g ≠ 0#5 → v.toNat < 2 ^ 32 →
      Issued (.mark (.issue g 0#5 0#5) h l) h (.mark (.start s.nextId) h (v.setWidth 32)) (s.regionDispatcher v.toNat) s)
    ∧ (hdrOk h = true → g ≠ 0#5 → v.toNat < 2 ^ 32 →
      Issued (.cfgload (.issue 0#5 g 0#5) h l x) h (.cfgload (.start s.nextId) h (v.setWidth 32) x) (s.regionDispatcher v.toNat) s)
    ∧ (g ≠ 0#5 → 2 ^ 32 ≤ v.toNat → bad (.mark (.issue g 0#5 0#5) h l))
    ∧ (g ≠ 0#5 → bad (.mark (.issue 0#5 g 0#5) h l) ∧ bad (.copy (.issue 0#5 0#5 g) h x)
        ∧ bad (.barrier (.issue g 0#5 0#5) h isl j mask))
    ∧ (384 ≤ j.toNat → bad (.barrier (.issue 0#5 0#5 0#5) h isl j mask))
    ∧ (h.seten = true → h.wait.getLsbD h.setslot.toNat = true → bad (.mark (.issue 0#5 0#5 0#5) h l))
    ∧ (hdrOk h = true → h.seten = true → (s.me.getD h.setslot).count = 63 →
        ∃ t, exec (.mark (.issue 0#5 0#5 0#5) h l) s = .next t ∧ Waits (.poll (.slotRoom h.setslot.toNat)) false s t)

/-- R305 to R307, R322 to R327, R329, R336: what the commands of memory elements, SIGNAL on the own package and the commands of the
master distributor do when they start; PANDRAIN fires the pan at once where it can, and completes once the batch is posted; PANCTL of
a pan that is not defined, or, WINDOW apart, by a thread that does not own it, fails. `ends e` says that the command is done, in error
where `e`. -/
def Obligations.CommandStarts : Prop :=
  ∀ (s : State) (id : Nat) (c : Cmd) (h : CmdHdr), s.cmds.find? id = some c → s.mayStart id = true →
    let go := CmdAt.start id
    let ends (e : Bool) (t : State) : Prop := t.cmds.find? id = some { c with job := .done, err := c.err || e }
    let does (i : Instr) (p : State → Prop) : Prop := ∃ t, exec i s = .next t ∧ SameMem s t ∧ p t
    (∀ (isl : BitVec 6) (j : BitVec 9) (mask : BitVec 16) (tile : BitVec 4) (base : BitVec 11) (size : BitVec 12) (st : BitVec 2),
      let me := isl.toNat * 384 + j.toNat
      s.islandReady isl.toNat = true →
      (s.tileUsed me mask = false → does (.barrier go h isl j mask) (fun t => ends false t ∧ t.tiles = s.tiles))
      ∧ (s.meTaken me = false → base.toNat + size.toNat ≤ 2048 → (s.tile me tile.toNat).defd = false ∨ (s.tile me tile.toNat).st = 0 →
          does (.tiledef go h isl j tile base size) (fun t => ends false t
            ∧ t.tile me tile.toNat = { defd := true, st := 0, base := base, size := size }
            ∧ ∀ m k, 16 * m + k ≠ 16 * me + tile.toNat → t.tile m k = s.tile m k))
      ∧ (2048 < base.toNat + size.toNat → does (.tiledef go h isl j tile base size) (fun t => ends true t ∧ t.tiles = s.tiles))
      ∧ (s.meTaken me = false → (s.tile me tile.toNat).defd = true → does (.tileset go h isl j tile st) (fun t => ends false t
            ∧ t.tile me tile.toNat = { s.tile me tile.toNat with st := st }))
      ∧ ((s.tile me tile.toNat).defd = false → does (.tileset go h isl j tile st) (fun t => ends true t ∧ t.tiles = s.tiles)))
    ∧ (∀ (core : BitVec 8) (sem : BitVec 6) (n : BitVec 32), s.inReset core.toNat = false →
        (s.core core.toNat).semq.getD sem.toNat [] = [] →
        does (.signal go h 0#10 false core sem n) (fun t => ends false t
          ∧ (t.sem core.toNat sem.toNat).toNat = min ((s.sem core.toNat sem.toNat).toNat + n.toNat) (2 ^ 32 - 1)))
    ∧ (∀ (pan : BitVec 12) (daddr : BitVec 45), let n := pan.toNat
        (∀ bs p, s.pans.find? n = none → s.fetch mdMaster (daddr.toNat * 128) 128 = some bs → s.panOf bs (c.src.getD 0) = some p →
          does (.pandef go h pan daddr) (fun t => ends false t ∧ t.pans.find? n = some p))
        ∧ (∀ p, s.pans.find? n = some p →
          does (.pandef go h pan daddr) (fun t => ends true t ∧ t.pans = s.pans)
          ∧ (p.count = 0 → does (.pandrain go h pan) (fun t => ends false t ∧ t.pans = s.pans))
          ∧ (p.count ≠ 0 → let w := s.setCmd id (fun c => { c with job := .unit })
              (w.panNext ≠ some n →
                does (.pandrain go h pan) (fun t => t.cmds.find? id = some { c with job := .unit } ∧ t.pans = s.pans))
              ∧ (w.panNext = some n → ∃ t, exec (.pandrain go h pan) s = .next t)
              ∧ (∀ b bs e i j, w.panNext = some n → w.draining n = some id → (∀ x ∈ s.cmds, x.2.job ≠ .drain b) → p.present = true →
                (s.traceCore 0).mode = 0 → p.bufs.findIdx? (· = .free) = some b → s.fetch mdMaster p.tmpl 64 = some bs →
                launchRecord bs p.owner = some (e, []) → s.liveScope e.scope = some i → (s.scope i).closed = false →
                s.freeEntry = some j →
                does (.pandrain go h pan) (fun t => ends false t ∧ (t.entry j).st = .waiting ∧ (t.entry j).owner = p.owner
                  ∧ ∃ y, t.pans.find? n = some y ∧ y.bufs[b]? = some (.writing (s.lidOf j) (min p.count p.f))))))
        ∧ (s.pans.find? n = none → does (.pandrain go h pan) (ends true)))
    ∧ (∀ (pan : BitVec 12) (v : BitVec 32), let n := pan.toNat
        let fails (i : Instr) : Prop := does i (fun t => ends true t ∧ t.pans = s.pans ∧ t.cores = s.cores)
        (s.pans.find? n = none ∨ (∃ p, s.pans.find? n = some p ∧ c.src ≠ some p.owner) →
          fails (.panctlSetf go h pan v) ∧ fails (.panctlSeta go h pan v) ∧ fails (.panctlSetpri go h pan v)
            ∧ fails (.panctlSetfb go h pan v) ∧ fails (.panctlResume go h pan v) ∧ fails (.panctlClear go h pan v)
            ∧ fails (.panctlEvict go h pan v) ∧ fails (.panctlFree go h pan v))
        ∧ (s.pans.find? n = none → fails (.panctlWindow go h pan v))
        ∧ (∀ p x, s.pans.find? n = some p → c.src = some x →
          does (.panctlWindow go h pan v) (fun t => ends false t ∧ (t.core (coreOf x)).window = some (n, v.toNat % 4))))
    ∧ (∀ (pan : BitVec 12) (v : BitVec 32) (p : Pan), s.pans.find? pan.toNat = some p → c.src = some p.owner →
        let n := pan.toNat
        let f := v.toNat % 4096 + 1
        let becomes (i : Instr) (q : Pan → Pan) : Prop :=
          does i (fun t => ends false t ∧ ∃ y, t.pans.find? n = some y ∧ y = { q p with readyAt := y.readyAt })
        let fails (i : Instr) : Prop := does i (fun t => ends true t ∧ t.pans = s.pans)
        (f ≤ p.rcnt → f ≤ p.bcap → becomes (.panctlSetf go h pan v) (fun p => { p with f := f }))
        ∧ (p.rcnt < f ∨ p.bcap < f → fails (.panctlSetf go h pan v))
        ∧ becomes (.panctlSeta go h pan v) (fun p => { p with age := v.toNat % 2 ^ 24 })
        ∧ becomes (.panctlSetpri go h pan v) (fun p => { p with pri := v.toNat % 4 })
        ∧ (v.toNat / 2 ^ 30 = 0 → becomes (.panctlSetfb go h pan v) (fun p => { p with fbk := 0 }))
        ∧ (v.toNat / 2 ^ 30 = 1 → becomes (.panctlSetfb go h pan v)
            (fun p => { p with fbk := 1, fbdev := v.toNat / 4096 % 1024, fbpan := v.toNat % 4096 }))
        ∧ (v.toNat / 2 ^ 30 = 2 → p.fbtmpl ≠ 0 → becomes (.panctlSetfb go h pan v) (fun p => { p with fbk := 2 }))
        ∧ (v.toNat / 2 ^ 30 = 3 ∨ (v.toNat / 2 ^ 30 = 2 ∧ p.fbtmpl = 0) → fails (.panctlSetfb go h pan v))
        ∧ (p.held = none ∨ p.held = some .spill → p.also = [] → s.refused.all (fun r => r.2 ≠ n) = true →
            becomes (.panctlResume go h pan v) (fun p => { p with held := none }))
        ∧ becomes (.panctlClear go h pan v) (fun p =>
            { p with c0 := if v.getLsbD 0 then 0 else p.c0, thr := if v.getLsbD 1 then 0 else p.thr,
                     tim := if v.getLsbD 1 then 0 else p.tim, c2 := if v.getLsbD 2 then 0 else p.c2,
                     c3 := if v.getLsbD 3 then 0 else p.c3 })
        ∧ (p.wxfer ≠ 0 → becomes (.panctlEvict go h pan v) (fun p => { p with present := false }))
        ∧ (p.wxfer = 0 → fails (.panctlEvict go h pan v))
        ∧ does (.panctlFree go h pan v) (fun t => t.cmds.find? id = some { c with job := .unit } ∧ t.pans = s.pans))

/-- R294 to R298, R301, R312, R299, R300, R308 to R311: what engine commands, bindings and the commands of a region do when they
start, on records that the spec allows and a residency that is placed. That MARK waits for the cut after the last that a marker has
been sent for, top + 1, is the model's reading (DEDUCED: log 38). -/
def Obligations.StreamCommandStarts : Prop :=
  ∀ (s : State) (id : Nat) (c : Cmd) (h : CmdHdr), s.cmds.find? id = some c → s.mayStart id = true →
    let go := CmdAt.start id
    let ends (e : Bool) (t : State) : Prop := t.cmds.find? id = some { c with job := .done, err := c.err || e }
    let job (j : Job) (t : State) : Prop := ∃ d, t.cmds.find? id = some d ∧ d.job = j
    let does (i : Instr) (p : State → Prop) : Prop := ∃ t, exec i s = .next t ∧ SameMem s t ∧ t.ctxs = s.ctxs ∧ p t
    (∀ (r : BitVec 46) (v : BitVec 52) (i : BitVec 3), let a := r.toNat * 64
      does (.patset go h r 5#3 v) (job (.write { zeros := 0, unit := 8, todo := [], later := [[(a, v.toNat)]] }))
      ∧ does (.patset go h r 6#3 v) (job (.write { zeros := 0, unit := 8, todo := [], later := [[(a + 56, v.toNat)]] }))
      ∧ does (.patset go h r 7#3 v) (job (.write { zeros := 0, unit := 8, todo := [], later := [[(a + 8, v.toNat % 2 ^ 24)]] }))
      ∧ (i.toNat < 5 → does (.patset go h r i v) (job (.write
          { zeros := 0, unit := 8, todo := [],
            later := [[(a + (16 + 8 * i.toNat), v.toNat / 2 ^ 28 + ((v.setWidth 28).signExtend 32).toNat * 2 ^ 32)]] }))))
    ∧ (∀ (x : BitVec 46) (pan : BitVec 12) (bs : List Byte) (rec' : Transfer) (m : Move),
        s.fetchWith c.got c.master (x.toNat * 64) 64 = some bs → rec'.via = 0 → s.moveTiles m = some [] → m.n ≠ 0 →
        let moves (k : MoveKind) (indexed remote : Bool) (i : Instr) : Prop :=
          transferOf indexed remote bs = some rec' →
          s.askRecords c.master id c.got (s.moveRecords c k (x.toNat * 64)) = none → s.planMove c k rec' = some m →
          does i (job (.move m))
        moves .copy false false (.copy go h x) ∧ moves .gather true false (.gather go h x)
          ∧ moves .scatter true false (.scatter go h x) ∧ moves .rcopy false true (.rcopy go h x)
          ∧ moves .fetchw false false (.fetchw go h x pan))
    ∧ (∀ (x : BitVec 46) (pan : BitVec 12), s.fetchWith c.got c.master (x.toNat * 64) 64 = none →
        s.askRecords c.master id c.got [(x.toNat * 64, 64)] = none →
        does (.copy go h x) (ends true) ∧ does (.fetchw go h x pan) (ends true))
    ∧ (∀ (da sa : BitVec 45) (zero : Bool) (bs : List Byte) (g : Region),
        s.fetchWith c.got c.master (sa.toNat * 128) 128 = some bs → regionOf bs = some g →
        s.askRecords c.master id c.got [(sa.toNat * 128, 128)] = none →
        does (.griddef go h da sa zero) (fun t => ∃ w, job (.write w) t ∧ w.zeros = g.base ∧ (w.todo = [] ↔ zero = false)
          ∧ w.later.getLast? = some [(da.toNat * 128, fieldAt bs 0 8)]))
    ∧ (∀ (l : BitVec 32) (wp : BitVec 6) (pa : BitVec 46) (r : Residency) (u : Nat) (v : AgView) (p : Pattern),
        s.target l.toNat = .here r → s.res.find? l.toNat = some r → r.lid = l.toNat → r.agAt wp.toNat = some u → r.ag u = some v →
        (∃ st, r.streams.find? u = some st) →
        s.portFree r u v = true → c.exact = none → s.listFirst l.toNat wp.toNat r = false → s.bindingOf c.got c.master r u v (pa.toNat * 64) = .ok (.pattern p) →
        s.askRecords c.master id c.got (s.bindingRecords c (pa.toNat * 64)) = none →
        let bound (t : State) : Prop := job .bound t ∧ ∃ q st, t.res.find? l.toNat = some q ∧ q.streams.find? u = some st
          ∧ st.core.bound = some (.pattern p) ∧ st.core.bursts = 0 ∧ st.cmd = some id
        (p.tile = none →
          (v.p.out = false → does (.bindld go h l wp pa) bound) ∧ (v.p.out = true → does (.bindst go h l wp pa) bound))
        ∧ (∀ tile drn me, p.tileNo = some (tile, drn) → s.barred me tile = false →
          s.tileMe (v.bytePattern p) v.size tile (if v.p.out then .write else .read) = some me →
          (v.p.out = false → (s.tile me tile).st = 2#2 →
            does (.bindld go h l wp pa) (fun t => bound t ∧ (t.tile me tile).st = if drn then 3#2 else 2#2))
          ∧ (v.p.out = true → (s.tile me tile).st = 0#2 →
            does (.bindst go h l wp pa) (fun t => bound t ∧ (t.tile me tile).st = 1#2)))
        ∧ (v.p.out = false → does (.bindst go h l wp pa) (ends true))
        ∧ (v.p.out = true → does (.bindld go h l wp pa) (ends true)))
    ∧ (∀ (l : BitVec 32) (wp : BitVec 6), s.target l.toNat = .gone → does (.unbind go h l wp) (ends false))
    ∧ (∀ (l : BitVec 32) (ia : BitVec 46) (tm : BitVec 64) (x y : BitVec 6) (vd : VNum) (r : Residency),
        s.target l.toNat = .here r → s.res.find? l.toNat = some r →
        let res (f : Residency → Residency) (t : State) : Prop := t.res.find? l.toNat = some (f r)
        (∀ im p, r.switch = none → s.switchBefore id l.toNat = false → s.readImage (ia.toNat * 64) = .ok im →
          im.shape = r.plan.img.shape → checkImage im r.ox r.oy = .ok p →
          does (.cfgload go h l ia) (fun t => ends false t ∧ res (fun r => { r with shadow := some p }) t))
        ∧ (∀ p, r.shadow = some p → does (.cfgsw go h l tm) (fun t => job .unit t
            ∧ res (fun r => { r with shadow := none, switch := some { t := tm, plan := p, fired := false, cmd := id } }) t))
        ∧ (r.shadow = none → does (.cfgsw go h l tm) (ends true))
        ∧ does (.mark go h l) (job (.mark (r.top + 1)))
        ∧ (∀ u, r.probed x.toNat y.toNat = some u → does (.probe go h l x y vd) (job (.probe l.toNat u)))
        ∧ (r.probed x.toNat y.toNat = none → does (.probe go h l x y vd) (ends true)))
    ∧ ∀ (l : BitVec 32) (ia : BitVec 46) (tm : BitVec 64) (x y wp : BitVec 6) (vd : VNum), s.target l.toNat = .gone →
        does (.cfgload go h l ia) (ends true) ∧ does (.cfgsw go h l tm) (ends true) ∧ does (.mark go h l) (ends true)
          ∧ does (.probe go h l x y vd) (ends true) ∧ does (.bindld go h l wp ia) (ends true) ∧ does (.bindst go h l wp ia) (ends true)

/-! ### The fabric -/

/-- R95, R98, R101, R114 to R116, R122 to R127, R152, R154: a firing that saves no cut, by kind of operation; CNT's may save one. A
lane operation appends its result with the largest END of the tokens consumed; an enabled flag stops the region with nothing
fired; an accumulator folds the token in, emits and resets at its EMIT level (R115), and at a probe's token returns its state
to the probe's issuer and resets (R116); CNT emits the token of its position; KMERGE takes the token that R123 names and closes
and reopens its sides; LUT reads a READY tile; a read-modify-write updates one word per active lane, in ascending lane order,
and gives the old values (R125, R126); PANQ sends an entry on its way. -/
def Obligations.ElementFirings : Prop :=
  ∀ (s : State) (rid u : Nat) (r : Residency) (x : UnitSt) (e : ElemRec) (o : LOp) (w : LaneW),
    (MayFire s rid u r x e o w →
    let ports := firingReads o w e x.core
    let heads := ports.filterMap x.head
    let opd (pos : Nat) (sel : BitVec 3) : Opd := operand o w pos sel x.reg x.core.st
    let mode := elemMode w
    let put (t : Token) : List ChWord := if (r.outs u false).isEmpty then [] else [.tok t]
    let out (v : VReg) : List ChWord := put { v := v, rank := endOf heads, cut := false, prb := heads.any (·.prb) }
    let fires (p : State → UnitSt → Prop) : Prop :=
      ∃ t y, exec (o.instr (.fire rid u) w) s = .next t ∧ FiredOnce rid u ports x y t ∧ p t y
    (o.isAcc = false → o.isRmw = false → o ≠ .lut → o ≠ .panq →
      let res := laneOp o w mode (opd 0 w.asel) (opd 1 w.bsel) (opd 2 w.csel) VReg.zeros VReg.zeros
      (trapped w res.2 = 0#5 ∨ r.masked.isSome = true →
        fires (fun t y => SameMem s t ∧ y.core.out = x.core.out ++ out res.1 ∧ y.core.st = res.1
          ∧ y.core.sticky = x.core.sticky ||| res.2))
      ∧ (trapped w res.2 ≠ 0#5 → r.masked = none → ∃ t q, exec (o.instr (.fire rid u) w) s = .next t ∧ SameMem s t
          ∧ t.res.find? rid = some q ∧ q.broken.isSome = true ∧ q.units = r.units ∧ q.branches = r.branches))
    ∧ (o.isAcc = true → w.asel = 1#3 → x.core.fresh = false → ∀ a, x.head 0 = some a →
      let act := (opd 0 w.asel).act
      let res := accumulate o mode act x.core.acc (opd 0 w.asel).v
      let acc : VReg := { res.1 with lm := x.core.acc.lm ||| (if o = .accd then pairMask act else act) }
      let k := w.emit.toNat
      let emits : Prop := k ≠ 0 ∧ (if k = 7 then a.rank = 7 else k ≤ a.rank)
      let sum : Token := { v := acc, rank := if a.rank = 7 then 7 else a.rank - k, cut := false, prb := false }
      trapped w res.2 = 0#5 →
        (emits → fires (fun t y => SameMem s t ∧ y.core.fresh = true ∧ y.core.acc = accReset o w
          ∧ y.core.out = x.core.out ++ put sum))
        ∧ (a.prb = true → ¬emits → fires (fun t y => SameMem s t ∧ y.core.fresh = true ∧ y.core.acc = accReset o w
          ∧ y.core.out = x.core.out))
        ∧ (a.prb = true → ∀ id c thr go h l px py vd, List.find? (fun c => c.2.job = .probe rid u) s.cmds = some (id, c) →
          c.src = some thr → c.instr = .probe go h l px py vd →
            fires (fun t _ => (t.cmds.find? id).map (·.job) = some .done ∧ (t.ctx thr).getV vd = acc))
        ∧ (a.prb = false → ¬emits → fires (fun t y => SameMem s t ∧ y.core.fresh = false ∧ y.core.acc = acc ∧ y.core.out = x.core.out)))
    ∧ (o = .lut → ∀ me tile, me = r.meAt e.x e.y → tile = s.tile me (w.param.toNat % 16) → tile.defd = true → tile.st = 2#2 →
      let idx (i : Nat) : Nat := (((opd 0 w.asel).v.lane i).setWidth 32).toNat
      let pa (i : Nat) : Nat := meBase me + tile.base.toNat * 64 + 8 * idx i
      fires (fun t y => SameMem s t ∧ ∃ v, y.core.out = x.core.out ++ out v
        ∧ ∀ i, i < 8 → (opd 0 w.asel).act.getLsbD i = true →
          (tile.size.toNat * 8 ≤ idx i → v.lm.getLsbD i = false)
          ∧ (idx i < tile.size.toNat * 8 → v.lm.getLsbD i = true ∧
              (s.isBad (pa i) 8 = false → s.accepts (resMaster rid) (pa i) .read = true →
                v.lane i = BitVec.ofNat 36 (s.readMem (pa i) 8)))))
    ∧ (o.isRmw = true → MemInv s →
      let n := rmwBytes o w.fmt.toNat
      let act := (opd 0 w.asel).act &&& (opd 1 w.bsel).act
      let lanes := (List.range 8).filter act.getLsbD
      let off (i : Nat) : Nat := ((opd 0 w.asel).v.lane i).toNat
      let pa (i : Nat) : Nat := meBase (r.meAt e.x e.y) + off i
      let mem (ls : List Nat) : List Host.Cell := updated o w pa (opd 1 w.bsel).v ls s.mem
      let old (i : Nat) : Nat × Lane × Flags :=
        rmwNew o w.fmt.toNat mode (Memory.read (mem (lanes.filter (· < i))) (pa i) n) ((opd 1 w.bsel).v.lane i)
      rmwFull x (opd 0 w.asel).act = false → r.draining x = false →
      (∀ i ∈ lanes, off i < 2 ^ 17 ∧ off i % n = 0 ∧ s.isBad (pa i) n = false ∧ s.accepts (resMaster rid) (pa i) .atomic = true
        ∧ trapped w (old i).2.2 = 0#5) →
      ∃ t y, Times (o.instr (.fire rid u) w) (max 1 lanes.length) s t ∧ FiredOnce rid u ports x y t
        ∧ (∀ a, Memory.get t.mem a = Memory.get (mem lanes) a)
        ∧ ∃ v, y.core.out = x.core.out ++ out v ∧ v.lm = act ∧ ∀ i ∈ lanes, v.lane i = (old i).2.1)
    ∧ (o = .panq → ∀ a, x.head 0 = some a → 0 ∈ ports → a.v.lm.getLsbD 0 = true → a.v.lm.getLsbD 4 = false →
      (s.pans.find? ((a.v.lane 0).setWidth 32).toNat).isSome = true → ((a.v.lane 0).setWidth 32).toNat < 4096 →
      s.flights.any (fun f => f.2.rid = rid && f.2.unit = u) = false →
      fires (fun t y => SameMem s t ∧ y.core.out = x.core.out
        ∧ t.flights.find? s.nextId = some
            { pan := ((a.v.lane 0).setWidth 32).toNat, rid := rid, unit := u,
              word := (0#20 ++ a.v.lane 3 ++ (a.v.lane 2).setWidth 8 ++ (a.v.lane 1).setWidth 32 : BitVec 96) })))
    ∧ (Ready s rid u r x e o w → o = .cnt →
      let k := if x.core.pass then x.core.cnt else 0
      let ext := cntExtents w
      let last : Prop := k + 1 = prod ext
      (x.core.pass = true ∨ (x.core.begun < r.gosFor u ∧ r.top ≤ x.core.cut)) → r.ending = false → k < prod ext →
      r.sourceMay x (cntAt w k).rank = true → Uncut x [] →
      ∃ t y d, exec (o.instr (.fire rid u) w) s = .next t ∧ SameMem s t ∧ FiredOnce rid u [] x y t
        ∧ y.core.out = x.core.out ++ (if (r.outs u false).isEmpty then [] else [.tok d])
        ∧ (∀ i, i < ext.length → d.v.lane i = ofI32 (BitVec.ofNat 32 (k / prod (ext.take i) % ext.getD i 1)))
        ∧ (∀ i, i < 8 → d.v.lm.getLsbD i = decide (i < ext.length)) ∧ (∀ i, ext.length ≤ i → i < 8 → d.v.lane i = 0#36)
        ∧ (last → w.emit = 1#3 → d.rank = 7)
        ∧ (¬(last ∧ w.emit = 1#3) → d.rank ≤ ext.length ∧ ∀ i, i ≤ ext.length → (i ≤ d.rank ↔ (k + 1) % prod (ext.take i) = 0))
        ∧ d.cut = r.cutDue x d.rank ∧ d.prb = false
        ∧ (last → y.core.pass = false) ∧ (¬last → y.core.pass = true ∧ y.core.cnt = k + 1))
    ∧ (Ready s rid u r x e o w → o = .kmerge → ∀ pa pb, inputSels o w = [(0, pa), (1, pb)] →
      let put (t : Token) : List ChWord := if (r.outs u false).isEmpty then [] else [.tok t]
      let key (t : Token) : BitVec 32 := (t.v.lane 0).setWidth 32
      let before (p q : Token) : Prop := if w.fmt = 3#4 then (key p).toNat < (key q).toNat else (key p).toInt < (key q).toInt
      let takes (a : Bool) : Prop := ∀ h, x.head (if a then pa else pb) = some h → Uncut x [if a then pa else pb] →
        let other := if a then x.core.openB else x.core.openA
        let ends' := if a then x.core.endB else x.core.endA
        ∃ t y, exec (o.instr (.fire rid u) w) s = .next t ∧ SameMem s t ∧ FiredOnce rid u [if a then pa else pb] x y t
          ∧ (h.rank = 0 → y.core.openA = x.core.openA ∧ y.core.openB = x.core.openB)
          ∧ (1 ≤ h.rank → other = false → y.core.openA = true ∧ y.core.openB = true
              ∧ y.core.out = x.core.out ++ put { h with rank := max h.rank ends', cut := false })
          ∧ (1 ≤ h.rank → other = true → (if a then y.core.openA = false ∧ y.core.openB = true ∧ y.core.endA = h.rank
              else y.core.openA = true ∧ y.core.openB = false ∧ y.core.endB = h.rank))
          ∧ ((h.rank = 0 ∨ other = true) → y.core.out = x.core.out ++ if h.v.lm = 0#8 then [] else put { h with rank := 0, cut := false })
      (x.core.openA = true → x.core.openB = true → ∀ a b, x.head pa = some a → x.head pb = some b →
        let first : Prop := a.v.lm = 0#8 ∨ (b.v.lm ≠ 0#8 ∧ ¬before b a)
        (first → takes true) ∧ (¬first → takes false))
      ∧ (x.core.openA = true → x.core.openB = false → takes true) ∧ (x.core.openA = false → x.core.openB = true → takes false))

/-- R154, R157 to R163: a token moves to the next place of its branch where that is empty, and from the last into its input; the
circuit takes the head of an output queue into every branch: into a slack buffer with room, or, past a full buffer and where
SLACK is 0, into the first hop stage or the destination; STEER, FILTER, MERGE, unpredicated MERGE and CARRY take their
inputs and send the data token to the outputs that R160 to R163 name, with CUT where it carries the CUT of a cut that the output has
not passed yet (an input that its own output feeds apart, which may receive a word at once). -/
def Obligations.CircuitMoves : Prop :=
  ∀ (s : State) (rid : Nat) (r : Residency), s.res.find? rid = some r → r.flowing = true → s.dbg = [] →
    (∀ route br i c b, r.connOf route br = some (i, c) → r.branches[i]? = some b →
      (∀ w ws, b.slack = w :: ws → b.hops.getD 0 none = none → b.hops ≠ [] →
        ∃ t q, exec (.tokenHop rid route br 0) s = .next t ∧ SameMem s t ∧ t.res.find? rid = some q
          ∧ q.branches[i]? = some { slack := ws, hops := b.hops.set 0 (some w) } ∧ q.units = r.units)
      ∧ (∀ j w, b.hops[j]? = some (some w) → b.hops[j + 1]? = some none →
        ∃ t q, exec (.tokenHop rid route br (j + 1)) s = .next t ∧ SameMem s t ∧ t.res.find? rid = some q
          ∧ q.branches[i]? = some { b with hops := (b.hops.set j none).set (j + 1) (some w) } ∧ q.units = r.units)
      ∧ (∀ j w x, b.hops[j]? = some (some w) → j + 1 = b.hops.length → r.plan.storeOn c = none → r.inputRoom c.dst c.dport = true →
        c.dport < x.inp.length → r.units[c.dst]? = some x →
        ∃ t q y, exec (.tokenHop rid route br (j + 1)) s = .next t ∧ SameMem s t ∧ t.res.find? rid = some q
          ∧ q.branches[i]? = some { b with hops := b.hops.set j none } ∧ q.units[c.dst]? = some y
          ∧ y.inp.getD c.dport [] = x.inp.getD c.dport [] ++ [w])
      ∧ (∀ w ws x, b.slack = w :: ws → b.hops = [] → r.plan.storeOn c = none → r.inputRoom c.dst c.dport = true →
        c.dport < x.inp.length → r.units[c.dst]? = some x →
        ∃ t q y, exec (.tokenHop rid route br 0) s = .next t ∧ SameMem s t ∧ t.res.find? rid = some q
          ∧ q.branches[i]? = some { b with slack := ws } ∧ q.units[c.dst]? = some y
          ∧ y.inp.getD c.dport [] = x.inp.getD c.dport [] ++ [w]))
    ∧ (∀ route u x w ws, r.routeSource route = some u → r.units[u]? = some x → x.core.out = w :: ws → r.outRoom u false = true →
        r.halts u = false → ∃ t q y, exec (.fanoutTake rid route) s = .next t ∧ SameMem s t ∧ t.res.find? rid = some q ∧ q.units[u]? = some y ∧ y.core.out = ws
          ∧ Placed u false w r q)
    ∧ ∀ op o x, let u := r.plan.img.elems.length + op
        let takes (i : Instr) (ports : List Nat) (p : Residency → UnitSt → Prop) : Prop :=
          MayTake s rid op r o x ports → ∃ t q y, exec i s = .next t ∧ SameMem s t ∧ t.res.find? rid = some q ∧ q.units[u]? = some y
            ∧ (∀ i, i < 3 → (∀ f c, c ∈ r.outs u f → ¬(c.2.dst = u ∧ c.2.dport = i)) →
                y.inp.getD i [] = if i ∈ ports then (x.inp.getD i []).tail else x.inp.getD i []) ∧ p q y
        let marked (ports : List Nat) (f : Bool) (d v : Token) : ChWord :=
          .tok { v with cut := d.cut && decide (x.core.outCuts.getD (if f then 1 else 0) 0
            < (x.consume false ports).core.cuts.getD (ports.headD 0) 0) }
        let whole (ports : List Nat) (f : Bool) (d : Token) : ChWord := marked ports f d d
        let marks (f : Bool) (d : Token) (q : Residency) : Prop :=
          if d.rank ≠ 0 ∨ d.cut ∨ d.prb then Placed u f (marked [0, 1] f d (hollow d)) r q else Unplaced u f r q
        (o.op = 0 → o.mode = 0 → ∀ d p, x.head 0 = some d → x.head 1 = some p → takes (.steer rid op) [0, 1] (fun q _ =>
          if d.v.lm = 0#8 then Placed u false (whole [0, 1] false d) r q ∧ Placed u true (whole [0, 1] true d) r q
          else if predHolds p then Placed u false (whole [0, 1] false d) r q ∧ marks true d q
          else Placed u true (whole [0, 1] true d) r q ∧ marks false d q))
        ∧ (o.op = 1 → o.mode = 0 → ∀ d p, x.head 0 = some d → x.head 1 = some p → takes (.filter rid op) [0, 1] (fun q _ =>
            if predHolds p then Placed u false (whole [0, 1] false d) r q else marks false d q))
        ∧ (o.op = 2 → o.mode = 0 → ∀ p, x.core.pred = none → x.head 1 = some p → takes (.merge rid op) [1] (fun q y =>
            y.core.pred = some (predHolds p) ∧ Unplaced u false r q))
        ∧ (o.op = 2 → o.mode = 0 → ∀ b d, x.core.pred = some b → x.head (if b then 2 else 0) = some d →
            takes (.merge rid op) [if b then 2 else 0] (fun q y => y.core.pred = none
              ∧ Placed u false (whole [if b then 2 else 0] false d) r q))
        ∧ (o.op = 2 → o.mode = 1 → s.replaying (dieOf r.island) = false → ∀ a, x.head 0 = some a → x.head 2 = none →
            takes (.umerge rid op) [0] (fun q y => y.core.last1 = false ∧ Placed u false (whole [0] false a) r q))
        ∧ (o.op = 2 → o.mode = 1 → s.replaying (dieOf r.island) = false → ∀ b, x.head 0 = none → x.head 2 = some b →
            takes (.umerge rid op) [2] (fun q y => y.core.last1 = true ∧ Placed u false (whole [2] false b) r q))
        ∧ (o.op = 2 → o.mode = 1 → s.replaying (dieOf r.island) = false → ∀ a b, x.head 0 = some a → x.head 2 = some b →
            takes (.umerge rid op) [if x.core.last1 then 0 else 2] (fun q y => y.core.last1 = !x.core.last1
              ∧ Placed u false (whole [if x.core.last1 then 0 else 2] false (if x.core.last1 then a else b)) r q))
        ∧ (o.op = 3 → o.mode = 0 → ∀ d, x.core.loop = false → x.head 0 = some d →
            takes (.carry rid op) [0] (fun q y => y.core.loop = true ∧ Placed u false (whole [0] false d) r q))
        ∧ (o.op = 3 → o.mode = 0 → ∀ d, x.core.loop = true → x.head 2 = some d →
            takes (.carry rid op) [2] (fun q y => if d.rank < o.rank then y.core.loop = true ∧ Placed u false (whole [2] false d) r q
              else y.core.loop = false ∧ Unplaced u false r q))

/-- R165 to R169, R180, R181, R197 to R199, R431: cut-only words, the two ends of a reorder store, gos and dones of the
controller tree, configuration steps and the timed switch. -/
def Obligations.RegionSteps : Prop :=
  ∀ (s : State) (rid : Nat) (r : Residency), s.res.find? rid = some r → r.flowing = true → s.dbg = [] →
    let steps (i : Instr) (p : State → Residency → Prop) : Prop := ∃ t q, exec i s = .next t ∧ t.res.find? rid = some q ∧ p t q
    (∀ u port x ws, r.units[u]? = some x → x.inp.getD port [] = .cutOnly :: ws → port < x.core.cuts.length →
      (x.consume false [port]).core.savesDue = false → r.answering u = false → u < r.plan.img.units.length →
      r.halts u = false → x.run = LaneRun.idle →
      steps (.cutOnlyWordTake rid u port) (fun t q => SameMem s t ∧ ∃ y, q.units[u]? = some y ∧ y.inp.getD port [] = ws
        ∧ y.core.cuts.getD port 0 = x.core.cuts.getD port 0 + 1 ∧ y.core.out = x.core.out))
    ∧ (∀ j x p t0 ws c, r.stores[j]? = some x → r.plan.stores[j]? = some p → x.inp = .tok t0 :: ws → p.write x.core t0 = some c →
      r.halts (r.units.length + j) = false → steps (.reorderStoreWrite rid j) (fun t q => SameMem s t ∧ q.stores[j]? = some { x with core := c, inp := ws }
        ∧ q.units = r.units))
    ∧ (∀ j x p tk last, r.stores[j]? = some x → r.plan.stores[j]? = some p → x.core.out.length < p.mes.length + 2 →
      p.next x.core = some (tk, last, 0) → r.halts (r.units.length + j) = false →
      steps (.reorderStoreRead rid j) (fun t q => SameMem s t ∧ q.units = r.units ∧ ∃ y, q.stores[j]? = some y
        ∧ y.core.out = x.core.out ++ [.tok tk] ∧ y.core.outOrd = x.core.outOrd + 1
        ∧ (if last then y.core.rblock = x.core.rblock + 1 ∧ y.core.rtok = 0 else y.core.rblock = x.core.rblock
            ∧ y.core.rtok = x.core.rtok + 1)))
    ∧ (∀ n c, r.plan.img.ctl n = some c → n ≠ 0 → r.halts r.treeNo = false →
      let i := (r.plan.img.kids c.parent).findIdx (· = n)
      let p := r.node c.parent
      (r.mayGo c.parent i = true → i < p.started.length →
        steps (.controllerGo rid n) (fun t q => SameMem s t ∧ (q.node c.parent).started.getD i 0 = p.started.getD i 0 + 1
          ∧ q.units = r.units))
      ∧ (s.leafBusy rid r n = false → p.finished.getD i 0 < min (r.carried n) (p.started.getD i 0) → i < p.finished.length →
        steps (.controllerDone rid n) (fun t q => SameMem s t ∧ (q.node c.parent).finished.getD i 0 = p.finished.getD i 0 + 1
          ∧ q.units = r.units)))
    ∧ (s.leafBusy rid r 0 = false → r.carried 0 = 1 → r.rootDone = false → r.halts r.treeNo = false →
      steps (.controllerDone rid 0) (fun t q => SameMem s t ∧ q.rootDone = true))
    ∧ (∀ va, r.images[r.cfg + 1]? = some va → r.rootDone = true → r.drained = true → s.flushed rid r = true → r.switch = none → r.halted = [] →
      (∀ im p, s.listedImage r.plan.img.shape (r.cfg + 1) va = .ok im → checkImage im r.ox r.oy = .ok p →
        steps (.configurationStep rid) (fun _ q => q.cfg = r.cfg + 1 ∧ q.plan = p ∧ q.cut = 0 ∧ q.iter = 0 ∧ q.rootDone = false
          ∧ q.lid = r.lid ∧ q.ox = r.ox ∧ q.oy = r.oy))
      ∧ (∀ x, (s.listedImage r.plan.img.shape (r.cfg + 1) va).bind (fun im => checkImage im r.ox r.oy) = .error x →
        ∃ t, exec (.configurationStep rid) s = .next t ∧ t.res.find? rid = none))
    ∧ (∀ sw, r.switch = some sw → sw.fired = false → 0 ≤ s.since sw.t → r.halted = [] →
      ((s.traceCore 0).mode = 0 ∨ (s.traceCore 0).mode = 1 ∧
        ringRoom (s.traceCore 0).rsize (s.traceCore 0).rwr (s.traceCore 0).rrd 1 = true) →
      steps (.cfgswTimeReached rid) (fun _ q => q.switch = some { sw with fired := true }))
    ∧ (∀ sw u x un, r.switch = some sw → sw.fired = true → r.units[u]? = some x → r.rec' u = some un → x.switched = false →
      r.isSource u = true → r.fed u = [] → u < r.plan.img.elems.length → x.core.out.length < un.depth → r.halts u = false →
      steps (.switchMarkerTake rid u) (fun t q => SameMem s t ∧ ∃ y, q.units[u]? = some y ∧ y.switched = true
        ∧ y.core.out = x.core.out ++ (if (r.outs u false).isEmpty then [] else [.switch])))

/-- R236 to R242, R278 to R280: an AG stream bound to a pattern without block scales reads its next element, delivers a token made
of its answers, with CUT where it is due, and places a token's elements in its window buffer before it takes the token; lookup
and scatter streams take their queries, and a lookup stream reads their words and delivers their answers; an answer is kept for
its element. A token that is taken saves no cut. That a query token is taken as it arrives, and a query that carries CUT with its
last gradient, is log 66 (DEDUCED); that a pass ends with its last whole instance, whose last token carries EOS, is log 74
(DEDUCED). -/
def Obligations.StreamActions : Prop :=
  ∀ (s : State) (rid u : Nat) (r : Residency) (v : AgView), s.res.find? rid = some r → r.lid = rid → r.flowing = true → s.dbg = [] →
    r.halts u = false → r.ag u = some v → v.st.frozen = false → v.st.walking = false → v.st.core.active = true → v.x.switched = false →
    let c := v.st.core
    let steps (i : Instr) (f : State → UnitSt → StreamSt → Prop) : Prop :=
      ∃ t q y st, exec i s = .next t ∧ SameMem s t ∧ t.res.find? rid = some q ∧ q.units[u]? = some y ∧ q.streams.find? u = some st
        ∧ f t y st
    let calm : Prop := Uncut v.x [0]
    (∀ p va pa, c.bound = some (.pattern p) → v.p.out = false → v.p.bs = false → (v.elemAt p c.issued).1 = va → va % v.size = 0 →
      c.issued < p.count → c.issued < (v.taken + 64) * v.lanes → s.issued' rid u v.st (2 * c.issued) = false →
      s.streamPlace false v.st va .read = .pa pa →
      steps (.agStreamRead rid u) (fun t y st => y = v.x ∧ st.core.issued = c.issued + 1 ∧ ∃ q, t.reqs.find? s.nextId = some q
        ∧ q.owner = .stream rid u (2 * c.issued) ∧ q.op = .read v.size ∧ q.pa = pa ∧ q.st = .sent ∧ q.master = resMaster rid))
    ∧ (∀ p, c.bound = some (.pattern p) → v.p.out = false → v.p.bs = false →
      (∀ l, l < v.lanes → c.tokens * v.lanes + l < p.count → (v.st.answers.find? (2 * (c.tokens * v.lanes + l))).isSome = true) →
      r.queueRoom u = true → r.ending = false → r.sourceMay v.x (v.tokenOf p c.tokens).1.rank = true →
      let tok : Token := { (v.tokenOf p c.tokens).1 with cut := r.cutDue v.x (v.tokenOf p c.tokens).1.rank }
      steps (.agStreamDeliver rid u) (fun _ y st => y.core.fires = v.x.core.fires + 1
        ∧ y.core.sticky = v.x.core.sticky ||| (v.tokenOf p c.tokens).2
        ∧ y.core.out = v.x.core.out ++ (if (r.outs u false).isEmpty then [] else [.tok tok])
        ∧ (if tok.rank = 7 then st.core.active = false else st.core.active = true ∧ st.core.tokens = c.tokens + 1)))
    ∧ (∀ p t0, c.bound = some (.pattern p) → v.p.out = true → v.p.bs = false → v.x.head 0 = some t0 → c.held = [] →
      (∀ k tk l pa, (v.positions p [t0]).find? (fun x => c.issued ≤ x.1) = some (k, tk, l) →
        let va := (v.elemAt p k).1
        let gen := if v.p.rnd = 5 then drawGen c.gen else c.gen
        let bits := (v.lower 127 gen (v.bitsAt tk l)).1
        let op : BufOp := if v.p.sfmt = 6 then .half (v.elemAt p k).2 bits
          else if s.home pa = .reg then .reg v.size bits else .write v.size bits
        va % v.size = 0 → v.x.buf.length < 4096 → r.draining v.x = false → s.streamPlace false v.st va .write = .pa pa →
        s.placeRefused (resMaster rid) pa v.size = false →
        steps (.agStreamWrite rid u) (fun _ y st => st.core.issued = k + 1 ∧ st.core.gen = gen ∧ y.inp = v.x.inp
          ∧ y.buf = v.x.buf ++ [{ win := v.x.core.cut + 1, pa := pa, va := va, k := k, op := op }]))
      ∧ ((v.positions p [t0]).find? (fun x => c.issued ≤ x.1) = none → calm → t0.rank ≠ 7 →
        steps (.agStreamWrite rid u) (fun _ y st => y.core.fires = v.x.core.fires + 1 ∧ y.buf = v.x.buf
          ∧ y.inp.getD 0 [] = (v.x.inp.getD 0 []).tail ∧ st.core.tokens = c.tokens + 1 ∧ st.core.held = [])))
    ∧ (∀ g t0, c.bound = some (.grid g) → v.x.head 0 = some t0 → calm →
      (v.p.out = false → c.held.length < 64 → (∀ q, c.held.getLast? = some q → q.rank ≠ 7) →
        steps (.gridLookupQuery rid u) (fun _ y st => y.inp.getD 0 [] = (v.x.inp.getD 0 []).tail ∧ st.answers = v.st.answers
          ∧ st.core.held = c.held ++ [{ t0 with cut := false }]))
      ∧ (v.p.out = true → c.held.length < g.width → t0.cut = false →
        steps (.gridScatterQuery rid u) (fun _ y st => y.inp.getD 0 [] = (v.x.inp.getD 0 []).tail ∧ st.core.held = c.held ++ [t0]
          ∧ y.buf = v.x.buf))
      ∧ (∀ q grads va x pa, v.p.out = true → c.held ++ [t0] = q :: grads → c.held.length = g.width → 0 < g.width →
        (g.scatter q grads).1[c.issued]? = some (va, x) → va % featureBytes g.ef = 0 → v.x.buf.length < 4096 → r.draining v.x = false →
        s.streamPlace false v.st va .atomic = .pa pa → s.addRefused (resMaster rid) g.ef pa = false →
        steps (.gridScatterQuery rid u) (fun _ y st => st.core.issued = c.issued + 1 ∧ y.inp = v.x.inp
          ∧ y.buf = v.x.buf ++ [{ win := v.x.core.cut + 1, pa := pa, va := va, k := c.issued, op := .add g.ef x }])))
    ∧ (∀ g, c.bound = some (.grid g) → v.p.out = false →
      (∀ key va n k pa, s.nextRead rid u v = some (key, va, n, k) → va % n = 0 → s.streamPlace false v.st va .read = .pa pa →
        steps (.agStreamRead rid u) (fun t y _ => y = v.x ∧ ∃ q, t.reqs.find? s.nextId = some q
          ∧ q.owner = .stream rid u key ∧ q.op = .read n ∧ q.pa = pa ∧ q.st = .sent ∧ q.master = resMaster rid))
      ∧ (∀ q qs, c.held = q :: qs → r.queueRoom u = true → r.ending = false →
        let key (k : Nat) : Nat := 2 * (c.tokens / g.width * g.words + k)
        let n := (g.queryWords q).length
        let i := c.tokens % g.width
        (∀ k, k < n → (v.st.answers.find? (key k)).isSome = true) →
        let res := g.answer q ((List.range n).map (fun k => v.st.answers.getD (key k) 0))
        steps (.agStreamDeliver rid u) (fun _ y st => y.core.fires = v.x.core.fires + 1
          ∧ y.core.sticky = v.x.core.sticky ||| res.2
          ∧ y.core.out = v.x.core.out ++ (if (r.outs u false).isEmpty then [] else [.tok (res.1.getD i q)])
          ∧ (if i + 1 = g.width then (if q.rank = 7 then st.core.active = false ∧ st.core.held = []
                else st.core.tokens = c.tokens + 1 ∧ st.core.held = qs)
              else st.core.tokens = c.tokens + 1 ∧ st.core.held = c.held))))
    ∧ (∀ id q key n fl, v.p.out = false → List.find? (fun p : Nat × Req => match p.2.owner, p.2.st with
          | .stream i j _, .answered _ => decide (i = rid) && decide (j = u)
          | _, _ => false) s.reqs = some (id, q) → q.owner = .stream rid u key → q.st = .answered (.value n fl) →
        steps (.agStreamAccessAnswer rid u) (fun t y st => y = v.x ∧ st.answers.find? key = some n ∧ t.reqs = s.reqs.drop id))

/-- R247, R349 to R353, R369, R370, R218, R219: WINDOW_COMMIT performs a buffered write of the oldest closed window, commits a
complete cut, or completes the next one; ROLLBACK gives every unit its state at the last complete cut and holds the region; a
pre-empted residency leaves its region for its save area; a finished one leaves, and its entry is free. The model's own choices
stand in it: one buffered write for each event, any that nothing precedes (log 53, DEDUCED), when a cut is complete (logs 24
and 38, DEDUCED), what a rollback restores (logs 39 and 102, DEDUCED), and the areas that the distributor may use (log 105). -/
def Obligations.WindowsAndEnds : Prop :=
  ∀ (s : State) (rid : Nat) (r : Residency), s.res.find? rid = some r →
    (∀ u i x e n v, MemInv s → s.commitChoice r = some (u, i) → r.units[u]? = some x → x.buf[i]? = some e → e.op = .write n v →
      (∀ k, s.home e.pa ≠ .peer k) → s.home e.pa ≠ .host → s.inCopy e.pa = false →
      ∃ t q y, exec (.windowCommit rid) s = .next t ∧ SameMemBut e.pa n s t ∧ t.readMem e.pa n = v % 256 ^ n
        ∧ t.res.find? rid = some q ∧ q.units[u]? = some y ∧ y.buf = x.buf.eraseIdx i ∧ q.cut = r.cut ∧ q.committed = r.committed)
    ∧ (s.commitChoice r = none → r.committed < r.cut → (∀ p ∈ r.streams, s.streamBusy rid p.1 = false ∧ p.2.back = []) →
      ∃ t q, exec (.windowCommit rid) s = .next t ∧ SameMem s t ∧ t.res.find? rid = some q ∧ q.committed = r.cut ∧ q.cut = r.cut)
    ∧ (s.commitChoice r = none → r.committed = r.cut → r.flushAll = false → r.flowing = true → s.closes r (r.cut + 1) = true →
      r.cutReady (r.cut + 1) = true →
      ∃ t q, exec (.windowCommit rid) s = .next t ∧ SameMem s t ∧ t.res.find? rid = some q ∧ q.cut = r.cut + 1
        ∧ q.committed = r.committed)
    ∧ (∀ w, r.broken = some w → s.stopHolds rid = false → ∃ (t : State) (q : Residency), exec (.rollback rid) s = .next t ∧ t.res.find? rid = some q ∧ q.hold = .fault
        ∧ q.broken = none ∧ q.cut = r.cut
        ∧ ∀ (u : Nat) (x : UnitSt) (sv : Save), r.units[u]? = some x → x.saves.find? (fun v => v.k = r.cut) = some sv →
            ∃ y : UnitSt, q.units[u]? = some y ∧ y.core = x.core.saved sv.core)
    ∧ (∀ area, s.savable rid r = true → s.underRepair rid = false → s.saveArea r.plan.saveSize = some area →
      ∃ t v, exec (.preemptSave rid) s = .next t ∧ t.res.find? rid = none ∧ t.saved.find? (rid % 4096) = some v ∧ v.area = area
        ∧ v.res.lid = r.lid ∧ (t.entry (rid % 4096)).st = .ready ∧ (t.entry (rid % 4096)).saved = some area)
    ∧ (s.mayFinish rid r = true → ∃ t, exec (.residencyFinish rid) s = .next t ∧ t.res.find? rid = none
        ∧ (t.entry (rid % 4096)).st = .free)

/-! ### The master distributor, commands and answers -/

/-- R217, R218, R361, R362: a placement pass places the entry that R217 chooses, at its first configuration, or frees the
entry whose image is refused; the head of the READY entries reserves the granted island with most free sites after 65 536
cycles; a column that fails is repaired; a takeover stops and restarts the distributor's work. -/
def Obligations.Placement : Prop :=
  ∀ (s : State), s.mdWorks = true → let s' := s.reserve
    (∀ i isl (o : Nat × Nat) l im n, s'.choice s'.readyOrder = some (.place i isl o l im) → (s.entry i).saved = none →
      (origins im.shape)[n]? = some o →
      ∀ ev ∈ [Instr.mdPlacementPass, .residencyPlace i isl n], ∀ p w bs, planOn im o.1 o.2 = .ok p →
      s'.wanted (s.lidOf i) (s.entry i) = .ok w →
      s'.bindAll ((Residency.blank (s.lidOf i) (s.entry i).owner isl o.1 o.2 s.nextId l p).configure p 0) 0 w = .ok bs →
      ∃ t q, exec ev s = .next t ∧ (t.entry i).st = .placed ∧ t.res.find? (s.lidOf i) = some q ∧ q.island = isl
        ∧ (q.ox, q.oy) = o ∧ q.plan = p ∧ q.cfg = 0 ∧ q.images = l ∧ q.owner = (s.entry i).owner ∧ t.ctxs = s.ctxs
        ∧ q.gone = !t.bindsDue (s.lidOf i) q)
    ∧ (∀ i cfg r, s'.choice s'.readyOrder = some (.refuse i cfg r) →
      ∃ t, exec .mdPlacementPass s = .next t ∧ (t.entry i).st = .free ∧ t.res = s.res)
    ∧ (∀ h hs, s.readyOrder = h :: hs → 65536 ≤ s.since (s.entry h).rtime → s.reserved = [] → s.grant ≠ 0#64 →
      ∃ t isl, exec .reservationTimeout s = .next t ∧ t = { s with reserved := [(isl, h)] } ∧ isl < 64 ∧ s.granted isl = true
        ∧ ∀ j, j < 64 → s.granted j = true → s.freeSites j ≤ s.freeSites isl)
    ∧ (∀ isl x, s.repair = none → s.columnFails isl x = true → (s.columns.getD isl []).length < 2 →
      ∃ t, exec (.columnRepair isl x) s = .next t ∧ SameMem s t ∧ t.columns = s.columns
        ∧ t.repair = some { island := isl, column := x, lids := s.onColumn isl x }
        ∧ ∀ rid ∈ s.onColumn isl x, ∃ q, t.res.find? rid = some q ∧ q.repairReq = true)
    ∧ (∀ p, s.repair = some p → (∀ rid ∈ p.lids, ∀ r, s.res.find? rid = some r → s.savable rid r = true) →
      ∃ t, exec (.columnRepair p.island p.column) s = .next t ∧ t.repair = none
        ∧ t.columns.getD p.island [] = s.columns.getD p.island [] ++ [p.column])
    ∧ exec .mdFailover s = .next { s with failover := true }
    ∧ exec .mdFailover { s with failover := true } = .next { s with failover := false }

/-- R227, R290, R293, R404: a command with nothing left to do gives its count to its semaphore and then leaves its slot, with
its error; a walk in flight reads one level, or asks a peer for it, and its end refills the thread's translation cache or
traps; a request to a peer that has waited 2^22 cycles is answered with status 1. -/
def Obligations.CompletionsAndWalks : Prop :=
  ∀ (s : State),
    (∀ id c, s.cmds.find? id = some c → c.job = .done → c.follow = 0 →
      (∀ th d, c.count = none → c.ownFetch = false → c.src = some th → c.slot = some d →
        ∃ t, exec (.commandComplete id) s = .next t ∧ SameMem s t ∧ t.cmds.find? id = none
          ∧ (t.ctx th).getD d = { count := ((s.ctx th).getD d).count - 1, err := ((s.ctx th).getD d).err || c.err }
          ∧ (∀ e, e ≠ d → (t.ctx th).getD e = (s.ctx th).getD e) ∧ (∀ u, u ≠ th → t.ctx u = s.ctx u))
      ∧ (∀ core sem n, c.count = some { dev := none, core := core, sem := sem, n := n } → s.inReset core = false →
        (s.core core).semq.getD sem [] = [] →
        ∃ t, exec (.commandComplete id) s = .next t ∧ SameMem s t
          ∧ (t.sem core sem).toNat = min ((s.sem core sem).toNat + n % 2 ^ 32) (2 ^ 32 - 1)
          ∧ t.cmds.find? id = some { c with count := none }))
    ∧ (∀ id w, s.walks.find? id = some w → s.inFlight id = true →
      w.asked = false → s.inCopy (pteAddr w.lvl w.base w.va) = false →
      let ends (g : WalkGot) : Prop := (s.readPte (pteAddr w.lvl w.base w.va)).2 = .ends g
        ∨ ∃ v, (s.readPte (pteAddr w.lvl w.base w.va)).2 = .entry v ∧ walkEntry w.lvl w.va v w.kind = g
      (∀ l b, ends (.next l b) →
        ∃ t, exec (.pageWalk id) s = .next t ∧ SameMem s t
          ∧ t = { (s.readPte (pteAddr w.lvl w.base w.va)).1 with
                  walks := s.walks.put id { w with lvl := l, base := b, asked := false } })
      ∧ (∀ e th, ends (.page e) → w.who = .ctx th →
        ∃ t, exec (.pageWalk id) s = .next t ∧ SameMem s t ∧ t.walks.find? id = none ∧ (t.ctx th).tlb.head? = some e
          ∧ (t.ctx th).pages.head? = some e ∧ (t.ctx th).wait = .none ∧ (∀ r, (t.ctx th).get r = (s.ctx th).get r)
          ∧ (t.ctx th).pc = (s.ctx th).pc)
      ∧ (∀ th, w.who = .ctx th → (s.ctx th).it = false → ∀ cause, (ends .fault ∧ cause = 4) ∨ ((ends .denied ∨ ends .ecc) ∧ cause = 3) →
        ∃ t, exec (.pageWalk id) s = .next t ∧ SameMem s t ∧ t.walks.find? id = none ∧ (t.ctx th).tcause = BitVec.ofNat 64 cause
          ∧ (t.ctx th).taddr = BitVec.ofNat 64 w.va ∧ (t.ctx th).epc = (s.ctx th).pc ∧ (t.ctx th).pc = (s.ctx th).tvec
          ∧ (t.ctx th).prv = true)
      ∧ ((s.readPte (pteAddr w.lvl w.base w.va)).2 = .ask → let a := pteAddr w.lvl w.base w.va
        ∃ t r, exec (.pageWalk id) s = .next t ∧ SameMem s t ∧ t.walks = s.walks.put id { w with asked := true }
          ∧ t.reqs = s.reqs.put s.nextId r ∧ r.owner = .walk id ∧ r.op = .read 8 ∧ r.pa = a ∧ r.master = walkMaster ∧ r.st = .sent))
    ∧ (∀ q r d k since, s.reqs.find? q = some r → r.st = .remote d k since → since + 2 ^ 22 ≤ s.cy →
      ∃ t, exec (.requestTimeout q) s = .next t
        ∧ t = { s with reqs := s.reqs.put q { r with st := .answered (.denied r.ea) } })

/-! ### Events of cores -/

/-- R9, R22, R25 to R27, R135, R136, R257, R265, R368, R417: the core fetches for the context that it chooses; a waiting context
is boosted; a pending cause is taken; a refused LDF is sent again; a wake frees a lock record; START, RELEASE and STOP of
the control block; a gated core. -/
def Obligations.CoreEvents : Prop :=
  ∀ (s : State),
    (∀ core x p, s.choose core (s.eligibleOn core) = some (x, p) → let tid := core * 8 + x
      (∀ i n, s.fetchAt tid = .run i n → (s.ctx tid).held = none →
        ∃ t, exec (.instructionFetch core) s = .next t ∧ SameMem s t ∧ t.cur = tid
          ∧ t.me = { s.ctx tid with held := some i, waited := 0, boosted := false } ∧ ∀ u, u ≠ tid → t.ctx u = s.ctx u)
      ∧ (∀ cause a, s.fetchAt tid = .trap cause a → (s.ctx tid).held = none → (s.ctx tid).it = false →
        ∃ t, exec (.instructionFetch core) s = .next t ∧ SameMem s t ∧ t.cur = tid ∧ t.me.tcause = BitVec.ofNat 64 cause
          ∧ t.me.taddr = a ∧ t.me.epc = (s.ctx tid).pc ∧ t.me.pc = (s.ctx tid).tvec))
    ∧ (∀ core, s.eligibleOn core = [] → exec (.instructionFetch core) s = .next s)
    ∧ (∀ tid, 4096 ≤ (s.ctx tid).waited → (s.ctx tid).st = .runnable → (s.ctx tid).wait = .none →
      exec (.contextBoost tid) s = .next (s.setCtx tid { s.ctx tid with boosted := true }))
    ∧ (∀ tid cause, let c := s.ctx tid
      c.st = .runnable → c.held = none → c.wait = .none → c.stop = false → c.it = false → c.lowestCause = some cause →
      ∃ t, exec (.asyncTrapEntry tid) s = .next t ∧ SameMem s t ∧ (∀ u, u ≠ tid → t.ctx u = s.ctx u)
        ∧ (t.ctx tid).epc = c.pc ∧ (t.ctx tid).tcause = BitVec.ofNat 64 (256 + cause) ∧ (t.ctx tid).taddr = s.causeAddr tid cause
        ∧ (t.ctx tid).pc = c.tvec ∧ (t.ctx tid).status = statusOf c.sen true c.prv true
        ∧ (cause ≠ 14 → (t.ctx tid).pend.getLsbD cause = false) ∧ (∀ r, (t.ctx tid).get r = c.get r))
    ∧ (∀ q r, s.reqs.find? q = some r → r.st = .refused →
      exec (.ldfRetry q) s = .next { s with reqs := s.reqs.put q { r with st := .sent } })
    ∧ (∀ isl key w, s.wakes.contains (isl, key) = true → s.sync.find? isl = some [.lock key w] →
      ∃ t, exec (.lockWake isl key) s = .next t ∧ SameMem s t ∧ t.wakes = s.wakes.erase (isl, key) ∧ t.sync.find? isl = some []
        ∧ ∀ i, i < 32 → w.getLsbD i = true → (s.ctx (isl * 32 + i)).wait = .lock key →
            t.ctx (isl * 32 + i) = (s.ctx (isl * 32 + i)).wake)
    ∧ (∀ core x, x < 8 → let tid := core * 8 + x; let k := s.core core
      ((s.ctx tid).st = .halted →
        ∃ t, exec (.ccmdStart core x) s = .next t ∧ (t.ctx tid).st = .runnable ∧ (t.ctx tid).pc = k.cpc
          ∧ (t.ctx tid).get 1#5 = k.carg ∧ (t.ctx tid).get 2#5 = -1 ∧ (t.ctx tid).prv = k.cprv ∧ (t.ctx tid).tvec = k.ctvec
          ∧ (t.ctx tid).pend = 0 ∧ (s.groupsOf tid = [] → SameMem s t ∧ ∀ u, u ≠ tid → t.ctx u = s.ctx u))
      ∧ ((s.ctx tid).st = .halted → (s.ctx tid).slotsIdle = true →
        ∃ t, exec (.ccmdRelease core x) s = .next t ∧ (t.ctx tid).st = .free ∧ (t.ctx tid).pend = 0)
      ∧ ((s.ctx tid).st = .runnable → (s.ctx tid).held = none → (s.ctx tid).wait = .none →
        exec (.ccmdStop core x) s = .next (s.setCtx tid { s.ctx tid with st := .halted, waited := 0 })))
    ∧ (∀ core, s.busyCore core = false →
      ∃ t, exec (.corePowerGated core) s = .next t ∧ t.core core = { s.core core with gated := true }
        ∧ t = { s with cores := t.cores } ∧ ∀ x, (t.eligibleOn core).contains x = false)
    ∧ (∀ core, ∃ t, exec (.corePoweredUp core) s = .next t ∧ t.core core = { s.core core with gated := false }
        ∧ t = { s with cores := t.cores })

/-! ### Pans, apertures, rings and the host -/

/-- R248, R321, R328 to R333, R336: an entry enters the ring of its pan or is spilled behind it, or holds the pan where ring and
bittern area are full, and is dropped with NV at its element where the pan is undefined, as an element fault where that flag is
enabled; an old entry makes the pan READY; a fire, made in its turn behind the entries of its cycle, takes a batch, which is
posted and counted, or holds the pan where the post is refused; a fire whose record finds no room in the log waits; the writes
of a buffer are made, and with the last its batch is posted; a spilled entry moves into the ring; fetched weights are present.
The bytes that an entry, a refill or a buffer writes are made one aligned word at a time, each by an event of its own (log 104).
-/
def Obligations.PanEvents : Prop :=
  ∀ (s : State),
    (∀ f x, s.flights.find? f = some x →
      (∀ q ∈ s.flights, q.1 < f → ¬(q.2.rid = x.rid ∧ q.2.unit = x.unit ∧ q.2.pan = x.pan)) →
      (s.pans.find? x.pan = none → ∃ t, exec (.panEntryArrival f) s = .next t ∧ SameMem s t ∧ t.flights = s.flights.drop f
        ∧ ∀ r y, s.res.find? x.rid = some r → r.units[x.unit]? = some y → r.broken = none →
            let on : Prop := r.masked = none ∧ ∃ e o w, r.opOf x.unit = some (e, o, w) ∧ trapped w Num.nv ≠ 0#5
            ∃ q, t.res.find? x.rid = some q ∧ (on → q.broken.isSome = true)
              ∧ (¬on → ∃ z, q.units[x.unit]? = some z ∧ z.core.sticky = y.core.sticky ||| Num.nv ∧ q.broken = none))
      ∧ (∀ p, s.pans.find? x.pan = some p → p.held = none → s.replaying 0 = false →
        let slot := p.ring + 12 * ((p.rpos + p.rlen) % p.rcnt)
        let word (i : Nat) : Nat := x.word.toNat / 2 ^ (32 * i) % 2 ^ 32
        (p.blen = 0 → p.rlen < p.rcnt → p.scope.isSome = true → (∀ j, j < 3 → s.mdHome (slot + 4 * j) .write = true) →
          ∃ t y, exec (.panEntryArrival f) s = .next t ∧ SameMem s t ∧ t.flights = s.flights.drop f
            ∧ Queues x.pan none (fun i => slot + 4 * i) ((List.range 3).map word) s t
            ∧ t.pans.find? x.pan = some y ∧ y.rlen = p.rlen + 1 ∧ y.blen = 0
            ∧ y.c0 = p.c0 + 1 ∧ y.c2 = p.c2 ∧ y.times = p.times ++ [t.gcyc])
        ∧ (∀ ad : Nat → Nat, ¬(p.blen = 0 ∧ p.rlen < p.rcnt) → p.blen ≠ p.bcnt → p.scope.isSome = true →
          (∀ j, j < 3 → s.mdPlace (p.bitt + 12 * ((p.bpos + p.blen) % p.bcnt) + 4 * j) .write = .ok (ad j)
            ∧ s.mdHome (ad j) .write = true) →
          ∃ t y, exec (.panEntryArrival f) s = .next t ∧ SameMem s t ∧ t.flights = s.flights.drop f
            ∧ Queues x.pan none ad ((List.range 3).map word) s t
            ∧ t.pans.find? x.pan = some y ∧ y.rlen = p.rlen ∧ y.blen = p.blen + 1
            ∧ y.c0 = p.c0 + 1 ∧ y.c2 = p.c2 + 1 ∧ y.times = p.times ++ [t.gcyc])
        ∧ (¬(p.blen = 0 ∧ p.rlen < p.rcnt) → p.blen = p.bcnt →
          ∃ t y, exec (.panEntryArrival f) s = .next t ∧ t.flights = s.flights ∧ t.pans.find? x.pan = some y
            ∧ y = { p.sync s.gcyc with held := some .spill })))
    ∧ (∀ i w, s.mdWrites[i]? = some w → (s.mdWrites.take i).any (·.covers w.pa w.n) = false → s.inCopy w.pa = false →
      (MemInv s → s.mdHome w.pa .write = true → s.home w.pa ≠ .host →
        SameMemBut w.pa w.n s (s.mdWrite i) ∧ (s.mdWrite i).readMem w.pa w.n = w.v % 256 ^ w.n
          ∧ (s.mdWrite i).mdWrites = s.mdWrites.eraseIdx i)
      ∧ (∀ p, s.mdHome w.pa .write = false → s.pans.find? w.pan = some p → p.held = none → p.also = [] →
        (s.mdWrite i).mdWrites = s.mdWrites ∧ ∃ y, (s.mdWrite i).pans.find? w.pan = some y
          ∧ y = { p with held := some (match w.buf with | some b => HeldStep.buffer b | none => .write) }))
    ∧ ∀ n p, s.pans.find? n = some p →
      (∀ τ τs, p.fired = false → 0 < p.count → p.times = τ :: τs → (p.age : Int) ≤ (s.gcyc - τ).toInt → p.readyAt = none →
        exec (.panAgeLimit n) s = .next { s with pans := s.pans.put n { p with readyAt := some (τ + BitVec.ofNat 64 p.age) } })
      ∧ (let u := s.inTurn 1 fireRank (fireRank + 1)
        (u.panNext ≠ some n → exec (.panFire n) s = .next s)
        ∧ (u.panNext = some n → u.panWants n p = true → p.present = true → s.replaying 0 = false → let k := min p.count p.f
          let log := s.traceCore 0
          (log.mode = 1 → ringRoom log.rsize (log.rwr + 1) log.rrd 0 = false → exec (.panFire n) s = .next u)
          ∧ (log.mode ≠ 1 ∨ ringRoom log.rsize (log.rwr + 1) log.rrd 0 = true →
            ∃ t y, exec (.panFire n) s = .next t ∧ t.pans.find? n = some y ∧ y.fired = true ∧ y.taken = k ∧ y.readyAt = none
              ∧ y.times = p.times.drop k ∧ y.rlen = p.rlen ∧ y.rpos = p.rpos)
          ∧ (∀ b bs e i j, log.mode = 0 → p.bufs.findIdx? (· = .free) = some b → u.fetch mdMaster p.tmpl 64 = some bs →
            launchRecord bs p.owner = some (e, []) → u.liveScope e.scope = some i → (u.scope i).closed = false →
            u.freeEntry = some j →
            ∃ t y, exec (.panFire n) s = .next t ∧ SameMem s t ∧ t.pans.find? n = some y ∧ y.held = p.held
              ∧ y.bufs[b]? = some (.writing (s.lidOf j) k) ∧ (t.entry j).st = .waiting ∧ (t.entry j).pcnt = 1
              ∧ (t.entry j).pri = p.pri ∧ (t.entry j).owner = p.owner ∧ y.c3 = p.c3
              ∧ y.thr.toNat = (if p.f ≤ p.count then min (p.thr.toNat + 1) (2 ^ 32 - 1) else p.thr.toNat)
              ∧ y.tim.toNat = (if p.f ≤ p.count then p.tim.toNat else min (p.tim.toNat + 1) (2 ^ 32 - 1)))
          ∧ (∀ b, log.mode = 0 → p.bufs.findIdx? (· = .free) = some b →
            ((u.fetch mdMaster p.tmpl 64).bind (fun bs => launchRecord bs p.owner) = none ∨ u.freeEntry = none) →
            ∃ t y, exec (.panFire n) s = .next t ∧ t.pans.find? n = some y ∧ y.stuck (.post b) = true
              ∧ y.bufs[b]? = some (.fired k (decide (p.f ≤ p.count)) false false) ∧ y.thr = p.thr ∧ y.tim = p.tim ∧ y.c3 = p.c3)))
      ∧ (∀ b lid k ws, p.bufs[b]? = some (.writing lid k) → p.stuck (.buffer b) = false → (s.oldest p k).2 = .ok ws →
        let u := (s.oldest p k).1
        let words := p.bufWords b ws
        ∀ ad : Nat → Nat, (∀ x ∈ words, x < 2 ^ 32) →
        (∀ i, i < words.length → u.mdPlace (p.bufVa b + 4 * i) .write = .ok (ad i) ∧ u.mdHome (ad i) .write = true) →
        ∃ t y, exec (.batchBufferWritten n b) s = .next t ∧ SameMem s t ∧ Queues n (some b) ad words s t
          ∧ t.pans.find? n = some y ∧ y = { p with bufs := p.bufs.set b (.flushing lid k) })
      ∧ (∀ b lid k, p.bufs[b]? = some (.flushing lid k) →
        (s.mdWrites.any (fun w => decide (w.pan = n) && decide (w.buf = some b)) = true → exec (.batchBufferWritten n b) s = .next s)
        ∧ (s.mdWrites.any (fun w => decide (w.pan = n) && decide (w.buf = some b)) = false →
          ∃ t y, exec (.batchBufferWritten n b) s = .next t ∧ t.pans.find? n = some y ∧ y.rpos = (p.rpos + k) % p.rcnt
            ∧ y.rlen = p.rlen - k ∧ y.taken = 0 ∧ y.fired = false ∧ y.bufs = p.bufs.set b (.posted lid)
            ∧ ((s.entry (lid % 4096)).st = .waiting → (s.entry (lid % 4096)).pcnt = 1 → (t.entry (lid % 4096)).st = .ready)))
      ∧ (let va := p.bitt + 12 * p.bpos
        let got := (s.threeMend va .read).mdWords (s.threeAt va .read)
        ∀ ws u, p.refillDue = true → p.mayWork = true → got.2 = .ok ws →
        got.1.mdStore n none (p.slotAt (p.rpos + p.rlen)) ws = .ok u →
        ∃ t y, exec (.panRefill n) s = .next t ∧ SameMem s t ∧ t = { u with pans := t.pans } ∧ t.pans.find? n = some y
          ∧ y.rlen = p.rlen + 1 ∧ y.blen = p.blen - 1 ∧ y.bpos = (p.bpos + 1) % p.bcnt ∧ y.c0 = p.c0)
      ∧ (∀ id c, p.fetch = some id → s.cmds.find? id = some c → c.job = .done → c.follow = 0 → c.count = none → c.err = false →
        ∃ t y, exec (.weightFetchComplete n) s = .next t ∧ SameMem s t ∧ t.cmds.find? id = none ∧ t.pans.find? n = some y
          ∧ y.fetch = none ∧ y.present = true ∧ y.waiting = [] ∧ y.times = p.times ∧ y.held = p.held
          ∧ (∀ (b k : Nat) (thr subst late : Bool), p.bufs[b]? = some (BufUse.fired k thr subst late) →
            y.bufs[b]? = some (BufUse.fired k thr subst false))
          ∧ (∀ lid, p.waiting = [lid] → (s.entry (lid % 4096)).st = .waiting → (s.entry (lid % 4096)).pcnt = 1 →
              (t.entry (lid % 4096)).st = .ready))

/-- R394: a write to an update aperture updates the word that bits 14 to 0 of the value name with bits 63 to 32, sets its full
bit and changes no other byte; with a reserved bit set, in reorder or buffer mode, or on an uncorrectable word, it changes
nothing. -/
def Obligations.ApertureUpdates : Prop :=
  ∀ (s : State) (me : Nat) (v : Word), MemInv s → me < 24576 →
    let pa := meBase me + 4 * (v.extractLsb' 0 15).toNat
    let upd (i : Instr) (f : BitVec 32 → BitVec 32 → BitVec 32) : Prop :=
      (v.extractLsb' 15 17 = 0#17 → s.meTaken me = false → s.isBad pa 4 = false → (∀ w ∈ s.watches, slotMode w.slot ≠ 3) →
        ∃ t, exec i s = .next t ∧ SameMemBut pa 4 s t ∧ t.ctxs = s.ctxs
          ∧ t.readMem pa 4 = (f (BitVec.ofNat 32 (s.readMem pa 4)) (v.extractLsb' 32 32)).toNat
          ∧ (s.waitersOf (pa / 8) = [] → t.isFull pa = true))
      ∧ (v.extractLsb' 15 17 ≠ 0#17 ∨ s.meTaken me = true ∨ s.isBad pa 4 = true → exec i s = .next s)
    upd (.apertureMadd me v) (· + ·)
      ∧ upd (.apertureMsaddI me v) (fun x y => BitVec.ofInt 32 (max (-2 ^ 31) (min (2 ^ 31 - 1) (x.toInt + y.toInt))))
      ∧ upd (.apertureMsaddN me v) (fun x y => BitVec.ofNat 32 (min (2 ^ 32 - 1) (x.toNat + y.toNat)))
      ∧ upd (.apertureMminI me v) (fun x y => if x.toInt ≤ y.toInt then x else y)
      ∧ upd (.apertureMmaxI me v) (fun x y => if x.toInt ≤ y.toInt then y else x)
      ∧ upd (.apertureMminN me v) (fun x y => if x.toNat ≤ y.toNat then x else y)
      ∧ upd (.apertureMmaxN me v) (fun x y => if x.toNat ≤ y.toNat then y else x)
      ∧ upd (.apertureMswap me v) (fun _ y => y)

/-- R365, R366, R409, R410: a message that fits is written at WR, which advances, and gives a notice; one larger than the ring is
discarded and counted; one that finds no room waits, and is recorded after 2^20 cycles; the mailbox, HNOTE and plain host
accesses, which wait while something that the host sent before is still on its way (log 33, DEDUCED). -/
def Obligations.RingsAndHost : Prop :=
  ∀ (s : State), MemInv s → let takes (x : Nat) : Prop := s.mayStore hostMaster x = true
    (∀ a d, s.ringDesc a = some d → let quiet := s.inReset d.core = false ∧ (s.chan d.core d.chan).length < 4
        ∧ (s.core d.core).recvq.getD d.chan [] = []
      (∀ msg, msg ≠ [] → msg.length % 8 = 0 → let wr := (d.wr + msg.length) % 2 ^ 32
        let at' := d.base + d.wr % d.size
        (msg.length ≤ d.size → msg.length ≤ d.free → d.wr % d.size + msg.length ≤ d.size →
          (d.base + d.size ≤ a ∨ a + 64 ≤ d.base) → takes at' → takes (a + 12) →
          ∃ t, exec (.ringMessageArrival a msg) s = .next t ∧ t.readMem at' msg.length = leNat msg ∧ t.readMem (a + 12) 4 = wr
            ∧ (∀ x, (x < at' ∨ at' + msg.length ≤ x) → (x < a + 12 ∨ a + 16 ≤ x) → Memory.get t.mem x = Memory.get s.mem x)
            ∧ (quiet → t.chan d.core d.chan = s.chan d.core d.chan ++ [[BitVec.ofNat 64 wr]]))
        ∧ (d.size < msg.length → takes (a + 28) → let rec' := s.recordAddr (coreOf d.owner) (s.core (coreOf d.owner)).recSeq
          (rec' + 128 ≤ a + 28 ∨ a + 32 ≤ rec') →
          ∃ t, exec (.ringMessageArrival a msg) s = .next t ∧ t.readMem (a + 28) 4 = (s.readMem (a + 28) 4 + 1) % 2 ^ 32
            ∧ t.ringq = s.ringq)
        ∧ (msg.length ≤ d.size → d.free < msg.length → exec (.ringMessageArrival a msg) s
          = .next { s with ringq := s.ringq ++ [{ desc := a, msg := msg, host := false, from_ := s.cy, noted := false }] }))
      ∧ (s.notices.contains a = true → quiet → ∃ t, exec (.ringNoticeDelivery a) s = .next t ∧ SameMem s t
          ∧ t.notices = removeNat a s.notices ∧ t.chan d.core d.chan = s.chan d.core d.chan ++ [[BitVec.ofNat 64 d.wr]])
      ∧ (∀ i, s.ringq.findIdx? (fun m => m.desc = a && s.overdue m) = some i → ∃ t, exec (.ringOverflowTimeout a) s = .next t
          ∧ t.ringq = modifyAt s.ringq i (fun m => { m with noted := true })))
    ∧ (∀ bs : List Byte, 8 ≤ bs.length → bs.length ≤ 4096 → bs.length % 8 = 0 → s.readyBit 1 = true →
      let waits : State := { s with hostq := s.hostq ++ [.mail bs] }
      (s.hostBusy = true ∨ s.hostq ≠ [] → exec (.mailboxWrite bs) s = .next waits)
      ∧ (s.hostBusy = false → s.hostq = [] → s.link.mbox = 0 → exec (.mailboxWrite bs) s = .next s)
      ∧ (s.hostBusy = false → s.hostq = [] → s.link.mbox ≠ 0 →
        ∃ t, exec (.ringMessageArrival s.link.mbox.toNat bs) s = .next t
          ∧ (t.ringq = s.ringq → exec (.mailboxWrite bs) s = .next t)
          ∧ (t.ringq ≠ s.ringq → exec (.mailboxWrite bs) s = .next { s with ringq := s.ringq ++
              [{ desc := s.link.mbox.toNat, msg := bs, host := true, from_ := s.cy, noted := false }] })))
    ∧ (∀ v, exec (.hnote v) s = .next { s with hostOut := s.hostOut ++ [v] })
    ∧ (∀ r, s.readyBit 1 = true → s.hostBusy = true ∨ s.hostq ≠ [] →
      exec (.hostAccess r) s = .next { s with hostq := s.hostq ++ [.access r] })
    ∧ (∀ a n, n ∈ [1, 2, 4, 8] → a % n = 0 → s.readyBit 1 = true → s.hostBusy = false → s.hostq = [] → (∃ m, s.home a = .me m) ∨ (∃ c h, s.home a = .dram c h) →
      (s.accepts hostMaster a .read = true → s.isBad a n = false →
          ∃ t, exec (.hostAccess (.read a n)) s = .next t ∧ SameMem s t ∧ t.ctxs = s.ctxs
            ∧ t.hostIn = s.hostIn ++ [bytesOf n (s.readMem a n)])
      ∧ (∀ bs : List Byte, bs.length = n → s.accepts hostMaster a .write = true →
          ∃ t, exec (.hostAccess (.write a bs)) s = .next t ∧ SameMemBut a n s t ∧ t.readMem a n = leNat bs ∧ t.ctxs = s.ctxs))

/-! ### Flits and the package -/

/-- R400 to R404, R406 to R408, R363: a flit is 80 bytes; one for another device leaves on its route, or waits while an earlier
one of its triple is unacknowledged on another port; one outside its classes is discarded and counted; one ahead of its
sequence number waits; requests are walked for and queued for their home, or answered with status 1; RESP and ACK answer the
request that is outstanding; SIGNAL adds; PANQ, PNACK and PRESUME; a flit that failed its check and the loss of a lane. The
model's own choices stand in it: a flit of class 0 or 1 outside its operation's classes is discarded and counted as one of a
reserved operation is (log 68, DEDUCED), an answer belongs to the oldest outstanding request (log 30, DEDUCED), a peer's request
is checked under the table of its receiving port (log 29), AMO and CAS payloads (log 19), retransmission and the loss of a lane
(logs 31 and 32), the order of arrival and what moves in pieces (log 95), a fallback that no route leads to (log 103). -/
def Obligations.FlitArrivals : Prop :=
  ∀ (s : State) (port : Nat) (f : Flit), let own := s.link.devid.toNat
    let kinds : List (Instr × Nat × List Nat) :=
      [(.flitRd port f, 0, [0, 3]), (.flitWr port f, 1, [0, 3]), (.flitAmo port f, 2, [0]), (.flitCas port f, 3, [0]),
       (.flitResp port f, 4, [1]), (.flitAck port f, 5, [1]), (.flitSignal port f, 6, [2]), (.flitPanq port f, 7, [2]),
       (.flitPnack port f, 8, [1]), (.flitPresume port f, 9, [1])]
    let counted (i : Instr) : Prop := exec i s
      = .next { s with link := { s.link with resent := s.link.resent.put port (s.link.resent.getD port 0 + 1) } }
    let told (r : Req) (v : Nat) : Answer :=
      if f.addr % 4 = 2 then .unmapped r.ea else if f.addr % 4 ≠ 0 then .denied r.ea else .value v 0#5
    let leaves (p : Nat) (g : Flit) (t : State) : State :=
      { t with sent := t.sent ++ [(p, flitBytes g)], unacked := t.unacked ++ [(p, g)] }
    let sends (p : Nat) (t : State) (g : Flit) : Prop :=
      t.sent = s.sent ++ [(p, flitBytes g)] ∧ t.unacked = s.unacked ++ [(p, g)]
    let turn : Prop := f.seq = s.expectedSeq f.src f.cls ∧ s.early = []
    let free (p : Nat) : Prop := s.holdsBack p { f with src := own, dst := f.src, cls := 1 } = false
    (flitBytes f).length = 80
    ∧ (∀ x ∈ kinds,
      (f.op = x.2.1 → f.cls ∈ x.2.2 → f.dst ≠ own → ∀ p, s.routeTo f.dst = some p →
        exec x.1 s = .next (if s.holdsBack p f then { s with parked := s.parked ++ [f] } else leaves p f s))
      ∧ (f.op ≠ x.2.1 ∨ f.cls ∉ x.2.2 → counted x.1)
      ∧ (f.op = x.2.1 → f.cls ∈ x.2.2 → f.dst = own → f.cls ≠ 1 → let ahead := (f.seq + 4096 - s.expectedSeq f.src f.cls) % 4096
          0 < ahead → ahead < 2048 → exec x.1 s = .next { s with early := s.early ++ [(s.cy, port, f)] }))
    ∧ counted (.flitReservedOp port f)
    ∧ (s.inFlightOn port = [] → exec (.flitCrcFailure port) s = .next s)
    ∧ (s.inFlightOn port ≠ [] → ∃ g ∈ s.inFlightOn port, ∃ t, exec (.flitCrcFailure port) s = .next t
        ∧ t = { s with sent := s.sent ++ [(port, flitBytes g)], link := t.link }
        ∧ t.link = { s.link with resent := s.link.resent.put port (s.link.resent.getD port 0 + 1) })
    ∧ (f.dst = own →
      (let queued (i : Instr) (op : Nat) (cls : List Nat) (ok : Prop) (k : Acc) (a : AccOp) : Prop :=
          f.op = op → f.cls ∈ cls → turn → let master := (Config.peerMaster f.src).toNat
          let queues (st : ReqState) : Prop := ∃ t r, exec i s = .next t ∧ SameMem s t ∧ t.reqs.find? s.nextId = some r
            ∧ r.owner = .peer f.src f.cls f.seq ∧ r.master = master ∧ r.op = a ∧ r.pa = f.addr ∧ r.ea = f.addr ∧ r.st = st
            ∧ t.ctxs = s.ctxs ∧ t.expectedSeq f.src f.cls = (f.seq + 1) % 4096
            ∧ (st = .walking → ∃ w, t.walks.find? (s.nextId + 1) = some w ∧ w.who = .req s.nextId port ∧ w.va = f.addr ∧ w.kind = k)
          (¬ok → queues (.answered (.denied f.addr)))
          ∧ (ok → inClm f.addr = true → if s.grants (24976 + port) master f.addr k then queues .sent else queues (.answered (.denied f.addr)))
          ∧ (ok → inClm f.addr = false → queues .walking)
       let n := flitCount f; let v := leNat (f.payload.take n)
       queued (.flitRd port f) 0 [0, 3] True .read (if singleWord f n then .read n else .blockRead n 0 0)
        ∧ queued (.flitWr port f) 1 [0, 3] True .write (if singleWord f n then .write n (BitVec.ofNat 64 v) else .blockWrite n 0 v)
        ∧ (let fn := BitVec.ofNat 11 (fieldAt f.payload 8 2)
           queued (.flitAmo port f) 2 [0] (f.addr % (if fnWide fn then 8 else 4) = 0) .atomic (.amo fn (BitVec.ofNat 64 (fieldAt f.payload 0 8))))
        ∧ (let fn := BitVec.ofNat 11 (fieldAt f.payload 16 2)
           queued (.flitCas port f) 3 [0] (f.addr % (if fnWide fn then 8 else 4) = 0) .atomic
             (.cas fn (BitVec.ofNat 64 (fieldAt f.payload 0 8)) (BitVec.ofNat 64 (fieldAt f.payload 8 8)))))
      ∧ (f.op = 4 → f.cls = 1 → ∀ id r n, s.outstanding f.src f.seq false = some (id, r) → r.op = .read n →
          exec (.flitResp port f) s = .next { s with reqs := s.reqs.put id { r with st := .answered (told r (leNat f.payload)) } })
      ∧ (f.op = 5 → f.cls = 1 → ∀ id r n v, s.outstanding f.src f.seq true = some (id, r) → r.op = .write n v →
          exec (.flitAck port f) s = .next { s with reqs := s.reqs.put id { r with st := .answered (told r 0) } })
      ∧ (f.op = 6 → f.cls = 2 → turn → ∀ p, s.routeTo f.src = some p → free p → let core := f.addr / 64 % 256; let sem := f.addr % 64
          let sum := (s.sem core sem).toNat + fieldAt f.payload 0 4
          let ack (st : Nat) : Flit := { op := 5, cls := 1, src := own, dst := f.src, seq := f.seq, len := 0, addr := st, payload := [] }
          (s.inReset core = true → ∃ t, exec (.flitSignal port f) s = .next t ∧ sends p t (ack 3) ∧ t.cores = s.cores)
          ∧ (s.inReset core = false → (s.core core).semq.getD sem [] = [] → ∃ t, exec (.flitSignal port f) s = .next t
              ∧ (t.sem core sem).toNat = min sum (2 ^ 32 - 1) ∧ sends p t (ack (if 2 ^ 32 ≤ sum then 3 else 0)) ∧ SameMem s t))
      ∧ (f.op = 7 → f.cls = 2 → turn → ∀ p, s.routeTo f.src = some p → free p → let pan := f.addr % 4096
          let nack (a : Nat) : Flit := { op := 8, cls := 1, src := own, dst := f.src, seq := f.seq, len := 2, addr := a, payload := bytesOf 2 f.seq }
          (s.pans.find? pan = none → ∃ t, exec (.flitPanq port f) s = .next t ∧ sends p t (nack (pan + 4096)) ∧ t.pans = s.pans)
          ∧ (∀ x, s.pans.find? pan = some x →
            (s.refused.contains (f.src, pan) = true → ∃ t, exec (.flitPanq port f) s = .next t ∧ t.sent = s.sent ∧ t.pans = s.pans)
            ∧ (s.refused.contains (f.src, pan) = false → x.held.isSome = true → ∃ t, exec (.flitPanq port f) s = .next t
                ∧ t.refused = s.refused ++ [(f.src, pan)] ∧ sends p t (nack pan) ∧ t.pans = s.pans)
            ∧ (s.refused.contains (f.src, pan) = false → x.held = none → f.len = 1 → s.replaying 0 = false →
                (∀ q ∈ s.flights, ¬(q.2.rid = peerSource f.src ∧ q.2.pan = pan)) → x.blen = 0 →
                x.rlen < x.rcnt → x.scope.isSome = true → let slot := x.ring + 12 * ((x.rpos + x.rlen) % x.rcnt)
              (∀ j, j < 3 → s.mdHome (slot + 4 * j) .write = true) →
              ∃ t y, exec (.flitPanq port f) s = .next t ∧ t.pans.find? pan = some y ∧ y.rlen = x.rlen + 1 ∧ y.c0 = x.c0 + 1
                ∧ SameMem s t ∧ Queues pan none (fun i => slot + 4 * i)
                    ((List.range 3).map (fun i => fieldAt f.payload 0 12 / 2 ^ (32 * i) % 2 ^ 32)) s t
                ∧ sends p t { op := 5, cls := 1, src := own, dst := f.src, seq := f.seq, len := 0, addr := 0, payload := [] })))
      ∧ (f.op = 8 → f.cls = 1 → ∀ n p a, s.pans = [(n, p)] → p.away = [a] → a.dev = f.src → a.pan = f.addr % 4096 →
          a.seq = fieldAt f.payload 0 2 % 4096 →
          (f.addr / 4096 % 2 = 0 → s.peerBars = [] → exec (.flitPnack port f) s
            = .next { s with pans := [(n, { p with away := [{ a with back := true }] })], peerBars := [(f.src, a.pan, a.seq)] })
          ∧ (f.addr / 4096 % 2 = 1 → p.held = none → p.also = [] → ∃ t y, exec (.flitPnack port f) s = .next t ∧ t.pans = [(n, y)]
            ∧ y = { p with stopped := true, held := some .fallback, away := [{ a with back := true }] }))
      ∧ (f.op = 9 → f.cls = 1 → ∀ n p a, s.pans = [(n, p)] → p.away = [a] → a.dev = f.src → a.pan = f.addr % 4096 →
          a.back = true → ∃ t, exec (.flitPresume port f) s = .next t ∧ (∀ b ∈ t.peerBars, ¬(b.1 = f.src ∧ b.2.1 = a.pan))
            ∧ (∀ p', s.routeTo f.src = some p' → s.soundReady p' = true →
                t.pans = [(n, { p with away := [{ a with seq := s.nextSeq f.src 2, back := false }] })])
            ∧ (s.routeTo f.src = none → p.held = none → p.also = [] →
                t.pans = [(n, { p with stopped := true, held := some .fallback })])))
    ∧ (port < 24 → ∃ t k, exec (.soundPortLaneLoss port) s = .next t ∧ SameMem s t
        ∧ t.sent = s.sent ++ ((s.inFlightOn port).drop k).map (fun g => (port, flitBytes g))
        ∧ (s.link.lanes.getD port 0 = 4 → t.link.lanes.getD port 0 = 3 ∧ t.ready1 = s.ready1)
        ∧ (s.link.lanes.getD port 0 ≠ 4 → t.link.lanes.getD port 0 = 0 ∧ t.soundReady port = false))

/-- R360, R361, R364, R383, R390, R398, R411 to R417, R419 to R422: package reset, the start and the end of the boot check, the ready
bits, the quote, throttle steps and heat, writes of device registers, soft errors, and the start and the end of a copy into a spare:
64 spare rows for each bank and one spare bank for each channel. The model's own choices stand in it: BOOTGO and the end of the check before Etend and stack 0 are ready, during a check and after an image runs
(log 17, DEDUCED), the widths at which a register takes no write (log 15, DEDUCED), when firmware maps a spare and which words it holds (log 67, DESIGN CHOICE), what a
package reset keeps (log 18). -/
def Obligations.PackageEvents : Prop :=
  ∀ (s : State),
    (let kept (m : List Host.Cell) (bad single : List Nat) : State :=
        { State.reset with mem := m, bad := bad, single := single, host := s.host, spares := s.spares, sent := s.sent,
                           hostIn := s.hostIn, hostOut := s.hostOut, etend := s.etend, nextId := s.nextId, cycle := s.cycle,
                           cy := s.cy, tick := s.tick, inputs := s.inputs }
      ∃ t, exec .packageReset s = .next t ∧ t = kept t.mem t.bad t.single
        ∧ ∀ a, Memory.get t.mem a = if 0x4000000000 ≤ a ∧ a < 0x4100000000 then 0 else Memory.get s.mem a)
    ∧ (∀ len, (s.bootReady = true → s.bootstat ≠ 1 → s.bootstat ≠ 2 →
          exec (.bootgo len) s = .next { s with bootstat := 1, bootLen := some len.toNat })
        ∧ (s.bootReady = false ∨ s.bootstat = 1 ∨ s.bootstat = 2 → exec (.bootgo len) s = .next s))
    ∧ (s.bootReady = false → exec .bootCheckDone s = .next s)
    ∧ (∀ len, s.bootReady = true → s.bootLen = some len → MemInv s → ∃ t, exec .bootCheckDone s = .next t ∧ t.bootLen = none
        ∧ t.bootstat = BitVec.ofNat 64 (s.bootCheck len)
        ∧ (if s.bootCheck len = 2 then (t.ctx 0).st = .runnable ∧ (t.ctx 0).status = 1#4
             ∧ (t.ctx 0).pc = BitVec.ofNat 64 (0x4100000000 + s.readMem 8 4)
             ∧ ∀ i, i < s.readMem 12 4 → Memory.get t.mem (0x4100000000 + i) = Memory.get s.mem (1024 + i)
           else t = { s with bootstat := t.bootstat, bootLen := none, single := t.single }))
    ∧ (s.bootReady = true →
      (∀ i, i < 64 → ∃ t, exec (.functionReady (.island i)) s = .next t ∧ t = { s with ready0 := s.ready0 ||| (1#64 <<< i) } ∧ t.islandReady i = true)
      ∧ (∀ p, p < 24 → ∃ t, exec (.functionReady (.sound p)) s = .next t ∧ t.soundReady p = true ∧ t.link.lanes.getD p 0 = 4)
      ∧ (∀ l gib, l < 16 → ∃ t, exec (.functionReady (.cxl l gib)) s = .next t ∧ t.cxlReady l = true ∧ t.cxl.getD l 0 = gib)
      ∧ (∀ n, n < 4 → ∃ t, exec (.functionReady (.stack n)) s = .next t ∧ t.stackReady n = true)
      ∧ (∃ t, exec (.functionReady .md) s = .next t ∧ t.mdReady = true))
    ∧ (∃ t, exec (.functionReady (.stack 0)) s = .next t ∧ t.stackReady 0 = true)
    ∧ (∃ t, exec (.functionReady .etend) s = .next t ∧ t.readyBit 1 = true)
    ∧ (s.bootReady = false → (∀ i, exec (.functionReady (.island i)) s = .next s) ∧ exec (.functionReady .md) s = .next s)
    ∧ (s.imgHash.length = 32 → s.qnonce.length = 4 → ∃ t, exec .qgo s = .next t ∧ t = { s with quote := t.quote } ∧ t.quote.length = 58
        ∧ ∀ i, i < 4 → t.quote.getD (4 + i) 0 = s.qnonce.getD i 0)
    ∧ exec .qdataRead s = .next { s with quote := s.quote.tail }
    ∧ (∃ t, exec .throttleStep s = .next t ∧ t = { s with thr := t.thr } ∧ let p := s.pwr.toNat
        if s.hot ≠ [] then t.thr = 32 else if s.pcap.toNat < p then t.thr = BitVec.ofNat 64 (max 32 (s.thr.toNat - 1))
        else if p + 50 < s.pcap.toNat then t.thr = BitVec.ofNat 64 (min 64 (s.thr.toNat + 1)) else t.thr = s.thr)
    ∧ (∀ die c, (c < 105 → exec (.thermalEvent die c) s = .next { s with hot := removeNat die s.hot })
        ∧ (105 ≤ c → c < 115 → exec (.thermalEvent die c) s = .next { s with hot := insertNat die s.hot, thr := 32 })
        ∧ (115 ≤ c → ∃ t, exec (.thermalEvent die c) s = .next t ∧ t.etend = some die ∧ t.ctxs = [] ∧ t.ready1 = 0))
    ∧ (∀ v : Word, exec (.registerWrite 0x420E000018 8 v) s = .next { s with ptroot := v &&& ~~~0xFFFF#64 }
        ∧ (v ≠ 0 → exec (.registerWrite 0x420E000010 8 v) s = .next { s with grant := v }) ∧ exec (.registerWrite 0x420E000010 8 0) s = .next s
        ∧ (∀ t e, t < 25002 → e < 16 → ∃ u, exec (.registerWrite (0x4200000000 + 0x100 * t + 16 * e) 8 v) s = .next u
            ∧ u.tableEntry t e = (v &&& 0xF80FFFFFFFFFFFFF#64, (s.tableEntry t e).2) ∧ SameMem s u)
        ∧ (∀ t e, t < 25002 → e < 16 → ∃ u, exec (.registerWrite (0x4200000000 + 0x100 * t + 16 * e + 8) 8 v) s = .next u
            ∧ u.tableEntry t e = ((s.tableEntry t e).1, v &&& 0x000FFFFFFFFFFFFF#64) ∧ SameMem s u)
        ∧ (∀ k, k < 256 → let a := 0x420F000000 + 0x40 * k
            let c := s.core k
            exec (.registerWrite (a + 8) 8 v) s = .next (s.setCore k { c with cpc := v })
            ∧ exec (.registerWrite (a + 16) 8 v) s = .next (s.setCore k { c with carg := v })
            ∧ exec (.registerWrite (a + 24) 8 v) s = .next (s.setCore k { c with ctvec := v &&& ~~~3#64 })
            ∧ exec (.registerWrite (a + 32) 8 v) s = .next (s.setCore k { c with cprv := v.getLsbD 0 })
            ∧ exec (.registerWrite (a + 16) 4 v) s
                = .next (s.setCore k { c with carg := c.carg.extractLsb' 32 32 ++ v.extractLsb' 0 32 }))
        ∧ (
            let sys (off : Nat) (t : State) : Prop := exec (.registerWrite (0x420E000000 + off) 8 v) s = .next t
            sys 0x20 { s with spbase := v } ∧ sys 0x28 { s with spsize := v } ∧ sys 0x30 { s with recbase := v }
            ∧ sys 0x38 { s with poolbase := v } ∧ sys 0x40 { s with poolsize := v }
            ∧ (1000 ≤ v.toNat ∧ v.toNat ≤ 3200 → sys 0x58 { s with pcap := v })
            ∧ (v.toNat < 1000 ∨ 3200 < v.toNat → sys 0x58 s)
            ∧ (∀ i, i < 4 → sys (0x100 + 8 * i) { s with qnonce := s.qnonce.set i v })
            ∧ (∀ off ∈ [0x00, 0x08, 0x50, 0x60, 0x68, 0x128], sys off s))
        ∧ (∀ die, die < 4 → let a := 0x420C000000 + 0x10000 * die
            let c := s.traceCore die
            let put (off : Nat) (d : TraceCore) : Prop := exec (.registerWrite (a + off) 8 v) s = .next (s.setTrace die d)
            put 0x00 { c with tbase := v } ∧ put 0x20 { c with lost := v } ∧ put 0x28 { c with rbase := v } ∧ put 0x30 { c with rsize := v }
            ∧ put 0x40 { c with rrd := v } ∧ put 0x48 { c with recctl := v &&& 0x1FFF#64, used := [] }
            ∧ put 0x50 { c with trigact := v &&& 0xFFFF#64 }
            ∧ (c.dropped = 0 → exec (.registerWrite (a + 0x08) 8 v) s = .next (s.setTrace die { c with tsize := v })
                ∧ exec (.registerWrite (a + 0x18) 8 v) s = .next (s.setTrace die { c with trd := v }))
            ∧ (∀ i, i < 16 → put (0x200 + 8 * i) { c with counts := c.counts.set i v })
            ∧ (∀ off ∈ [0x10, 0x38], exec (.registerWrite (a + off) 8 v) s = .next s)
            ∧ exec (.registerWrite (a + 0x58) 4 v) s = .next s)
        ∧ (∀ isl i d, isl < 64 → (s.dbgBlk isl).slots[i]? = some d → i < 16 → let a := 0x4208000000 + 0x40000 * isl + 16 * i
            (∃ t, exec (.registerWrite a 8 v) s = .next t ∧ SameMem s t ∧ (t.dbgBlk isl).slots[i]? = some
                (if v.extractLsb' 60 2 = 3#2 ∨ v.extractLsb' 58 2 = 3#2 then d
                 else ((v &&& 0xFC000000FFFFFFFF#64) ||| (d.1 &&& (1#64 <<< 57) &&& ~~~v), d.2)))
            ∧ ∃ t, exec (.registerWrite (a + 8) 8 v) s = .next t ∧ SameMem s t ∧ (t.dbgBlk isl).slots[i]? = some
                (if 2 < (v.extractLsb' 49 3).toNat then d else (d.1, v &&& 0xFFFE0000FFFFFFFF#64)))
        ∧ (
            let link (off : Nat) (l : LinkBlk) : Prop := exec (.registerWrite (0x420D000000 + off) 8 v) s = .next { s with link := l }
            (v.toNat < 1024 → link 0x00 { s.link with devid := v.setWidth 10 })
            ∧ (v.toNat % 2 ^ 30 = 0 → link 0x08 { s.link with hwbase := v }) ∧ link 0x10 { s.link with mbox := v }
            ∧ (v.toNat < 1024 → ∀ n, n < 64 → link (0x100 + 8 * n) { s.link with pslot := s.link.pslot.put n (v.setWidth 10) })
            ∧ (v &&& 0xFFFFFFFFFFFFFF60#64 = 0 → (v.extractLsb' 0 5).toNat < 24 → ∀ n, n < 1024 →
                link (0x1000 + 8 * n) { s.link with route := s.link.route.put n v }))
        ∧ (∀ a n, (n ≠ 4 ∧ n ≠ 8) ∨ a % n ≠ 0 → exec (.registerWrite a n v) s = .next s))
    ∧ (∀ a, exec (.softError (.uncorrectable a)) s = .next { s with bad := insertNat (a / 8) s.bad, single := removeNat (a / 8) s.single }
        ∧ (s.bad.contains (a / 8) = false → exec (.softError (.single a)) s = .next { s with single := insertNat (a / 8) s.single }))
    ∧ (∀ rid u port r x, s.res.find? rid = some r → r.units[u]? = some x → r.broken = none → r.hold = .running →
        ∀ e ∈ [Upset.parity rid u port, .config rid u], ∃ t q, exec (.softError e) s = .next t ∧ SameMem s t
          ∧ t.res.find? rid = some q ∧ q.broken.isSome = true ∧ q = { r with broken := q.broken })
    ∧ (∀ ch, ∃ t, exec (.spareCopyDone ch) s = .next t ∧ SameMem s t ∧ t.bad = s.bad
        ∧ t.copying = s.copying.filter (fun c => c.channel ≠ ch)
        ∧ ∀ c, s.copying.filter (fun c => c.channel = ch) = [c] → t.single = s.single.filter (fun w => !c.has w)
            ∧ t.spares.getD c.key 0 = s.spares.getD c.key 0 + 1)
    ∧ (∀ w whole, let c := copyOf w whole
        (s.needsSpare w = true → s.spares.getD c.key 0 < (if whole then 1 else 64) → ∃ t, Auto.run (.spare w whole) s = .next t
          ∧ t = { s with copying := s.copying ++ [c] } ∧ (8 * w < 0x3000000000 → t.inCopy (8 * w) = true))
        ∧ ((if whole then 1 else 64) ≤ s.spares.getD c.key 0 → Auto.run (.spare w whole) s = .next s))

/-- R383 to R387, R389 to R391: the start of a stop at an island's controller trees or at a watch slot's unit, its marker passing on
(log 101, DEDUCED: through the tree to everything), its completion, which sets HIT and MODE 0, going on, one run of a trace
core's filter, a software record, a new filter and cleared statistics. That FLEN checks all 64 halfwords and refuses a length
above 64 is log 14 (DEDUCED). -/
def Obligations.DebugAndTrace : Prop :=
  ∀ (s : State),
    (∀ isl, s.stops.find? s.nextId = none → s.nextId ∉ (s.dbgBlk isl).stops → ∃ t x, exec (.istopReq isl) s = .next t ∧ SameMem s t
        ∧ t.ctxs = s.ctxs ∧ (t.dbgBlk isl).stops = (s.dbgBlk isl).stops ++ [s.nextId]
        ∧ t.stops.find? s.nextId = some x ∧ x.islands = [isl] ∧ x.ctxs = [] ∧ x.hits = [] ∧ x.complete = false
        ∧ ∀ rid r, s.res.find? rid = some r → r.island = isl →
            rid ∈ x.regions ∧ ∃ q, t.res.find? rid = some q ∧ r.treeNo ∈ q.halted ∧ q.units = r.units)
    ∧ (∀ rid n r m, s.res.find? rid = some r → r.hold = .running → r.broken = none → r.dbg = false → m ∈ r.halted →
        r.joined m n = true → ∃ t q, Auto.run (.flood rid n) s = .next t ∧ SameMem s t ∧ t.res.find? rid = some q ∧ n ∈ q.halted
          ∧ q.units = r.units ∧ (q.dbg = true ↔ ∀ k, k ≤ r.treeNo → q.halts k = true))
    ∧ (∀ id x, s.stops.find? id = some x → x.complete = false →
        (∀ rid ∈ x.regions, ∀ r, s.res.find? rid = some r → r.dbg = true) → (∀ th ∈ x.ctxs, (s.ctx th).st = .halted) →
        ∃ t y, Auto.run (.stopped id) s = .next t ∧ SameMem s t ∧ t.ctxs = s.ctxs ∧ t.res = s.res ∧ t.stops.find? id = some y
          ∧ y = { x with hits := [], complete := true }
          ∧ ∀ h ∈ x.hits, ∀ d, (s.dbgBlk h.1).slots[h.2]? = some d → slotMode d = 2 → (t.dbgBlk h.1).slots[h.2]? = some (slotHit d))
    ∧ (∀ isl, let ids := (s.dbgBlk isl).stops
        (∀ id ∈ ids, ∃ x, s.stops.find? id = some x ∧ isl ∈ x.islands) → (s.stops.map (·.1)).Nodup →
        ∃ t, exec (.istopCont isl) s = .next t ∧ SameMem s t ∧ (t.dbgBlk isl).stops = [] ∧ (∀ id ∈ ids, t.stops.find? id = none)
          ∧ ∀ id ∈ ids, ∀ x, s.stops.find? id = some x → ∀ rid ∈ x.regions, (∀ y ∈ s.stops, y.1 ∉ ids → rid ∉ y.2.regions) →
              ∀ q, t.res.find? rid = some q → q.dbg = false ∧ q.halted = []
          ∧ ∀ id ∈ ids, ∀ x, s.stops.find? id = some x → ∀ th ∈ x.ctxs, (∀ y ∈ s.stops, y.1 ∉ ids → th ∉ y.2.ctxs) →
              (s.ctx th).broke = true → (t.ctx th).broke = false ∧ (t.ctx th).stop = false
                ∧ (t.ctx th).st = if (s.ctx th).st = .halted then .runnable else (s.ctx th).st)
    ∧ (∀ isl k d, (s.dbgBlk isl).slots[k]? = some d → slotMode d = 2 → slotStop d = 0 → s.stops.find? s.nextId = none →
        s.nextId ∉ (s.dbgBlk isl).stops → (∀ x ∈ s.stops, x.2.complete = true ∨ slotLid d ∉ x.2.regions) →
        (s.res.find? (slotLid d) = none → ∃ t, exec (.debugStop isl k) s = .next t ∧ SameMem s t ∧ t.stops = s.stops ∧ t.dbg = s.dbg)
        ∧ (∀ r, s.res.find? (slotLid d) = some r → r.hold ≠ .fault →
            ∃ t q x, exec (.debugStop isl k) s = .next t ∧ SameMem s t ∧ (t.dbgBlk isl).slots[k]? = some d
              ∧ (t.dbgBlk isl).stops = (s.dbgBlk isl).stops ++ [s.nextId] ∧ t.stops.find? s.nextId = some x
              ∧ x = { islands := [isl], regions := [slotLid d], ctxs := [], hits := [(isl, k)], complete := false }
              ∧ t.res.find? (slotLid d) = some q ∧ r.slotAt d ∈ q.halted ∧ q.units = r.units))
    ∧ (∀ die r q, let c := s.traceCore die
        c.queue = r :: q →
        (c.inForce = [0xE000#16] → exec (.koroFilterRun die) s = .next (s.setTrace die { c with queue := q }))
        ∧ (∀ n : BitVec 4, c.inForce = [0xB00#12 ++ n] →
            exec (.koroFilterRun die) s = .next (s.setTrace die { c with queue := q, counts := modifyAt c.counts n.toNat (· + 1) }))
        ∧ (c.inForce = [] → c.dropped = 0 →
            (ringRoom c.tsize c.twr c.trd 1 = false → exec (.koroFilterRun die) s
              = .next (s.setTrace die { c with queue := q, lost := c.lost + 1, dropped := 1 }))
            ∧ (MemInv s → ringRoom c.tsize c.twr c.trd 1 = true → let a := c.tbase.toNat + c.twr.toNat * 16 % c.tsize.toNat
              s.accepts (traceMaster die) a .write = true →
              ∃ t, exec (.koroFilterRun die) s = .next t ∧ t.readMem a 16 = r.toNat ∧ SameMemBut a 16 s t
                ∧ t.traceCore die = { c with queue := q, twr := c.twr + 1 }))
        ∧ (c.inForce = [] → c.dropped ≠ 0 →
            (ringRoom c.tsize c.twr c.trd 1 = true → ringRoom c.tsize (c.twr + 1) c.trd 1 = false →
              ∃ t, exec (.koroFilterRun die) s = .next t
                ∧ t.traceCore die = { c with queue := q, twr := c.twr + 1, lost := c.lost + 1, dropped := 1 })
            ∧ (ringRoom c.tsize c.twr c.trd 1 = true → ringRoom c.tsize (c.twr + 1) c.trd 1 = true →
              ∃ t, exec (.koroFilterRun die) s = .next t
                ∧ t.traceCore die = { c with queue := q, twr := c.twr + 1 + 1, dropped := 0 })))
    ∧ (∀ die v, ∃ t r, exec (.swrec die v) s = .next t ∧ SameMem s t ∧ (t.traceCore die).queue = (s.traceCore die).queue ++ [r]
        ∧ r.extractLsb' 120 8 = 7#8 ∧ r.extractLsb' 80 40 = s.gcyc.setWidth 40 ∧ r.extractLsb' 16 32 = v.extractLsb' 16 32
        ∧ r.extractLsb' 0 16 = v.extractLsb' 0 16)
    ∧ (∀ die v, let c := s.traceCore die; let n := (v.extractLsb' 0 7 : BitVec 7)
        ((n.toNat ≤ 64 ∧ c.filter.all koroOk = true) → exec (.flenWrite die v) s
          = .next (s.setTrace die { c with flen := n, err := false, inForce := c.filter.take n.toNat }))
        ∧ (¬(n.toNat ≤ 64 ∧ c.filter.all koroOk = true) → exec (.flenWrite die v) s = .next (s.setTrace die { c with err := true })))
    ∧ (∀ isl x y lid r u z, s.holder isl x y = some (lid, r) → r.elemOn x y = some u → r.units[u]? = some z →
        ∃ t q w, exec (.statsClear isl x y) s = .next t ∧ SameMem s t ∧ t.res.find? lid = some q ∧ q.units[u]? = some w
          ∧ w = { z with core := { z.core with stalls := { Stalls.zero with blame := 0, extra := z.core.stalls.extra } } })

/-! ### Reset, invariant, fetching and decoding -/

/-- R7, R8, R14, R54, R210, R213, R230, R383, R390, R398, R411, R416, R417, R419: the values after reset that the spec states. -/
def Obligations.ResetValues : Prop :=
  (∀ tid, let c := State.reset.ctx tid
    c.st = .halted ∧ (∀ r, c.get r = 0) ∧ (∀ v, c.getV v = { lanes := 0, lm := 0xFF }) ∧ (∀ h, (c.getH h).valid = false)
      ∧ (∀ d, c.getD d = { count := 0, err := false }) ∧ c.pc = BitVec.ofNat 64 (clmBase (tid / 8)) ∧ c.prv = true ∧ c.it = false
      ∧ c.tvec = BitVec.ofNat 64 (clmBase (tid / 8)) ∧ c.pri = 0 ∧ c.fpctl = 0 ∧ c.fflags = 0
      ∧ c.epc = 0 ∧ c.tcause = 0 ∧ c.taddr = 0)
  ∧ (∀ k n, State.reset.sem k n = 0) ∧ (∀ k ch, State.reset.chan k ch = [])
  ∧ (∀ a, 0x4000000000 ≤ a → a < 0x4100000000 → Memory.get State.reset.mem a = 0) ∧ (∀ a, State.reset.isFull a = false)
  ∧ (∀ a n, State.reset.isBad a n = false)
  ∧ (∀ t m a, a < 2 ^ 52 → m < 2 ^ 16 → ∀ k, State.reset.grants t m a k = true)
  ∧ State.reset.ready0 = 0 ∧ State.reset.ready1 = 0 ∧ State.reset.grant = -1 ∧ State.reset.ptroot = 0 ∧ State.reset.bootstat = 0
  ∧ State.reset.pcap = 2800 ∧ State.reset.thr = 64 ∧ (∀ i, (State.reset.entry i).st = .free)
  ∧ (∀ i, (State.reset.scope i).inUse = decide (i = 0) ∧ (State.reset.scope i).count = 0) ∧ State.reset.gcyc = 0

/-- R230: byte memory and host memory are in canonical form at reset. -/
def Obligations.ResetInvariant : Prop := MemInv State.reset

/-- The canonical form of memory holds after every step from every state in which it holds. -/
def Obligations.StepsKeepMemory : Prop := ∀ (s t : State), MemInv s → step s = .next t → MemInv t

/-- R9, R25, R135, R434: where no outside event is due and the agent that acts is a core whose chosen context holds no
instruction, a step executes the instruction that the words at its PC decode to, on the state in which that context is
the current one and holds it, and its turn among the operations of the cycle has come; then time passes. -/
def Obligations.StepRunsDecoded : Prop :=
  ∀ (s : State) (core x p : Nat) (i : Instr), let tid := core * 8 + x; let pc := (s.ctx tid).pc.toNat
    let n := fetchLength (BitVec.ofNat 32 (s.readMem pc 4))
    s.inputs = [] → s.agents ≠ [] → s.agents.getD (Config.pick (2 * s.tick) % s.agents.length) .pass = .core core →
    s.choose core (s.eligibleOn core) = some (x, p) → (s.ctx tid).held = none → GoodTarget tid (s.ctx tid).pc →
    pc + 4 * n ≤ clmBase (coreOf tid) + 0x10000 → s.grants (24576 + coreOf tid) tid pc .fetch = true → s.isBad pc (4 * n) = false →
    decode (s.wordsAt pc n) = .ok i →
    ∃ u, u.cur = tid ∧ u.me = { s.ctx tid with held := some i, waited := 0, boosted := false } ∧ SameMem s u
      ∧ (∀ v, v ≠ tid → u.ctx v = s.ctx v)
      ∧ let w := u.turnFor i
        w = { u with turns := w.turns, gcyc := w.gcyc, cycle := w.cycle, cy := w.cy, frac := w.frac }
          ∧ step s = afterwards s (s.turn.bystanders s) (exec i w)

/-- R42: words that decode to no instruction give an illegal-instruction trap with the first word in sy.taddr. -/
def Obligations.ReservedEncodingTraps : Prop :=
  ∀ (s : State) (core x p : Nat), let tid := core * 8 + x; let pc := (s.ctx tid).pc.toNat
    let n := fetchLength (BitVec.ofNat 32 (s.readMem pc 4))
    s.choose core (s.eligibleOn core) = some (x, p) → (s.ctx tid).held = none → (s.ctx tid).it = false → GoodTarget tid (s.ctx tid).pc →
    pc + 4 * n ≤ clmBase (coreOf tid) + 0x10000 → s.grants (24576 + coreOf tid) tid pc .fetch = true → s.isBad pc (4 * n) = false →
    (∀ i, decode (s.wordsAt pc n) ≠ .ok i) →
    ∃ t, exec (.instructionFetch core) s = .next t ∧ SameMem s t ∧ t.cur = tid ∧ t.me.tcause = 1
      ∧ t.me.taddr = BitVec.ofNat 64 (s.readMem pc 4) ∧ t.me.epc = (s.ctx tid).pc ∧ t.me.pc = (s.ctx tid).tvec ∧ t.me.prv = true

/-- R25 to R42, R94, R285: decoding gives back every well-formed instruction that has an encoding, whatever words follow it (a
WSTEP of any ACTION as the one word that they share); every well-formed instruction of a program has an encoding; and an
instruction that is decoded is well formed and is encoded by the words that it was decoded from. -/
def Obligations.DecodeAndEncode : Prop :=
  (∀ (i : Instr) (ws rest : List (BitVec 32)), wellFormed i = true → encode i = some ws → decode (ws ++ rest) = .ok i.asDecoded)
  ∧ (∀ (i : Instr), wellFormed i = true → i.isEvent = false → ∃ ws, encode i = some ws)
  ∧ ∀ (i : Instr) (ws : List (BitVec 32)), decode ws = .ok i →
      wellFormed i = true ∧ encode i = some (ws.take (fetchLength (ws.headD 0)))

/-- R31, R32, R34, R41, R45 to R60, R206, R260, R273, R315, R318: words written out from the encodings decode to the
instructions that they stand for. -/
def Obligations.DecodeWords : Prop :=
  decode [0x08630001#32] = .ok (.addi 3#5 3#5 1#16) ∧ decode [0x6020FFFE#32] = .ok (.bne 1#5 0#5 0xFFFE#16)
    ∧ decode [0x0C478000#32] = .ok (.andi 2#5 7#5 0x8000#16) ∧ decode [0x243FFFFB#32] = .ok (.li 1#5 0x1FFFFB#21)
    ∧ decode [0x20638004#32] = .ok (.srai 3#5 3#5 4#6) ∧ decode [0x048238D9#32] = .ok (.lea 4#5 2#5 7#5 3#2)
    ∧ decode [0x28220040#32] = .ok (.insh 1#5 2#2 0x40#16) ∧ decode [0x77E00002#32] = .ok (.jal 31#5 2#21)
    ∧ decode [0x54E20014#32] = .ok (.stW 7#5 2#5 0x14#16) ∧ decode [0xC4050009#32] = .ok (.sysr 5#5 9#11)
    ∧ decode [0x90403800#32] = .ok (.gbar 7#5) ∧ decode [0x94044800#32] = .ok (.launch 4#5 9#5)
    ∧ decode [0xB8442803#32] = .ok (.semtry 4#5 5#5 3#6) ∧ decode [0xA0642876#32] = .ok (.amoAdd 3#5 4#5 5#5 true true 5#3 true)
    ∧ decode [0xB0022981#32] = .ok (.gld 2#4 5#5 6#5 1#4) ∧ decode [0xBC220003#32] = .ok (.cbwf 2#4 3#11)
    ∧ decode [0x8484C000#32, 0x13029F00#32, 0#32] = .ok (.fma (.vop 2#4 1#4 3#4 0#4)
        { fmt := 0, asel := 1, bsel := 2, csel := 3, rnd := 7, xen := 0, emit := 0, param := 0, imm := 0 })
    ∧ decode [0xB4C00000#32, 0x0600A000#32, 0#32, 0#32, 0#32]
        = .ok (.copy (.issue 6#5 0#5 0#5) { wait := 0, seten := true, setslot := 2 } 0#46)

end
end

