-- ==== Sys2Proof/Laws/Memory.lean ====
section
/-! SUPPORT. Reading memory after a write, and the canonical form that every write keeps. -/

namespace Sys2Proof.Machine.Memory

/-! ### The canonical form -/

theorem wfFrom_mono {lo hi : Nat} {m : List Host.Cell} (h : wfFrom hi m = true) (le : lo ≤ hi) : wfFrom lo m = true := by
  cases m with
  | nil => rfl
  | cons p m =>
    obtain ⟨k, b⟩ := p
    simp only [wfFrom, Bool.and_eq_true, decide_eq_true_eq] at h ⊢
    exact ⟨⟨by omega, h.1.2⟩, h.2⟩

theorem set_wfFrom {lo : Nat} {m : List Host.Cell} (a : Nat) (b : Byte) (h : wfFrom lo m = true) (le : lo ≤ a) :
    wfFrom lo (set m a b) = true := by
  induction m generalizing lo with
  | nil =>
    unfold set
    split <;> simp_all [wfFrom]
  | cons p m ih =>
    obtain ⟨k, x⟩ := p
    simp only [wfFrom, Bool.and_eq_true, decide_eq_true_eq] at h
    unfold set
    split
    · split
      · simp_all [wfFrom]
      · rename_i hb
        simp [wfFrom, hb, le, h.1.2, h.2]
        omega
    · split
      · split
        · exact wfFrom_mono h.2 (by omega)
        · rename_i ha hb
          subst ha
          simp [wfFrom, hb, le, h.2]
      · have := ih h.2 (by omega)
        simp [wfFrom, h.1, this]

/-- A write of one byte keeps the canonical form. -/
theorem set_wf {m : List Host.Cell} (a : Nat) (b : Byte) (h : wf m = true) : wf (set m a b) = true :=
  set_wfFrom a b h (Nat.zero_le a)

/-- A write of any number of bytes keeps the canonical form. -/
theorem write_wf {m : List Host.Cell} (a n v : Nat) (h : wf m = true) : wf (write m a n v) = true := by
  induction n generalizing m a v with
  | zero => exact h
  | succ n ih => exact ih (a + 1) (v / 256) (set_wf a _ h)

theorem filter_wfFrom {lo : Nat} {m : List Host.Cell} (p : Host.Cell → Bool) (h : wfFrom lo m = true) :
    wfFrom lo (m.filter p) = true := by
  induction m generalizing lo with
  | nil => rfl
  | cons c m ih =>
    obtain ⟨k, b⟩ := c
    simp only [wfFrom, Bool.and_eq_true, decide_eq_true_eq] at h
    have t := ih h.2
    by_cases e : p (k, b) = true
    · simp [e, wfFrom, h.1, t]
    · simp only [List.filter_cons, e]
      exact wfFrom_mono t (by omega)

/-- So does dropping bytes, which then read as blank. -/
theorem filter_wf {m : List Host.Cell} (p : Host.Cell → Bool) (h : wf m = true) : wf (m.filter p) = true :=
  filter_wfFrom p h

theorem foldl_set_wf {α : Type} (l : List α) (f : α → Nat) (g : α → Byte) {m : List Host.Cell} (h : wf m = true) :
    wf (l.foldl (fun acc c => set acc (f c) (g c)) m) = true := by
  induction l generalizing m with
  | nil => exact h
  | cons c l ih => exact ih (set_wf _ _ h)

/-! ### Read after write -/

@[simp] theorem get_nil (a : Nat) : get [] a = blank := rfl

@[simp] theorem get_set_same {m : List Host.Cell} (h : wf m = true) (a : Nat) (b : Byte) : get (set m a b) a = b := by
  suffices H : ∀ lo, wfFrom lo m = true → get (set m a b) a = b from H 0 h
  clear h
  induction m with
  | nil =>
    intro lo _
    unfold set
    split <;> simp_all [get]
  | cons p m ih =>
    obtain ⟨k, x⟩ := p
    intro lo h
    simp only [wfFrom, Bool.and_eq_true, decide_eq_true_eq] at h
    have low : ∀ (n : List Host.Cell) (l : Nat), wfFrom l n = true → a < l → get n a = blank := by
      intro n
      induction n with
      | nil => intros; rfl
      | cons q n ihn =>
        intro l hl lt
        simp only [wfFrom, Bool.and_eq_true, decide_eq_true_eq] at hl
        have : a ≠ q.1 := by omega
        simp only [get, this, if_false]
        exact ihn _ hl.2 (by omega)
    unfold set
    split
    · split
      · rename_i lt hb
        have : a ≠ k := by omega
        simp only [get, this, if_false, hb]
        exact low m (k + 1) h.2 (by omega)
      · simp [get]
    · split
      · split
        · rename_i e hb
          rw [hb]
          exact low m (k + 1) h.2 (by omega)
        · simp [get]
      · rename_i ne
        simp only [get, ne, if_false]
        exact ih _ h.2

theorem get_set_ne (m : List Host.Cell) {a x : Nat} (b : Byte) (ne : x ≠ a) : get (set m a b) x = get m x := by
  induction m with
  | nil =>
    unfold set
    split <;> simp [get, ne]
  | cons p m ih =>
    obtain ⟨k, y⟩ := p
    unfold set
    split
    · split <;> simp [get, ne]
    · split
      · rename_i e
        subst e
        split <;> simp [get, ne]
      · simp [get, ih]

/-- A write leaves every byte outside it alone. -/
theorem get_write_out (m : List Host.Cell) {a n x : Nat} (v : Nat) (h : x < a ∨ a + n ≤ x) :
    get (write m a n v) x = get m x := by
  induction n generalizing m a v with
  | zero => rfl
  | succ n ih =>
    simp only [write]
    rw [ih _ _ (by omega), get_set_ne _ _ (by omega)]

/-- Byte `i` of a write. -/
theorem get_write_in {m : List Host.Cell} (h : wf m = true) {a n : Nat} (v i : Nat) (hi : i < n) :
    get (write m a n v) (a + i) = BitVec.ofNat 8 (v / 256 ^ i) := by
  induction n generalizing m a v i with
  | zero => omega
  | succ n ih =>
    simp only [write]
    cases i with
    | zero => simp [get_write_out _ _ (show a < a + 1 ∨ _ from Or.inl (by omega)), get_set_same h]
    | succ i =>
      have := ih (set_wf a (BitVec.ofNat 8 v) h) (a := a + 1) (v / 256) i (by omega)
      rw [show a + (i + 1) = a + 1 + i from by omega, this, Nat.pow_succ', Nat.div_div_eq_div_mul]

theorem read_congr {m k : List Host.Cell} {a n : Nat} (h : ∀ x, a ≤ x → x < a + n → get m x = get k x) :
    read m a n = read k a n := by
  induction n generalizing a with
  | zero => rfl
  | succ n ih =>
    simp only [read]
    rw [h a (by omega) (by omega), ih (fun x h1 h2 => h x (by omega) (by omega))]

/-- A read of the bytes written gives the number written. -/
theorem read_write_same {m : List Host.Cell} (h : wf m = true) (a n v : Nat) :
    read (write m a n v) a n = v % 256 ^ n := by
  induction n generalizing m a v with
  | zero => simp [read, Nat.mod_one]
  | succ n ih =>
    simp only [read, write]
    rw [ih (set_wf a _ h), get_write_out _ _ (Or.inl (by omega)), get_set_same h]
    rw [BitVec.toNat_ofNat, show 2 ^ 8 = 256 from rfl, Nat.pow_succ', Nat.mod_mul]

/-- A read of bytes outside a write gives what it gave before. -/
theorem read_write_out (m : List Host.Cell) {a n x k : Nat} (v : Nat) (h : x + k ≤ a ∨ a + n ≤ x) :
    read (write m a n v) x k = read m x k :=
  read_congr (fun y h1 h2 => get_write_out m v (by omega))

end Sys2Proof.Machine.Memory
end

