-- ==== Sys2Proof/Laws/Map.lean ====
section
/-! SUPPORT. Reading a table after a change of it. -/

namespace Sys2Proof.Map

variable {α : Type}

@[simp] theorem find?_nil (k : Nat) : Map.find? ([] : Map α) k = none := rfl

theorem find?_cons (j : Nat) (v : α) (m : Map α) (k : Nat) :
    Map.find? ((j, v) :: m) k = if k = j then some v else Map.find? m k := rfl

@[simp] theorem find?_put_same (m : Map α) (k : Nat) (v : α) : (m.put k v).find? k = some v := by
  induction m with
  | nil => simp [put, find?]
  | cons p m ih =>
    obtain ⟨j, w⟩ := p
    unfold put
    split
    · simp [find?]
    · split
      · simp [find?]
      · rename_i h
        simp [find?, h, ih]

theorem find?_put_ne (m : Map α) {k x : Nat} (v : α) (h : x ≠ k) : (m.put k v).find? x = m.find? x := by
  induction m with
  | nil => simp [put, find?, h]
  | cons p m ih =>
    obtain ⟨j, w⟩ := p
    unfold put
    split
    · simp [find?, h]
    · split
      · rename_i e
        subst e
        simp [find?, h]
      · simp [find?, ih]

@[simp] theorem getD_put_same (m : Map α) (k : Nat) (v d : α) : (m.put k v).getD k d = v := by simp [getD]

theorem getD_put_ne (m : Map α) {k x : Nat} (v d : α) (h : x ≠ k) : (m.put k v).getD x d = m.getD x d := by
  simp [getD, find?_put_ne m v h]

@[simp] theorem find?_drop_same (m : Map α) (k : Nat) : (m.drop k).find? k = none := by
  induction m with
  | nil => rfl
  | cons p m ih =>
    obtain ⟨j, w⟩ := p
    unfold drop at ih ⊢
    by_cases h : j = k
    · simp [h, ih]
    · have : k ≠ j := fun e => h e.symm
      simp [h, find?, this, ih]

theorem find?_drop_ne (m : Map α) {k x : Nat} (h : x ≠ k) : (m.drop k).find? x = m.find? x := by
  induction m with
  | nil => rfl
  | cons p m ih =>
    obtain ⟨j, w⟩ := p
    unfold drop at ih ⊢
    by_cases e : j = k
    · subst e
      simp [find?, h, ih]
    · simp [e, find?, ih]

@[simp] theorem find?_adjust_same (m : Map α) (k : Nat) (f : α → α) : (m.adjust k f).find? k = (m.find? k).map f := by
  unfold adjust
  cases h : m.find? k with
  | none => simp [h]
  | some v => simp

theorem find?_adjust_ne (m : Map α) {k x : Nat} (f : α → α) (h : x ≠ k) : (m.adjust k f).find? x = m.find? x := by
  unfold adjust
  cases m.find? k with
  | none => rfl
  | some v => simp [find?_put_ne m _ h]

end Sys2Proof.Map
end

