-- ==== Sys2Proof/Laws/State.lean ====
section
/-! SUPPORT. What each update of the state leaves in each field, and what it changes. -/

namespace Sys2Proof.Machine

variable (s : State)

/-! ### setCtx -/

@[simp] theorem State.setCtx_cores (t : Nat) (c : Ctx) : (s.setCtx t c).cores = s.cores := rfl
@[simp] theorem State.setCtx_sync (t : Nat) (c : Ctx) : (s.setCtx t c).sync = s.sync := rfl
@[simp] theorem State.setCtx_mem (t : Nat) (c : Ctx) : (s.setCtx t c).mem = s.mem := rfl
@[simp] theorem State.setCtx_host (t : Nat) (c : Ctx) : (s.setCtx t c).host = s.host := rfl
@[simp] theorem State.setCtx_full (t : Nat) (c : Ctx) : (s.setCtx t c).full = s.full := rfl
@[simp] theorem State.setCtx_bad (t : Nat) (c : Ctx) : (s.setCtx t c).bad = s.bad := rfl
@[simp] theorem State.setCtx_single (t : Nat) (c : Ctx) : (s.setCtx t c).single = s.single := rfl
@[simp] theorem State.setCtx_tables (t : Nat) (c : Ctx) : (s.setCtx t c).tables = s.tables := rfl
@[simp] theorem State.setCtx_cxl (t : Nat) (c : Ctx) : (s.setCtx t c).cxl = s.cxl := rfl
@[simp] theorem State.setCtx_reqs (t : Nat) (c : Ctx) : (s.setCtx t c).reqs = s.reqs := rfl
@[simp] theorem State.setCtx_walks (t : Nat) (c : Ctx) : (s.setCtx t c).walks = s.walks := rfl
@[simp] theorem State.setCtx_msgs (t : Nat) (c : Ctx) : (s.setCtx t c).msgs = s.msgs := rfl
@[simp] theorem State.setCtx_nextId (t : Nat) (c : Ctx) : (s.setCtx t c).nextId = s.nextId := rfl
@[simp] theorem State.setCtx_wakes (t : Nat) (c : Ctx) : (s.setCtx t c).wakes = s.wakes := rfl
@[simp] theorem State.setCtx_res (t : Nat) (c : Ctx) : (s.setCtx t c).res = s.res := rfl
@[simp] theorem State.setCtx_entries (t : Nat) (c : Ctx) : (s.setCtx t c).entries = s.entries := rfl
@[simp] theorem State.setCtx_scopes (t : Nat) (c : Ctx) : (s.setCtx t c).scopes = s.scopes := rfl
@[simp] theorem State.setCtx_reserved (t : Nat) (c : Ctx) : (s.setCtx t c).reserved = s.reserved := rfl
@[simp] theorem State.setCtx_preempt (t : Nat) (c : Ctx) : (s.setCtx t c).preempt = s.preempt := rfl
@[simp] theorem State.setCtx_ready0 (t : Nat) (c : Ctx) : (s.setCtx t c).ready0 = s.ready0 := rfl
@[simp] theorem State.setCtx_ready1 (t : Nat) (c : Ctx) : (s.setCtx t c).ready1 = s.ready1 := rfl
@[simp] theorem State.setCtx_grant (t : Nat) (c : Ctx) : (s.setCtx t c).grant = s.grant := rfl
@[simp] theorem State.setCtx_ptroot (t : Nat) (c : Ctx) : (s.setCtx t c).ptroot = s.ptroot := rfl
@[simp] theorem State.setCtx_spbase (t : Nat) (c : Ctx) : (s.setCtx t c).spbase = s.spbase := rfl
@[simp] theorem State.setCtx_spsize (t : Nat) (c : Ctx) : (s.setCtx t c).spsize = s.spsize := rfl
@[simp] theorem State.setCtx_recbase (t : Nat) (c : Ctx) : (s.setCtx t c).recbase = s.recbase := rfl
@[simp] theorem State.setCtx_poolbase (t : Nat) (c : Ctx) : (s.setCtx t c).poolbase = s.poolbase := rfl
@[simp] theorem State.setCtx_poolsize (t : Nat) (c : Ctx) : (s.setCtx t c).poolsize = s.poolsize := rfl
@[simp] theorem State.setCtx_bootstat (t : Nat) (c : Ctx) : (s.setCtx t c).bootstat = s.bootstat := rfl
@[simp] theorem State.setCtx_pcap (t : Nat) (c : Ctx) : (s.setCtx t c).pcap = s.pcap := rfl
@[simp] theorem State.setCtx_pwr (t : Nat) (c : Ctx) : (s.setCtx t c).pwr = s.pwr := rfl
@[simp] theorem State.setCtx_thr (t : Nat) (c : Ctx) : (s.setCtx t c).thr = s.thr := rfl
@[simp] theorem State.setCtx_qnonce (t : Nat) (c : Ctx) : (s.setCtx t c).qnonce = s.qnonce := rfl
@[simp] theorem State.setCtx_quote (t : Nat) (c : Ctx) : (s.setCtx t c).quote = s.quote := rfl
@[simp] theorem State.setCtx_cmds (t : Nat) (c : Ctx) : (s.setCtx t c).cmds = s.cmds := rfl
@[simp] theorem State.setCtx_tiles (t : Nat) (c : Ctx) : (s.setCtx t c).tiles = s.tiles := rfl
@[simp] theorem State.setCtx_pans (t : Nat) (c : Ctx) : (s.setCtx t c).pans = s.pans := rfl
@[simp] theorem State.setCtx_flights (t : Nat) (c : Ctx) : (s.setCtx t c).flights = s.flights := rfl
@[simp] theorem State.setCtx_mdWrites (t : Nat) (c : Ctx) : (s.setCtx t c).mdWrites = s.mdWrites := rfl
@[simp] theorem State.setCtx_recq (t : Nat) (c : Ctx) : (s.setCtx t c).recq = s.recq := rfl
@[simp] theorem State.setCtx_saved (t : Nat) (c : Ctx) : (s.setCtx t c).saved = s.saved := rfl
@[simp] theorem State.setCtx_reports (t : Nat) (c : Ctx) : (s.setCtx t c).reports = s.reports := rfl
@[simp] theorem State.setCtx_columns (t : Nat) (c : Ctx) : (s.setCtx t c).columns = s.columns := rfl
@[simp] theorem State.setCtx_repair (t : Nat) (c : Ctx) : (s.setCtx t c).repair = s.repair := rfl
@[simp] theorem State.setCtx_copying (t : Nat) (c : Ctx) : (s.setCtx t c).copying = s.copying := rfl
@[simp] theorem State.setCtx_spares (t : Nat) (c : Ctx) : (s.setCtx t c).spares = s.spares := rfl
@[simp] theorem State.setCtx_failover (t : Nat) (c : Ctx) : (s.setCtx t c).failover = s.failover := rfl
@[simp] theorem State.setCtx_dbg (t : Nat) (c : Ctx) : (s.setCtx t c).dbg = s.dbg := rfl
@[simp] theorem State.setCtx_stops (t : Nat) (c : Ctx) : (s.setCtx t c).stops = s.stops := rfl
@[simp] theorem State.setCtx_traces (t : Nat) (c : Ctx) : (s.setCtx t c).traces = s.traces := rfl
@[simp] theorem State.setCtx_arrivals (t : Nat) (c : Ctx) : (s.setCtx t c).arrivals = s.arrivals := rfl
@[simp] theorem State.setCtx_link (t : Nat) (c : Ctx) : (s.setCtx t c).link = s.link := rfl
@[simp] theorem State.setCtx_seqs (t : Nat) (c : Ctx) : (s.setCtx t c).seqs = s.seqs := rfl
@[simp] theorem State.setCtx_sent (t : Nat) (c : Ctx) : (s.setCtx t c).sent = s.sent := rfl
@[simp] theorem State.setCtx_refused (t : Nat) (c : Ctx) : (s.setCtx t c).refused = s.refused := rfl
@[simp] theorem State.setCtx_peerBars (t : Nat) (c : Ctx) : (s.setCtx t c).peerBars = s.peerBars := rfl
@[simp] theorem State.setCtx_unacked (t : Nat) (c : Ctx) : (s.setCtx t c).unacked = s.unacked := rfl
@[simp] theorem State.setCtx_parked (t : Nat) (c : Ctx) : (s.setCtx t c).parked = s.parked := rfl
@[simp] theorem State.setCtx_expects (t : Nat) (c : Ctx) : (s.setCtx t c).expects = s.expects := rfl
@[simp] theorem State.setCtx_early (t : Nat) (c : Ctx) : (s.setCtx t c).early = s.early := rfl
@[simp] theorem State.setCtx_ringq (t : Nat) (c : Ctx) : (s.setCtx t c).ringq = s.ringq := rfl
@[simp] theorem State.setCtx_notices (t : Nat) (c : Ctx) : (s.setCtx t c).notices = s.notices := rfl
@[simp] theorem State.setCtx_hostq (t : Nat) (c : Ctx) : (s.setCtx t c).hostq = s.hostq := rfl
@[simp] theorem State.setCtx_hostIn (t : Nat) (c : Ctx) : (s.setCtx t c).hostIn = s.hostIn := rfl
@[simp] theorem State.setCtx_hostOut (t : Nat) (c : Ctx) : (s.setCtx t c).hostOut = s.hostOut := rfl
@[simp] theorem State.setCtx_bootLen (t : Nat) (c : Ctx) : (s.setCtx t c).bootLen = s.bootLen := rfl
@[simp] theorem State.setCtx_imgHash (t : Nat) (c : Ctx) : (s.setCtx t c).imgHash = s.imgHash := rfl
@[simp] theorem State.setCtx_hot (t : Nat) (c : Ctx) : (s.setCtx t c).hot = s.hot := rfl
@[simp] theorem State.setCtx_etend (t : Nat) (c : Ctx) : (s.setCtx t c).etend = s.etend := rfl
@[simp] theorem State.setCtx_gcyc (t : Nat) (c : Ctx) : (s.setCtx t c).gcyc = s.gcyc := rfl
@[simp] theorem State.setCtx_turns (t : Nat) (c : Ctx) : (s.setCtx t c).turns = s.turns := rfl
@[simp] theorem State.setCtx_cycle (t : Nat) (c : Ctx) : (s.setCtx t c).cycle = s.cycle := rfl
@[simp] theorem State.setCtx_cy (t : Nat) (c : Ctx) : (s.setCtx t c).cy = s.cy := rfl
@[simp] theorem State.setCtx_frac (t : Nat) (c : Ctx) : (s.setCtx t c).frac = s.frac := rfl
@[simp] theorem State.setCtx_tick (t : Nat) (c : Ctx) : (s.setCtx t c).tick = s.tick := rfl
@[simp] theorem State.setCtx_cur (t : Nat) (c : Ctx) : (s.setCtx t c).cur = s.cur := rfl
@[simp] theorem State.setCtx_inputs (t : Nat) (c : Ctx) : (s.setCtx t c).inputs = s.inputs := rfl

/-! ### setMe -/

@[simp] theorem State.setMe_cores (c : Ctx) : (s.setMe c).cores = s.cores := rfl
@[simp] theorem State.setMe_sync (c : Ctx) : (s.setMe c).sync = s.sync := rfl
@[simp] theorem State.setMe_mem (c : Ctx) : (s.setMe c).mem = s.mem := rfl
@[simp] theorem State.setMe_host (c : Ctx) : (s.setMe c).host = s.host := rfl
@[simp] theorem State.setMe_full (c : Ctx) : (s.setMe c).full = s.full := rfl
@[simp] theorem State.setMe_bad (c : Ctx) : (s.setMe c).bad = s.bad := rfl
@[simp] theorem State.setMe_single (c : Ctx) : (s.setMe c).single = s.single := rfl
@[simp] theorem State.setMe_tables (c : Ctx) : (s.setMe c).tables = s.tables := rfl
@[simp] theorem State.setMe_cxl (c : Ctx) : (s.setMe c).cxl = s.cxl := rfl
@[simp] theorem State.setMe_reqs (c : Ctx) : (s.setMe c).reqs = s.reqs := rfl
@[simp] theorem State.setMe_walks (c : Ctx) : (s.setMe c).walks = s.walks := rfl
@[simp] theorem State.setMe_msgs (c : Ctx) : (s.setMe c).msgs = s.msgs := rfl
@[simp] theorem State.setMe_nextId (c : Ctx) : (s.setMe c).nextId = s.nextId := rfl
@[simp] theorem State.setMe_wakes (c : Ctx) : (s.setMe c).wakes = s.wakes := rfl
@[simp] theorem State.setMe_res (c : Ctx) : (s.setMe c).res = s.res := rfl
@[simp] theorem State.setMe_entries (c : Ctx) : (s.setMe c).entries = s.entries := rfl
@[simp] theorem State.setMe_scopes (c : Ctx) : (s.setMe c).scopes = s.scopes := rfl
@[simp] theorem State.setMe_reserved (c : Ctx) : (s.setMe c).reserved = s.reserved := rfl
@[simp] theorem State.setMe_preempt (c : Ctx) : (s.setMe c).preempt = s.preempt := rfl
@[simp] theorem State.setMe_ready0 (c : Ctx) : (s.setMe c).ready0 = s.ready0 := rfl
@[simp] theorem State.setMe_ready1 (c : Ctx) : (s.setMe c).ready1 = s.ready1 := rfl
@[simp] theorem State.setMe_grant (c : Ctx) : (s.setMe c).grant = s.grant := rfl
@[simp] theorem State.setMe_ptroot (c : Ctx) : (s.setMe c).ptroot = s.ptroot := rfl
@[simp] theorem State.setMe_spbase (c : Ctx) : (s.setMe c).spbase = s.spbase := rfl
@[simp] theorem State.setMe_spsize (c : Ctx) : (s.setMe c).spsize = s.spsize := rfl
@[simp] theorem State.setMe_recbase (c : Ctx) : (s.setMe c).recbase = s.recbase := rfl
@[simp] theorem State.setMe_poolbase (c : Ctx) : (s.setMe c).poolbase = s.poolbase := rfl
@[simp] theorem State.setMe_poolsize (c : Ctx) : (s.setMe c).poolsize = s.poolsize := rfl
@[simp] theorem State.setMe_bootstat (c : Ctx) : (s.setMe c).bootstat = s.bootstat := rfl
@[simp] theorem State.setMe_pcap (c : Ctx) : (s.setMe c).pcap = s.pcap := rfl
@[simp] theorem State.setMe_pwr (c : Ctx) : (s.setMe c).pwr = s.pwr := rfl
@[simp] theorem State.setMe_thr (c : Ctx) : (s.setMe c).thr = s.thr := rfl
@[simp] theorem State.setMe_qnonce (c : Ctx) : (s.setMe c).qnonce = s.qnonce := rfl
@[simp] theorem State.setMe_quote (c : Ctx) : (s.setMe c).quote = s.quote := rfl
@[simp] theorem State.setMe_cmds (c : Ctx) : (s.setMe c).cmds = s.cmds := rfl
@[simp] theorem State.setMe_tiles (c : Ctx) : (s.setMe c).tiles = s.tiles := rfl
@[simp] theorem State.setMe_pans (c : Ctx) : (s.setMe c).pans = s.pans := rfl
@[simp] theorem State.setMe_flights (c : Ctx) : (s.setMe c).flights = s.flights := rfl
@[simp] theorem State.setMe_mdWrites (c : Ctx) : (s.setMe c).mdWrites = s.mdWrites := rfl
@[simp] theorem State.setMe_recq (c : Ctx) : (s.setMe c).recq = s.recq := rfl
@[simp] theorem State.setMe_saved (c : Ctx) : (s.setMe c).saved = s.saved := rfl
@[simp] theorem State.setMe_reports (c : Ctx) : (s.setMe c).reports = s.reports := rfl
@[simp] theorem State.setMe_columns (c : Ctx) : (s.setMe c).columns = s.columns := rfl
@[simp] theorem State.setMe_repair (c : Ctx) : (s.setMe c).repair = s.repair := rfl
@[simp] theorem State.setMe_copying (c : Ctx) : (s.setMe c).copying = s.copying := rfl
@[simp] theorem State.setMe_spares (c : Ctx) : (s.setMe c).spares = s.spares := rfl
@[simp] theorem State.setMe_failover (c : Ctx) : (s.setMe c).failover = s.failover := rfl
@[simp] theorem State.setMe_dbg (c : Ctx) : (s.setMe c).dbg = s.dbg := rfl
@[simp] theorem State.setMe_stops (c : Ctx) : (s.setMe c).stops = s.stops := rfl
@[simp] theorem State.setMe_traces (c : Ctx) : (s.setMe c).traces = s.traces := rfl
@[simp] theorem State.setMe_arrivals (c : Ctx) : (s.setMe c).arrivals = s.arrivals := rfl
@[simp] theorem State.setMe_link (c : Ctx) : (s.setMe c).link = s.link := rfl
@[simp] theorem State.setMe_seqs (c : Ctx) : (s.setMe c).seqs = s.seqs := rfl
@[simp] theorem State.setMe_sent (c : Ctx) : (s.setMe c).sent = s.sent := rfl
@[simp] theorem State.setMe_refused (c : Ctx) : (s.setMe c).refused = s.refused := rfl
@[simp] theorem State.setMe_peerBars (c : Ctx) : (s.setMe c).peerBars = s.peerBars := rfl
@[simp] theorem State.setMe_unacked (c : Ctx) : (s.setMe c).unacked = s.unacked := rfl
@[simp] theorem State.setMe_parked (c : Ctx) : (s.setMe c).parked = s.parked := rfl
@[simp] theorem State.setMe_expects (c : Ctx) : (s.setMe c).expects = s.expects := rfl
@[simp] theorem State.setMe_early (c : Ctx) : (s.setMe c).early = s.early := rfl
@[simp] theorem State.setMe_ringq (c : Ctx) : (s.setMe c).ringq = s.ringq := rfl
@[simp] theorem State.setMe_notices (c : Ctx) : (s.setMe c).notices = s.notices := rfl
@[simp] theorem State.setMe_hostq (c : Ctx) : (s.setMe c).hostq = s.hostq := rfl
@[simp] theorem State.setMe_hostIn (c : Ctx) : (s.setMe c).hostIn = s.hostIn := rfl
@[simp] theorem State.setMe_hostOut (c : Ctx) : (s.setMe c).hostOut = s.hostOut := rfl
@[simp] theorem State.setMe_bootLen (c : Ctx) : (s.setMe c).bootLen = s.bootLen := rfl
@[simp] theorem State.setMe_imgHash (c : Ctx) : (s.setMe c).imgHash = s.imgHash := rfl
@[simp] theorem State.setMe_hot (c : Ctx) : (s.setMe c).hot = s.hot := rfl
@[simp] theorem State.setMe_etend (c : Ctx) : (s.setMe c).etend = s.etend := rfl
@[simp] theorem State.setMe_gcyc (c : Ctx) : (s.setMe c).gcyc = s.gcyc := rfl
@[simp] theorem State.setMe_turns (c : Ctx) : (s.setMe c).turns = s.turns := rfl
@[simp] theorem State.setMe_cycle (c : Ctx) : (s.setMe c).cycle = s.cycle := rfl
@[simp] theorem State.setMe_cy (c : Ctx) : (s.setMe c).cy = s.cy := rfl
@[simp] theorem State.setMe_frac (c : Ctx) : (s.setMe c).frac = s.frac := rfl
@[simp] theorem State.setMe_tick (c : Ctx) : (s.setMe c).tick = s.tick := rfl
@[simp] theorem State.setMe_cur (c : Ctx) : (s.setMe c).cur = s.cur := rfl
@[simp] theorem State.setMe_inputs (c : Ctx) : (s.setMe c).inputs = s.inputs := rfl

/-! ### setCore -/

@[simp] theorem State.setCore_ctxs (k : Nat) (c : CoreSt) : (s.setCore k c).ctxs = s.ctxs := rfl
@[simp] theorem State.setCore_sync (k : Nat) (c : CoreSt) : (s.setCore k c).sync = s.sync := rfl
@[simp] theorem State.setCore_mem (k : Nat) (c : CoreSt) : (s.setCore k c).mem = s.mem := rfl
@[simp] theorem State.setCore_host (k : Nat) (c : CoreSt) : (s.setCore k c).host = s.host := rfl
@[simp] theorem State.setCore_full (k : Nat) (c : CoreSt) : (s.setCore k c).full = s.full := rfl
@[simp] theorem State.setCore_bad (k : Nat) (c : CoreSt) : (s.setCore k c).bad = s.bad := rfl
@[simp] theorem State.setCore_single (k : Nat) (c : CoreSt) : (s.setCore k c).single = s.single := rfl
@[simp] theorem State.setCore_tables (k : Nat) (c : CoreSt) : (s.setCore k c).tables = s.tables := rfl
@[simp] theorem State.setCore_cxl (k : Nat) (c : CoreSt) : (s.setCore k c).cxl = s.cxl := rfl
@[simp] theorem State.setCore_reqs (k : Nat) (c : CoreSt) : (s.setCore k c).reqs = s.reqs := rfl
@[simp] theorem State.setCore_walks (k : Nat) (c : CoreSt) : (s.setCore k c).walks = s.walks := rfl
@[simp] theorem State.setCore_msgs (k : Nat) (c : CoreSt) : (s.setCore k c).msgs = s.msgs := rfl
@[simp] theorem State.setCore_nextId (k : Nat) (c : CoreSt) : (s.setCore k c).nextId = s.nextId := rfl
@[simp] theorem State.setCore_wakes (k : Nat) (c : CoreSt) : (s.setCore k c).wakes = s.wakes := rfl
@[simp] theorem State.setCore_res (k : Nat) (c : CoreSt) : (s.setCore k c).res = s.res := rfl
@[simp] theorem State.setCore_entries (k : Nat) (c : CoreSt) : (s.setCore k c).entries = s.entries := rfl
@[simp] theorem State.setCore_scopes (k : Nat) (c : CoreSt) : (s.setCore k c).scopes = s.scopes := rfl
@[simp] theorem State.setCore_reserved (k : Nat) (c : CoreSt) : (s.setCore k c).reserved = s.reserved := rfl
@[simp] theorem State.setCore_preempt (k : Nat) (c : CoreSt) : (s.setCore k c).preempt = s.preempt := rfl
@[simp] theorem State.setCore_ready0 (k : Nat) (c : CoreSt) : (s.setCore k c).ready0 = s.ready0 := rfl
@[simp] theorem State.setCore_ready1 (k : Nat) (c : CoreSt) : (s.setCore k c).ready1 = s.ready1 := rfl
@[simp] theorem State.setCore_grant (k : Nat) (c : CoreSt) : (s.setCore k c).grant = s.grant := rfl
@[simp] theorem State.setCore_ptroot (k : Nat) (c : CoreSt) : (s.setCore k c).ptroot = s.ptroot := rfl
@[simp] theorem State.setCore_spbase (k : Nat) (c : CoreSt) : (s.setCore k c).spbase = s.spbase := rfl
@[simp] theorem State.setCore_spsize (k : Nat) (c : CoreSt) : (s.setCore k c).spsize = s.spsize := rfl
@[simp] theorem State.setCore_recbase (k : Nat) (c : CoreSt) : (s.setCore k c).recbase = s.recbase := rfl
@[simp] theorem State.setCore_poolbase (k : Nat) (c : CoreSt) : (s.setCore k c).poolbase = s.poolbase := rfl
@[simp] theorem State.setCore_poolsize (k : Nat) (c : CoreSt) : (s.setCore k c).poolsize = s.poolsize := rfl
@[simp] theorem State.setCore_bootstat (k : Nat) (c : CoreSt) : (s.setCore k c).bootstat = s.bootstat := rfl
@[simp] theorem State.setCore_pcap (k : Nat) (c : CoreSt) : (s.setCore k c).pcap = s.pcap := rfl
@[simp] theorem State.setCore_pwr (k : Nat) (c : CoreSt) : (s.setCore k c).pwr = s.pwr := rfl
@[simp] theorem State.setCore_thr (k : Nat) (c : CoreSt) : (s.setCore k c).thr = s.thr := rfl
@[simp] theorem State.setCore_qnonce (k : Nat) (c : CoreSt) : (s.setCore k c).qnonce = s.qnonce := rfl
@[simp] theorem State.setCore_quote (k : Nat) (c : CoreSt) : (s.setCore k c).quote = s.quote := rfl
@[simp] theorem State.setCore_cmds (k : Nat) (c : CoreSt) : (s.setCore k c).cmds = s.cmds := rfl
@[simp] theorem State.setCore_tiles (k : Nat) (c : CoreSt) : (s.setCore k c).tiles = s.tiles := rfl
@[simp] theorem State.setCore_pans (k : Nat) (c : CoreSt) : (s.setCore k c).pans = s.pans := rfl
@[simp] theorem State.setCore_flights (k : Nat) (c : CoreSt) : (s.setCore k c).flights = s.flights := rfl
@[simp] theorem State.setCore_mdWrites (k : Nat) (c : CoreSt) : (s.setCore k c).mdWrites = s.mdWrites := rfl
@[simp] theorem State.setCore_recq (k : Nat) (c : CoreSt) : (s.setCore k c).recq = s.recq := rfl
@[simp] theorem State.setCore_saved (k : Nat) (c : CoreSt) : (s.setCore k c).saved = s.saved := rfl
@[simp] theorem State.setCore_reports (k : Nat) (c : CoreSt) : (s.setCore k c).reports = s.reports := rfl
@[simp] theorem State.setCore_columns (k : Nat) (c : CoreSt) : (s.setCore k c).columns = s.columns := rfl
@[simp] theorem State.setCore_repair (k : Nat) (c : CoreSt) : (s.setCore k c).repair = s.repair := rfl
@[simp] theorem State.setCore_copying (k : Nat) (c : CoreSt) : (s.setCore k c).copying = s.copying := rfl
@[simp] theorem State.setCore_spares (k : Nat) (c : CoreSt) : (s.setCore k c).spares = s.spares := rfl
@[simp] theorem State.setCore_failover (k : Nat) (c : CoreSt) : (s.setCore k c).failover = s.failover := rfl
@[simp] theorem State.setCore_dbg (k : Nat) (c : CoreSt) : (s.setCore k c).dbg = s.dbg := rfl
@[simp] theorem State.setCore_stops (k : Nat) (c : CoreSt) : (s.setCore k c).stops = s.stops := rfl
@[simp] theorem State.setCore_traces (k : Nat) (c : CoreSt) : (s.setCore k c).traces = s.traces := rfl
@[simp] theorem State.setCore_arrivals (k : Nat) (c : CoreSt) : (s.setCore k c).arrivals = s.arrivals := rfl
@[simp] theorem State.setCore_link (k : Nat) (c : CoreSt) : (s.setCore k c).link = s.link := rfl
@[simp] theorem State.setCore_seqs (k : Nat) (c : CoreSt) : (s.setCore k c).seqs = s.seqs := rfl
@[simp] theorem State.setCore_sent (k : Nat) (c : CoreSt) : (s.setCore k c).sent = s.sent := rfl
@[simp] theorem State.setCore_refused (k : Nat) (c : CoreSt) : (s.setCore k c).refused = s.refused := rfl
@[simp] theorem State.setCore_peerBars (k : Nat) (c : CoreSt) : (s.setCore k c).peerBars = s.peerBars := rfl
@[simp] theorem State.setCore_unacked (k : Nat) (c : CoreSt) : (s.setCore k c).unacked = s.unacked := rfl
@[simp] theorem State.setCore_parked (k : Nat) (c : CoreSt) : (s.setCore k c).parked = s.parked := rfl
@[simp] theorem State.setCore_expects (k : Nat) (c : CoreSt) : (s.setCore k c).expects = s.expects := rfl
@[simp] theorem State.setCore_early (k : Nat) (c : CoreSt) : (s.setCore k c).early = s.early := rfl
@[simp] theorem State.setCore_ringq (k : Nat) (c : CoreSt) : (s.setCore k c).ringq = s.ringq := rfl
@[simp] theorem State.setCore_notices (k : Nat) (c : CoreSt) : (s.setCore k c).notices = s.notices := rfl
@[simp] theorem State.setCore_hostq (k : Nat) (c : CoreSt) : (s.setCore k c).hostq = s.hostq := rfl
@[simp] theorem State.setCore_hostIn (k : Nat) (c : CoreSt) : (s.setCore k c).hostIn = s.hostIn := rfl
@[simp] theorem State.setCore_hostOut (k : Nat) (c : CoreSt) : (s.setCore k c).hostOut = s.hostOut := rfl
@[simp] theorem State.setCore_bootLen (k : Nat) (c : CoreSt) : (s.setCore k c).bootLen = s.bootLen := rfl
@[simp] theorem State.setCore_imgHash (k : Nat) (c : CoreSt) : (s.setCore k c).imgHash = s.imgHash := rfl
@[simp] theorem State.setCore_hot (k : Nat) (c : CoreSt) : (s.setCore k c).hot = s.hot := rfl
@[simp] theorem State.setCore_etend (k : Nat) (c : CoreSt) : (s.setCore k c).etend = s.etend := rfl
@[simp] theorem State.setCore_gcyc (k : Nat) (c : CoreSt) : (s.setCore k c).gcyc = s.gcyc := rfl
@[simp] theorem State.setCore_turns (k : Nat) (c : CoreSt) : (s.setCore k c).turns = s.turns := rfl
@[simp] theorem State.setCore_cycle (k : Nat) (c : CoreSt) : (s.setCore k c).cycle = s.cycle := rfl
@[simp] theorem State.setCore_cy (k : Nat) (c : CoreSt) : (s.setCore k c).cy = s.cy := rfl
@[simp] theorem State.setCore_frac (k : Nat) (c : CoreSt) : (s.setCore k c).frac = s.frac := rfl
@[simp] theorem State.setCore_tick (k : Nat) (c : CoreSt) : (s.setCore k c).tick = s.tick := rfl
@[simp] theorem State.setCore_cur (k : Nat) (c : CoreSt) : (s.setCore k c).cur = s.cur := rfl
@[simp] theorem State.setCore_inputs (k : Nat) (c : CoreSt) : (s.setCore k c).inputs = s.inputs := rfl

/-! ### writeMem -/

@[simp] theorem State.writeMem_ctxs (a n v : Nat) : (s.writeMem a n v).ctxs = s.ctxs := rfl
@[simp] theorem State.writeMem_cores (a n v : Nat) : (s.writeMem a n v).cores = s.cores := rfl
@[simp] theorem State.writeMem_sync (a n v : Nat) : (s.writeMem a n v).sync = s.sync := rfl
@[simp] theorem State.writeMem_host (a n v : Nat) : (s.writeMem a n v).host = s.host := rfl
@[simp] theorem State.writeMem_full (a n v : Nat) : (s.writeMem a n v).full = s.full := rfl
@[simp] theorem State.writeMem_tables (a n v : Nat) : (s.writeMem a n v).tables = s.tables := rfl
@[simp] theorem State.writeMem_cxl (a n v : Nat) : (s.writeMem a n v).cxl = s.cxl := rfl
@[simp] theorem State.writeMem_reqs (a n v : Nat) : (s.writeMem a n v).reqs = s.reqs := rfl
@[simp] theorem State.writeMem_walks (a n v : Nat) : (s.writeMem a n v).walks = s.walks := rfl
@[simp] theorem State.writeMem_msgs (a n v : Nat) : (s.writeMem a n v).msgs = s.msgs := rfl
@[simp] theorem State.writeMem_nextId (a n v : Nat) : (s.writeMem a n v).nextId = s.nextId := rfl
@[simp] theorem State.writeMem_wakes (a n v : Nat) : (s.writeMem a n v).wakes = s.wakes := rfl
@[simp] theorem State.writeMem_res (a n v : Nat) : (s.writeMem a n v).res = s.res := rfl
@[simp] theorem State.writeMem_entries (a n v : Nat) : (s.writeMem a n v).entries = s.entries := rfl
@[simp] theorem State.writeMem_scopes (a n v : Nat) : (s.writeMem a n v).scopes = s.scopes := rfl
@[simp] theorem State.writeMem_reserved (a n v : Nat) : (s.writeMem a n v).reserved = s.reserved := rfl
@[simp] theorem State.writeMem_preempt (a n v : Nat) : (s.writeMem a n v).preempt = s.preempt := rfl
@[simp] theorem State.writeMem_ready0 (a n v : Nat) : (s.writeMem a n v).ready0 = s.ready0 := rfl
@[simp] theorem State.writeMem_ready1 (a n v : Nat) : (s.writeMem a n v).ready1 = s.ready1 := rfl
@[simp] theorem State.writeMem_grant (a n v : Nat) : (s.writeMem a n v).grant = s.grant := rfl
@[simp] theorem State.writeMem_ptroot (a n v : Nat) : (s.writeMem a n v).ptroot = s.ptroot := rfl
@[simp] theorem State.writeMem_spbase (a n v : Nat) : (s.writeMem a n v).spbase = s.spbase := rfl
@[simp] theorem State.writeMem_spsize (a n v : Nat) : (s.writeMem a n v).spsize = s.spsize := rfl
@[simp] theorem State.writeMem_recbase (a n v : Nat) : (s.writeMem a n v).recbase = s.recbase := rfl
@[simp] theorem State.writeMem_poolbase (a n v : Nat) : (s.writeMem a n v).poolbase = s.poolbase := rfl
@[simp] theorem State.writeMem_poolsize (a n v : Nat) : (s.writeMem a n v).poolsize = s.poolsize := rfl
@[simp] theorem State.writeMem_bootstat (a n v : Nat) : (s.writeMem a n v).bootstat = s.bootstat := rfl
@[simp] theorem State.writeMem_pcap (a n v : Nat) : (s.writeMem a n v).pcap = s.pcap := rfl
@[simp] theorem State.writeMem_pwr (a n v : Nat) : (s.writeMem a n v).pwr = s.pwr := rfl
@[simp] theorem State.writeMem_thr (a n v : Nat) : (s.writeMem a n v).thr = s.thr := rfl
@[simp] theorem State.writeMem_qnonce (a n v : Nat) : (s.writeMem a n v).qnonce = s.qnonce := rfl
@[simp] theorem State.writeMem_quote (a n v : Nat) : (s.writeMem a n v).quote = s.quote := rfl
@[simp] theorem State.writeMem_cmds (a n v : Nat) : (s.writeMem a n v).cmds = s.cmds := rfl
@[simp] theorem State.writeMem_tiles (a n v : Nat) : (s.writeMem a n v).tiles = s.tiles := rfl
@[simp] theorem State.writeMem_pans (a n v : Nat) : (s.writeMem a n v).pans = s.pans := rfl
@[simp] theorem State.writeMem_flights (a n v : Nat) : (s.writeMem a n v).flights = s.flights := rfl
@[simp] theorem State.writeMem_mdWrites (a n v : Nat) : (s.writeMem a n v).mdWrites = s.mdWrites := rfl
@[simp] theorem State.writeMem_recq (a n v : Nat) : (s.writeMem a n v).recq = s.recq := rfl
@[simp] theorem State.writeMem_saved (a n v : Nat) : (s.writeMem a n v).saved = s.saved := rfl
@[simp] theorem State.writeMem_reports (a n v : Nat) : (s.writeMem a n v).reports = s.reports := rfl
@[simp] theorem State.writeMem_columns (a n v : Nat) : (s.writeMem a n v).columns = s.columns := rfl
@[simp] theorem State.writeMem_repair (a n v : Nat) : (s.writeMem a n v).repair = s.repair := rfl
@[simp] theorem State.writeMem_copying (a n v : Nat) : (s.writeMem a n v).copying = s.copying := rfl
@[simp] theorem State.writeMem_spares (a n v : Nat) : (s.writeMem a n v).spares = s.spares := rfl
@[simp] theorem State.writeMem_failover (a n v : Nat) : (s.writeMem a n v).failover = s.failover := rfl
@[simp] theorem State.writeMem_dbg (a n v : Nat) : (s.writeMem a n v).dbg = s.dbg := rfl
@[simp] theorem State.writeMem_stops (a n v : Nat) : (s.writeMem a n v).stops = s.stops := rfl
@[simp] theorem State.writeMem_traces (a n v : Nat) : (s.writeMem a n v).traces = s.traces := rfl
@[simp] theorem State.writeMem_arrivals (a n v : Nat) : (s.writeMem a n v).arrivals = s.arrivals := rfl
@[simp] theorem State.writeMem_link (a n v : Nat) : (s.writeMem a n v).link = s.link := rfl
@[simp] theorem State.writeMem_seqs (a n v : Nat) : (s.writeMem a n v).seqs = s.seqs := rfl
@[simp] theorem State.writeMem_sent (a n v : Nat) : (s.writeMem a n v).sent = s.sent := rfl
@[simp] theorem State.writeMem_refused (a n v : Nat) : (s.writeMem a n v).refused = s.refused := rfl
@[simp] theorem State.writeMem_peerBars (a n v : Nat) : (s.writeMem a n v).peerBars = s.peerBars := rfl
@[simp] theorem State.writeMem_unacked (a n v : Nat) : (s.writeMem a n v).unacked = s.unacked := rfl
@[simp] theorem State.writeMem_parked (a n v : Nat) : (s.writeMem a n v).parked = s.parked := rfl
@[simp] theorem State.writeMem_expects (a n v : Nat) : (s.writeMem a n v).expects = s.expects := rfl
@[simp] theorem State.writeMem_early (a n v : Nat) : (s.writeMem a n v).early = s.early := rfl
@[simp] theorem State.writeMem_ringq (a n v : Nat) : (s.writeMem a n v).ringq = s.ringq := rfl
@[simp] theorem State.writeMem_notices (a n v : Nat) : (s.writeMem a n v).notices = s.notices := rfl
@[simp] theorem State.writeMem_hostq (a n v : Nat) : (s.writeMem a n v).hostq = s.hostq := rfl
@[simp] theorem State.writeMem_hostIn (a n v : Nat) : (s.writeMem a n v).hostIn = s.hostIn := rfl
@[simp] theorem State.writeMem_hostOut (a n v : Nat) : (s.writeMem a n v).hostOut = s.hostOut := rfl
@[simp] theorem State.writeMem_bootLen (a n v : Nat) : (s.writeMem a n v).bootLen = s.bootLen := rfl
@[simp] theorem State.writeMem_imgHash (a n v : Nat) : (s.writeMem a n v).imgHash = s.imgHash := rfl
@[simp] theorem State.writeMem_hot (a n v : Nat) : (s.writeMem a n v).hot = s.hot := rfl
@[simp] theorem State.writeMem_etend (a n v : Nat) : (s.writeMem a n v).etend = s.etend := rfl
@[simp] theorem State.writeMem_gcyc (a n v : Nat) : (s.writeMem a n v).gcyc = s.gcyc := rfl
@[simp] theorem State.writeMem_turns (a n v : Nat) : (s.writeMem a n v).turns = s.turns := rfl
@[simp] theorem State.writeMem_cycle (a n v : Nat) : (s.writeMem a n v).cycle = s.cycle := rfl
@[simp] theorem State.writeMem_cy (a n v : Nat) : (s.writeMem a n v).cy = s.cy := rfl
@[simp] theorem State.writeMem_frac (a n v : Nat) : (s.writeMem a n v).frac = s.frac := rfl
@[simp] theorem State.writeMem_tick (a n v : Nat) : (s.writeMem a n v).tick = s.tick := rfl
@[simp] theorem State.writeMem_cur (a n v : Nat) : (s.writeMem a n v).cur = s.cur := rfl
@[simp] theorem State.writeMem_inputs (a n v : Nat) : (s.writeMem a n v).inputs = s.inputs := rfl

/-! ### corrected -/

@[simp] theorem State.corrected_ctxs (a n : Nat) : (s.corrected a n).ctxs = s.ctxs := rfl
@[simp] theorem State.corrected_cores (a n : Nat) : (s.corrected a n).cores = s.cores := rfl
@[simp] theorem State.corrected_sync (a n : Nat) : (s.corrected a n).sync = s.sync := rfl
@[simp] theorem State.corrected_mem (a n : Nat) : (s.corrected a n).mem = s.mem := rfl
@[simp] theorem State.corrected_host (a n : Nat) : (s.corrected a n).host = s.host := rfl
@[simp] theorem State.corrected_full (a n : Nat) : (s.corrected a n).full = s.full := rfl
@[simp] theorem State.corrected_bad (a n : Nat) : (s.corrected a n).bad = s.bad := rfl
@[simp] theorem State.corrected_tables (a n : Nat) : (s.corrected a n).tables = s.tables := rfl
@[simp] theorem State.corrected_cxl (a n : Nat) : (s.corrected a n).cxl = s.cxl := rfl
@[simp] theorem State.corrected_reqs (a n : Nat) : (s.corrected a n).reqs = s.reqs := rfl
@[simp] theorem State.corrected_walks (a n : Nat) : (s.corrected a n).walks = s.walks := rfl
@[simp] theorem State.corrected_msgs (a n : Nat) : (s.corrected a n).msgs = s.msgs := rfl
@[simp] theorem State.corrected_nextId (a n : Nat) : (s.corrected a n).nextId = s.nextId := rfl
@[simp] theorem State.corrected_wakes (a n : Nat) : (s.corrected a n).wakes = s.wakes := rfl
@[simp] theorem State.corrected_res (a n : Nat) : (s.corrected a n).res = s.res := rfl
@[simp] theorem State.corrected_entries (a n : Nat) : (s.corrected a n).entries = s.entries := rfl
@[simp] theorem State.corrected_scopes (a n : Nat) : (s.corrected a n).scopes = s.scopes := rfl
@[simp] theorem State.corrected_reserved (a n : Nat) : (s.corrected a n).reserved = s.reserved := rfl
@[simp] theorem State.corrected_preempt (a n : Nat) : (s.corrected a n).preempt = s.preempt := rfl
@[simp] theorem State.corrected_ready0 (a n : Nat) : (s.corrected a n).ready0 = s.ready0 := rfl
@[simp] theorem State.corrected_ready1 (a n : Nat) : (s.corrected a n).ready1 = s.ready1 := rfl
@[simp] theorem State.corrected_grant (a n : Nat) : (s.corrected a n).grant = s.grant := rfl
@[simp] theorem State.corrected_ptroot (a n : Nat) : (s.corrected a n).ptroot = s.ptroot := rfl
@[simp] theorem State.corrected_spbase (a n : Nat) : (s.corrected a n).spbase = s.spbase := rfl
@[simp] theorem State.corrected_spsize (a n : Nat) : (s.corrected a n).spsize = s.spsize := rfl
@[simp] theorem State.corrected_recbase (a n : Nat) : (s.corrected a n).recbase = s.recbase := rfl
@[simp] theorem State.corrected_poolbase (a n : Nat) : (s.corrected a n).poolbase = s.poolbase := rfl
@[simp] theorem State.corrected_poolsize (a n : Nat) : (s.corrected a n).poolsize = s.poolsize := rfl
@[simp] theorem State.corrected_bootstat (a n : Nat) : (s.corrected a n).bootstat = s.bootstat := rfl
@[simp] theorem State.corrected_pcap (a n : Nat) : (s.corrected a n).pcap = s.pcap := rfl
@[simp] theorem State.corrected_pwr (a n : Nat) : (s.corrected a n).pwr = s.pwr := rfl
@[simp] theorem State.corrected_thr (a n : Nat) : (s.corrected a n).thr = s.thr := rfl
@[simp] theorem State.corrected_qnonce (a n : Nat) : (s.corrected a n).qnonce = s.qnonce := rfl
@[simp] theorem State.corrected_quote (a n : Nat) : (s.corrected a n).quote = s.quote := rfl
@[simp] theorem State.corrected_cmds (a n : Nat) : (s.corrected a n).cmds = s.cmds := rfl
@[simp] theorem State.corrected_tiles (a n : Nat) : (s.corrected a n).tiles = s.tiles := rfl
@[simp] theorem State.corrected_pans (a n : Nat) : (s.corrected a n).pans = s.pans := rfl
@[simp] theorem State.corrected_flights (a n : Nat) : (s.corrected a n).flights = s.flights := rfl
@[simp] theorem State.corrected_mdWrites (a n : Nat) : (s.corrected a n).mdWrites = s.mdWrites := rfl
@[simp] theorem State.corrected_recq (a n : Nat) : (s.corrected a n).recq = s.recq := rfl
@[simp] theorem State.corrected_saved (a n : Nat) : (s.corrected a n).saved = s.saved := rfl
@[simp] theorem State.corrected_reports (a n : Nat) : (s.corrected a n).reports = s.reports := rfl
@[simp] theorem State.corrected_columns (a n : Nat) : (s.corrected a n).columns = s.columns := rfl
@[simp] theorem State.corrected_repair (a n : Nat) : (s.corrected a n).repair = s.repair := rfl
@[simp] theorem State.corrected_copying (a n : Nat) : (s.corrected a n).copying = s.copying := rfl
@[simp] theorem State.corrected_spares (a n : Nat) : (s.corrected a n).spares = s.spares := rfl
@[simp] theorem State.corrected_failover (a n : Nat) : (s.corrected a n).failover = s.failover := rfl
@[simp] theorem State.corrected_dbg (a n : Nat) : (s.corrected a n).dbg = s.dbg := rfl
@[simp] theorem State.corrected_stops (a n : Nat) : (s.corrected a n).stops = s.stops := rfl
@[simp] theorem State.corrected_traces (a n : Nat) : (s.corrected a n).traces = s.traces := rfl
@[simp] theorem State.corrected_arrivals (a n : Nat) : (s.corrected a n).arrivals = s.arrivals := rfl
@[simp] theorem State.corrected_link (a n : Nat) : (s.corrected a n).link = s.link := rfl
@[simp] theorem State.corrected_seqs (a n : Nat) : (s.corrected a n).seqs = s.seqs := rfl
@[simp] theorem State.corrected_sent (a n : Nat) : (s.corrected a n).sent = s.sent := rfl
@[simp] theorem State.corrected_refused (a n : Nat) : (s.corrected a n).refused = s.refused := rfl
@[simp] theorem State.corrected_peerBars (a n : Nat) : (s.corrected a n).peerBars = s.peerBars := rfl
@[simp] theorem State.corrected_unacked (a n : Nat) : (s.corrected a n).unacked = s.unacked := rfl
@[simp] theorem State.corrected_parked (a n : Nat) : (s.corrected a n).parked = s.parked := rfl
@[simp] theorem State.corrected_expects (a n : Nat) : (s.corrected a n).expects = s.expects := rfl
@[simp] theorem State.corrected_early (a n : Nat) : (s.corrected a n).early = s.early := rfl
@[simp] theorem State.corrected_ringq (a n : Nat) : (s.corrected a n).ringq = s.ringq := rfl
@[simp] theorem State.corrected_notices (a n : Nat) : (s.corrected a n).notices = s.notices := rfl
@[simp] theorem State.corrected_hostq (a n : Nat) : (s.corrected a n).hostq = s.hostq := rfl
@[simp] theorem State.corrected_hostIn (a n : Nat) : (s.corrected a n).hostIn = s.hostIn := rfl
@[simp] theorem State.corrected_hostOut (a n : Nat) : (s.corrected a n).hostOut = s.hostOut := rfl
@[simp] theorem State.corrected_bootLen (a n : Nat) : (s.corrected a n).bootLen = s.bootLen := rfl
@[simp] theorem State.corrected_imgHash (a n : Nat) : (s.corrected a n).imgHash = s.imgHash := rfl
@[simp] theorem State.corrected_hot (a n : Nat) : (s.corrected a n).hot = s.hot := rfl
@[simp] theorem State.corrected_etend (a n : Nat) : (s.corrected a n).etend = s.etend := rfl
@[simp] theorem State.corrected_gcyc (a n : Nat) : (s.corrected a n).gcyc = s.gcyc := rfl
@[simp] theorem State.corrected_turns (a n : Nat) : (s.corrected a n).turns = s.turns := rfl
@[simp] theorem State.corrected_cycle (a n : Nat) : (s.corrected a n).cycle = s.cycle := rfl
@[simp] theorem State.corrected_cy (a n : Nat) : (s.corrected a n).cy = s.cy := rfl
@[simp] theorem State.corrected_frac (a n : Nat) : (s.corrected a n).frac = s.frac := rfl
@[simp] theorem State.corrected_tick (a n : Nat) : (s.corrected a n).tick = s.tick := rfl
@[simp] theorem State.corrected_cur (a n : Nat) : (s.corrected a n).cur = s.cur := rfl
@[simp] theorem State.corrected_inputs (a n : Nat) : (s.corrected a n).inputs = s.inputs := rfl

/-! ### fresh -/

@[simp] theorem State.fresh_ctxs : (s.fresh).ctxs = s.ctxs := rfl
@[simp] theorem State.fresh_cores : (s.fresh).cores = s.cores := rfl
@[simp] theorem State.fresh_sync : (s.fresh).sync = s.sync := rfl
@[simp] theorem State.fresh_mem : (s.fresh).mem = s.mem := rfl
@[simp] theorem State.fresh_host : (s.fresh).host = s.host := rfl
@[simp] theorem State.fresh_full : (s.fresh).full = s.full := rfl
@[simp] theorem State.fresh_bad : (s.fresh).bad = s.bad := rfl
@[simp] theorem State.fresh_single : (s.fresh).single = s.single := rfl
@[simp] theorem State.fresh_tables : (s.fresh).tables = s.tables := rfl
@[simp] theorem State.fresh_cxl : (s.fresh).cxl = s.cxl := rfl
@[simp] theorem State.fresh_reqs : (s.fresh).reqs = s.reqs := rfl
@[simp] theorem State.fresh_walks : (s.fresh).walks = s.walks := rfl
@[simp] theorem State.fresh_msgs : (s.fresh).msgs = s.msgs := rfl
@[simp] theorem State.fresh_wakes : (s.fresh).wakes = s.wakes := rfl
@[simp] theorem State.fresh_res : (s.fresh).res = s.res := rfl
@[simp] theorem State.fresh_entries : (s.fresh).entries = s.entries := rfl
@[simp] theorem State.fresh_scopes : (s.fresh).scopes = s.scopes := rfl
@[simp] theorem State.fresh_reserved : (s.fresh).reserved = s.reserved := rfl
@[simp] theorem State.fresh_preempt : (s.fresh).preempt = s.preempt := rfl
@[simp] theorem State.fresh_ready0 : (s.fresh).ready0 = s.ready0 := rfl
@[simp] theorem State.fresh_ready1 : (s.fresh).ready1 = s.ready1 := rfl
@[simp] theorem State.fresh_grant : (s.fresh).grant = s.grant := rfl
@[simp] theorem State.fresh_ptroot : (s.fresh).ptroot = s.ptroot := rfl
@[simp] theorem State.fresh_spbase : (s.fresh).spbase = s.spbase := rfl
@[simp] theorem State.fresh_spsize : (s.fresh).spsize = s.spsize := rfl
@[simp] theorem State.fresh_recbase : (s.fresh).recbase = s.recbase := rfl
@[simp] theorem State.fresh_poolbase : (s.fresh).poolbase = s.poolbase := rfl
@[simp] theorem State.fresh_poolsize : (s.fresh).poolsize = s.poolsize := rfl
@[simp] theorem State.fresh_bootstat : (s.fresh).bootstat = s.bootstat := rfl
@[simp] theorem State.fresh_pcap : (s.fresh).pcap = s.pcap := rfl
@[simp] theorem State.fresh_pwr : (s.fresh).pwr = s.pwr := rfl
@[simp] theorem State.fresh_thr : (s.fresh).thr = s.thr := rfl
@[simp] theorem State.fresh_qnonce : (s.fresh).qnonce = s.qnonce := rfl
@[simp] theorem State.fresh_quote : (s.fresh).quote = s.quote := rfl
@[simp] theorem State.fresh_cmds : (s.fresh).cmds = s.cmds := rfl
@[simp] theorem State.fresh_tiles : (s.fresh).tiles = s.tiles := rfl
@[simp] theorem State.fresh_pans : (s.fresh).pans = s.pans := rfl
@[simp] theorem State.fresh_flights : (s.fresh).flights = s.flights := rfl
@[simp] theorem State.fresh_mdWrites : (s.fresh).mdWrites = s.mdWrites := rfl
@[simp] theorem State.fresh_recq : (s.fresh).recq = s.recq := rfl
@[simp] theorem State.fresh_saved : (s.fresh).saved = s.saved := rfl
@[simp] theorem State.fresh_reports : (s.fresh).reports = s.reports := rfl
@[simp] theorem State.fresh_columns : (s.fresh).columns = s.columns := rfl
@[simp] theorem State.fresh_repair : (s.fresh).repair = s.repair := rfl
@[simp] theorem State.fresh_copying : (s.fresh).copying = s.copying := rfl
@[simp] theorem State.fresh_spares : (s.fresh).spares = s.spares := rfl
@[simp] theorem State.fresh_failover : (s.fresh).failover = s.failover := rfl
@[simp] theorem State.fresh_dbg : (s.fresh).dbg = s.dbg := rfl
@[simp] theorem State.fresh_stops : (s.fresh).stops = s.stops := rfl
@[simp] theorem State.fresh_traces : (s.fresh).traces = s.traces := rfl
@[simp] theorem State.fresh_arrivals : (s.fresh).arrivals = s.arrivals := rfl
@[simp] theorem State.fresh_link : (s.fresh).link = s.link := rfl
@[simp] theorem State.fresh_seqs : (s.fresh).seqs = s.seqs := rfl
@[simp] theorem State.fresh_sent : (s.fresh).sent = s.sent := rfl
@[simp] theorem State.fresh_refused : (s.fresh).refused = s.refused := rfl
@[simp] theorem State.fresh_peerBars : (s.fresh).peerBars = s.peerBars := rfl
@[simp] theorem State.fresh_unacked : (s.fresh).unacked = s.unacked := rfl
@[simp] theorem State.fresh_parked : (s.fresh).parked = s.parked := rfl
@[simp] theorem State.fresh_expects : (s.fresh).expects = s.expects := rfl
@[simp] theorem State.fresh_early : (s.fresh).early = s.early := rfl
@[simp] theorem State.fresh_ringq : (s.fresh).ringq = s.ringq := rfl
@[simp] theorem State.fresh_notices : (s.fresh).notices = s.notices := rfl
@[simp] theorem State.fresh_hostq : (s.fresh).hostq = s.hostq := rfl
@[simp] theorem State.fresh_hostIn : (s.fresh).hostIn = s.hostIn := rfl
@[simp] theorem State.fresh_hostOut : (s.fresh).hostOut = s.hostOut := rfl
@[simp] theorem State.fresh_bootLen : (s.fresh).bootLen = s.bootLen := rfl
@[simp] theorem State.fresh_imgHash : (s.fresh).imgHash = s.imgHash := rfl
@[simp] theorem State.fresh_hot : (s.fresh).hot = s.hot := rfl
@[simp] theorem State.fresh_etend : (s.fresh).etend = s.etend := rfl
@[simp] theorem State.fresh_gcyc : (s.fresh).gcyc = s.gcyc := rfl
@[simp] theorem State.fresh_turns : (s.fresh).turns = s.turns := rfl
@[simp] theorem State.fresh_cycle : (s.fresh).cycle = s.cycle := rfl
@[simp] theorem State.fresh_cy : (s.fresh).cy = s.cy := rfl
@[simp] theorem State.fresh_frac : (s.fresh).frac = s.frac := rfl
@[simp] theorem State.fresh_tick : (s.fresh).tick = s.tick := rfl
@[simp] theorem State.fresh_cur : (s.fresh).cur = s.cur := rfl
@[simp] theorem State.fresh_inputs : (s.fresh).inputs = s.inputs := rfl

/-! ### putRes -/

@[simp] theorem State.putRes_ctxs (rid : Nat) (r : Residency) : (s.putRes rid r).ctxs = s.ctxs := rfl
@[simp] theorem State.putRes_cores (rid : Nat) (r : Residency) : (s.putRes rid r).cores = s.cores := rfl
@[simp] theorem State.putRes_sync (rid : Nat) (r : Residency) : (s.putRes rid r).sync = s.sync := rfl
@[simp] theorem State.putRes_mem (rid : Nat) (r : Residency) : (s.putRes rid r).mem = s.mem := rfl
@[simp] theorem State.putRes_host (rid : Nat) (r : Residency) : (s.putRes rid r).host = s.host := rfl
@[simp] theorem State.putRes_full (rid : Nat) (r : Residency) : (s.putRes rid r).full = s.full := rfl
@[simp] theorem State.putRes_bad (rid : Nat) (r : Residency) : (s.putRes rid r).bad = s.bad := rfl
@[simp] theorem State.putRes_single (rid : Nat) (r : Residency) : (s.putRes rid r).single = s.single := rfl
@[simp] theorem State.putRes_tables (rid : Nat) (r : Residency) : (s.putRes rid r).tables = s.tables := rfl
@[simp] theorem State.putRes_cxl (rid : Nat) (r : Residency) : (s.putRes rid r).cxl = s.cxl := rfl
@[simp] theorem State.putRes_reqs (rid : Nat) (r : Residency) : (s.putRes rid r).reqs = s.reqs := rfl
@[simp] theorem State.putRes_walks (rid : Nat) (r : Residency) : (s.putRes rid r).walks = s.walks := rfl
@[simp] theorem State.putRes_msgs (rid : Nat) (r : Residency) : (s.putRes rid r).msgs = s.msgs := rfl
@[simp] theorem State.putRes_nextId (rid : Nat) (r : Residency) : (s.putRes rid r).nextId = s.nextId := rfl
@[simp] theorem State.putRes_wakes (rid : Nat) (r : Residency) : (s.putRes rid r).wakes = s.wakes := rfl
@[simp] theorem State.putRes_entries (rid : Nat) (r : Residency) : (s.putRes rid r).entries = s.entries := rfl
@[simp] theorem State.putRes_scopes (rid : Nat) (r : Residency) : (s.putRes rid r).scopes = s.scopes := rfl
@[simp] theorem State.putRes_reserved (rid : Nat) (r : Residency) : (s.putRes rid r).reserved = s.reserved := rfl
@[simp] theorem State.putRes_preempt (rid : Nat) (r : Residency) : (s.putRes rid r).preempt = s.preempt := rfl
@[simp] theorem State.putRes_ready0 (rid : Nat) (r : Residency) : (s.putRes rid r).ready0 = s.ready0 := rfl
@[simp] theorem State.putRes_ready1 (rid : Nat) (r : Residency) : (s.putRes rid r).ready1 = s.ready1 := rfl
@[simp] theorem State.putRes_grant (rid : Nat) (r : Residency) : (s.putRes rid r).grant = s.grant := rfl
@[simp] theorem State.putRes_ptroot (rid : Nat) (r : Residency) : (s.putRes rid r).ptroot = s.ptroot := rfl
@[simp] theorem State.putRes_spbase (rid : Nat) (r : Residency) : (s.putRes rid r).spbase = s.spbase := rfl
@[simp] theorem State.putRes_spsize (rid : Nat) (r : Residency) : (s.putRes rid r).spsize = s.spsize := rfl
@[simp] theorem State.putRes_recbase (rid : Nat) (r : Residency) : (s.putRes rid r).recbase = s.recbase := rfl
@[simp] theorem State.putRes_poolbase (rid : Nat) (r : Residency) : (s.putRes rid r).poolbase = s.poolbase := rfl
@[simp] theorem State.putRes_poolsize (rid : Nat) (r : Residency) : (s.putRes rid r).poolsize = s.poolsize := rfl
@[simp] theorem State.putRes_bootstat (rid : Nat) (r : Residency) : (s.putRes rid r).bootstat = s.bootstat := rfl
@[simp] theorem State.putRes_pcap (rid : Nat) (r : Residency) : (s.putRes rid r).pcap = s.pcap := rfl
@[simp] theorem State.putRes_pwr (rid : Nat) (r : Residency) : (s.putRes rid r).pwr = s.pwr := rfl
@[simp] theorem State.putRes_thr (rid : Nat) (r : Residency) : (s.putRes rid r).thr = s.thr := rfl
@[simp] theorem State.putRes_qnonce (rid : Nat) (r : Residency) : (s.putRes rid r).qnonce = s.qnonce := rfl
@[simp] theorem State.putRes_quote (rid : Nat) (r : Residency) : (s.putRes rid r).quote = s.quote := rfl
@[simp] theorem State.putRes_cmds (rid : Nat) (r : Residency) : (s.putRes rid r).cmds = s.cmds := rfl
@[simp] theorem State.putRes_tiles (rid : Nat) (r : Residency) : (s.putRes rid r).tiles = s.tiles := rfl
@[simp] theorem State.putRes_pans (rid : Nat) (r : Residency) : (s.putRes rid r).pans = s.pans := rfl
@[simp] theorem State.putRes_flights (rid : Nat) (r : Residency) : (s.putRes rid r).flights = s.flights := rfl
@[simp] theorem State.putRes_mdWrites (rid : Nat) (r : Residency) : (s.putRes rid r).mdWrites = s.mdWrites := rfl
@[simp] theorem State.putRes_recq (rid : Nat) (r : Residency) : (s.putRes rid r).recq = s.recq := rfl
@[simp] theorem State.putRes_saved (rid : Nat) (r : Residency) : (s.putRes rid r).saved = s.saved := rfl
@[simp] theorem State.putRes_reports (rid : Nat) (r : Residency) : (s.putRes rid r).reports = s.reports := rfl
@[simp] theorem State.putRes_columns (rid : Nat) (r : Residency) : (s.putRes rid r).columns = s.columns := rfl
@[simp] theorem State.putRes_repair (rid : Nat) (r : Residency) : (s.putRes rid r).repair = s.repair := rfl
@[simp] theorem State.putRes_copying (rid : Nat) (r : Residency) : (s.putRes rid r).copying = s.copying := rfl
@[simp] theorem State.putRes_spares (rid : Nat) (r : Residency) : (s.putRes rid r).spares = s.spares := rfl
@[simp] theorem State.putRes_failover (rid : Nat) (r : Residency) : (s.putRes rid r).failover = s.failover := rfl
@[simp] theorem State.putRes_dbg (rid : Nat) (r : Residency) : (s.putRes rid r).dbg = s.dbg := rfl
@[simp] theorem State.putRes_stops (rid : Nat) (r : Residency) : (s.putRes rid r).stops = s.stops := rfl
@[simp] theorem State.putRes_traces (rid : Nat) (r : Residency) : (s.putRes rid r).traces = s.traces := rfl
@[simp] theorem State.putRes_arrivals (rid : Nat) (r : Residency) : (s.putRes rid r).arrivals = s.arrivals := rfl
@[simp] theorem State.putRes_link (rid : Nat) (r : Residency) : (s.putRes rid r).link = s.link := rfl
@[simp] theorem State.putRes_seqs (rid : Nat) (r : Residency) : (s.putRes rid r).seqs = s.seqs := rfl
@[simp] theorem State.putRes_sent (rid : Nat) (r : Residency) : (s.putRes rid r).sent = s.sent := rfl
@[simp] theorem State.putRes_refused (rid : Nat) (r : Residency) : (s.putRes rid r).refused = s.refused := rfl
@[simp] theorem State.putRes_peerBars (rid : Nat) (r : Residency) : (s.putRes rid r).peerBars = s.peerBars := rfl
@[simp] theorem State.putRes_unacked (rid : Nat) (r : Residency) : (s.putRes rid r).unacked = s.unacked := rfl
@[simp] theorem State.putRes_parked (rid : Nat) (r : Residency) : (s.putRes rid r).parked = s.parked := rfl
@[simp] theorem State.putRes_expects (rid : Nat) (r : Residency) : (s.putRes rid r).expects = s.expects := rfl
@[simp] theorem State.putRes_early (rid : Nat) (r : Residency) : (s.putRes rid r).early = s.early := rfl
@[simp] theorem State.putRes_ringq (rid : Nat) (r : Residency) : (s.putRes rid r).ringq = s.ringq := rfl
@[simp] theorem State.putRes_notices (rid : Nat) (r : Residency) : (s.putRes rid r).notices = s.notices := rfl
@[simp] theorem State.putRes_hostq (rid : Nat) (r : Residency) : (s.putRes rid r).hostq = s.hostq := rfl
@[simp] theorem State.putRes_hostIn (rid : Nat) (r : Residency) : (s.putRes rid r).hostIn = s.hostIn := rfl
@[simp] theorem State.putRes_hostOut (rid : Nat) (r : Residency) : (s.putRes rid r).hostOut = s.hostOut := rfl
@[simp] theorem State.putRes_bootLen (rid : Nat) (r : Residency) : (s.putRes rid r).bootLen = s.bootLen := rfl
@[simp] theorem State.putRes_imgHash (rid : Nat) (r : Residency) : (s.putRes rid r).imgHash = s.imgHash := rfl
@[simp] theorem State.putRes_hot (rid : Nat) (r : Residency) : (s.putRes rid r).hot = s.hot := rfl
@[simp] theorem State.putRes_etend (rid : Nat) (r : Residency) : (s.putRes rid r).etend = s.etend := rfl
@[simp] theorem State.putRes_gcyc (rid : Nat) (r : Residency) : (s.putRes rid r).gcyc = s.gcyc := rfl
@[simp] theorem State.putRes_turns (rid : Nat) (r : Residency) : (s.putRes rid r).turns = s.turns := rfl
@[simp] theorem State.putRes_cycle (rid : Nat) (r : Residency) : (s.putRes rid r).cycle = s.cycle := rfl
@[simp] theorem State.putRes_cy (rid : Nat) (r : Residency) : (s.putRes rid r).cy = s.cy := rfl
@[simp] theorem State.putRes_frac (rid : Nat) (r : Residency) : (s.putRes rid r).frac = s.frac := rfl
@[simp] theorem State.putRes_tick (rid : Nat) (r : Residency) : (s.putRes rid r).tick = s.tick := rfl
@[simp] theorem State.putRes_cur (rid : Nat) (r : Residency) : (s.putRes rid r).cur = s.cur := rfl
@[simp] theorem State.putRes_inputs (rid : Nat) (r : Residency) : (s.putRes rid r).inputs = s.inputs := rfl

/-! ### onRes -/

@[simp] theorem State.onRes_ctxs (rid : Nat) (f : Residency → Residency) : (s.onRes rid f).ctxs = s.ctxs := rfl
@[simp] theorem State.onRes_cores (rid : Nat) (f : Residency → Residency) : (s.onRes rid f).cores = s.cores := rfl
@[simp] theorem State.onRes_sync (rid : Nat) (f : Residency → Residency) : (s.onRes rid f).sync = s.sync := rfl
@[simp] theorem State.onRes_mem (rid : Nat) (f : Residency → Residency) : (s.onRes rid f).mem = s.mem := rfl
@[simp] theorem State.onRes_host (rid : Nat) (f : Residency → Residency) : (s.onRes rid f).host = s.host := rfl
@[simp] theorem State.onRes_full (rid : Nat) (f : Residency → Residency) : (s.onRes rid f).full = s.full := rfl
@[simp] theorem State.onRes_bad (rid : Nat) (f : Residency → Residency) : (s.onRes rid f).bad = s.bad := rfl
@[simp] theorem State.onRes_single (rid : Nat) (f : Residency → Residency) : (s.onRes rid f).single = s.single := rfl
@[simp] theorem State.onRes_tables (rid : Nat) (f : Residency → Residency) : (s.onRes rid f).tables = s.tables := rfl
@[simp] theorem State.onRes_cxl (rid : Nat) (f : Residency → Residency) : (s.onRes rid f).cxl = s.cxl := rfl
@[simp] theorem State.onRes_reqs (rid : Nat) (f : Residency → Residency) : (s.onRes rid f).reqs = s.reqs := rfl
@[simp] theorem State.onRes_walks (rid : Nat) (f : Residency → Residency) : (s.onRes rid f).walks = s.walks := rfl
@[simp] theorem State.onRes_msgs (rid : Nat) (f : Residency → Residency) : (s.onRes rid f).msgs = s.msgs := rfl
@[simp] theorem State.onRes_nextId (rid : Nat) (f : Residency → Residency) : (s.onRes rid f).nextId = s.nextId := rfl
@[simp] theorem State.onRes_wakes (rid : Nat) (f : Residency → Residency) : (s.onRes rid f).wakes = s.wakes := rfl
@[simp] theorem State.onRes_entries (rid : Nat) (f : Residency → Residency) : (s.onRes rid f).entries = s.entries := rfl
@[simp] theorem State.onRes_scopes (rid : Nat) (f : Residency → Residency) : (s.onRes rid f).scopes = s.scopes := rfl
@[simp] theorem State.onRes_reserved (rid : Nat) (f : Residency → Residency) : (s.onRes rid f).reserved = s.reserved := rfl
@[simp] theorem State.onRes_preempt (rid : Nat) (f : Residency → Residency) : (s.onRes rid f).preempt = s.preempt := rfl
@[simp] theorem State.onRes_ready0 (rid : Nat) (f : Residency → Residency) : (s.onRes rid f).ready0 = s.ready0 := rfl
@[simp] theorem State.onRes_ready1 (rid : Nat) (f : Residency → Residency) : (s.onRes rid f).ready1 = s.ready1 := rfl
@[simp] theorem State.onRes_grant (rid : Nat) (f : Residency → Residency) : (s.onRes rid f).grant = s.grant := rfl
@[simp] theorem State.onRes_ptroot (rid : Nat) (f : Residency → Residency) : (s.onRes rid f).ptroot = s.ptroot := rfl
@[simp] theorem State.onRes_spbase (rid : Nat) (f : Residency → Residency) : (s.onRes rid f).spbase = s.spbase := rfl
@[simp] theorem State.onRes_spsize (rid : Nat) (f : Residency → Residency) : (s.onRes rid f).spsize = s.spsize := rfl
@[simp] theorem State.onRes_recbase (rid : Nat) (f : Residency → Residency) : (s.onRes rid f).recbase = s.recbase := rfl
@[simp] theorem State.onRes_poolbase (rid : Nat) (f : Residency → Residency) : (s.onRes rid f).poolbase = s.poolbase := rfl
@[simp] theorem State.onRes_poolsize (rid : Nat) (f : Residency → Residency) : (s.onRes rid f).poolsize = s.poolsize := rfl
@[simp] theorem State.onRes_bootstat (rid : Nat) (f : Residency → Residency) : (s.onRes rid f).bootstat = s.bootstat := rfl
@[simp] theorem State.onRes_pcap (rid : Nat) (f : Residency → Residency) : (s.onRes rid f).pcap = s.pcap := rfl
@[simp] theorem State.onRes_pwr (rid : Nat) (f : Residency → Residency) : (s.onRes rid f).pwr = s.pwr := rfl
@[simp] theorem State.onRes_thr (rid : Nat) (f : Residency → Residency) : (s.onRes rid f).thr = s.thr := rfl
@[simp] theorem State.onRes_qnonce (rid : Nat) (f : Residency → Residency) : (s.onRes rid f).qnonce = s.qnonce := rfl
@[simp] theorem State.onRes_quote (rid : Nat) (f : Residency → Residency) : (s.onRes rid f).quote = s.quote := rfl
@[simp] theorem State.onRes_cmds (rid : Nat) (f : Residency → Residency) : (s.onRes rid f).cmds = s.cmds := rfl
@[simp] theorem State.onRes_tiles (rid : Nat) (f : Residency → Residency) : (s.onRes rid f).tiles = s.tiles := rfl
@[simp] theorem State.onRes_pans (rid : Nat) (f : Residency → Residency) : (s.onRes rid f).pans = s.pans := rfl
@[simp] theorem State.onRes_flights (rid : Nat) (f : Residency → Residency) : (s.onRes rid f).flights = s.flights := rfl
@[simp] theorem State.onRes_mdWrites (rid : Nat) (f : Residency → Residency) : (s.onRes rid f).mdWrites = s.mdWrites := rfl
@[simp] theorem State.onRes_recq (rid : Nat) (f : Residency → Residency) : (s.onRes rid f).recq = s.recq := rfl
@[simp] theorem State.onRes_saved (rid : Nat) (f : Residency → Residency) : (s.onRes rid f).saved = s.saved := rfl
@[simp] theorem State.onRes_reports (rid : Nat) (f : Residency → Residency) : (s.onRes rid f).reports = s.reports := rfl
@[simp] theorem State.onRes_columns (rid : Nat) (f : Residency → Residency) : (s.onRes rid f).columns = s.columns := rfl
@[simp] theorem State.onRes_repair (rid : Nat) (f : Residency → Residency) : (s.onRes rid f).repair = s.repair := rfl
@[simp] theorem State.onRes_copying (rid : Nat) (f : Residency → Residency) : (s.onRes rid f).copying = s.copying := rfl
@[simp] theorem State.onRes_spares (rid : Nat) (f : Residency → Residency) : (s.onRes rid f).spares = s.spares := rfl
@[simp] theorem State.onRes_failover (rid : Nat) (f : Residency → Residency) : (s.onRes rid f).failover = s.failover := rfl
@[simp] theorem State.onRes_dbg (rid : Nat) (f : Residency → Residency) : (s.onRes rid f).dbg = s.dbg := rfl
@[simp] theorem State.onRes_stops (rid : Nat) (f : Residency → Residency) : (s.onRes rid f).stops = s.stops := rfl
@[simp] theorem State.onRes_traces (rid : Nat) (f : Residency → Residency) : (s.onRes rid f).traces = s.traces := rfl
@[simp] theorem State.onRes_arrivals (rid : Nat) (f : Residency → Residency) : (s.onRes rid f).arrivals = s.arrivals := rfl
@[simp] theorem State.onRes_link (rid : Nat) (f : Residency → Residency) : (s.onRes rid f).link = s.link := rfl
@[simp] theorem State.onRes_seqs (rid : Nat) (f : Residency → Residency) : (s.onRes rid f).seqs = s.seqs := rfl
@[simp] theorem State.onRes_sent (rid : Nat) (f : Residency → Residency) : (s.onRes rid f).sent = s.sent := rfl
@[simp] theorem State.onRes_refused (rid : Nat) (f : Residency → Residency) : (s.onRes rid f).refused = s.refused := rfl
@[simp] theorem State.onRes_peerBars (rid : Nat) (f : Residency → Residency) : (s.onRes rid f).peerBars = s.peerBars := rfl
@[simp] theorem State.onRes_unacked (rid : Nat) (f : Residency → Residency) : (s.onRes rid f).unacked = s.unacked := rfl
@[simp] theorem State.onRes_parked (rid : Nat) (f : Residency → Residency) : (s.onRes rid f).parked = s.parked := rfl
@[simp] theorem State.onRes_expects (rid : Nat) (f : Residency → Residency) : (s.onRes rid f).expects = s.expects := rfl
@[simp] theorem State.onRes_early (rid : Nat) (f : Residency → Residency) : (s.onRes rid f).early = s.early := rfl
@[simp] theorem State.onRes_ringq (rid : Nat) (f : Residency → Residency) : (s.onRes rid f).ringq = s.ringq := rfl
@[simp] theorem State.onRes_notices (rid : Nat) (f : Residency → Residency) : (s.onRes rid f).notices = s.notices := rfl
@[simp] theorem State.onRes_hostq (rid : Nat) (f : Residency → Residency) : (s.onRes rid f).hostq = s.hostq := rfl
@[simp] theorem State.onRes_hostIn (rid : Nat) (f : Residency → Residency) : (s.onRes rid f).hostIn = s.hostIn := rfl
@[simp] theorem State.onRes_hostOut (rid : Nat) (f : Residency → Residency) : (s.onRes rid f).hostOut = s.hostOut := rfl
@[simp] theorem State.onRes_bootLen (rid : Nat) (f : Residency → Residency) : (s.onRes rid f).bootLen = s.bootLen := rfl
@[simp] theorem State.onRes_imgHash (rid : Nat) (f : Residency → Residency) : (s.onRes rid f).imgHash = s.imgHash := rfl
@[simp] theorem State.onRes_hot (rid : Nat) (f : Residency → Residency) : (s.onRes rid f).hot = s.hot := rfl
@[simp] theorem State.onRes_etend (rid : Nat) (f : Residency → Residency) : (s.onRes rid f).etend = s.etend := rfl
@[simp] theorem State.onRes_gcyc (rid : Nat) (f : Residency → Residency) : (s.onRes rid f).gcyc = s.gcyc := rfl
@[simp] theorem State.onRes_turns (rid : Nat) (f : Residency → Residency) : (s.onRes rid f).turns = s.turns := rfl
@[simp] theorem State.onRes_cycle (rid : Nat) (f : Residency → Residency) : (s.onRes rid f).cycle = s.cycle := rfl
@[simp] theorem State.onRes_cy (rid : Nat) (f : Residency → Residency) : (s.onRes rid f).cy = s.cy := rfl
@[simp] theorem State.onRes_frac (rid : Nat) (f : Residency → Residency) : (s.onRes rid f).frac = s.frac := rfl
@[simp] theorem State.onRes_tick (rid : Nat) (f : Residency → Residency) : (s.onRes rid f).tick = s.tick := rfl
@[simp] theorem State.onRes_cur (rid : Nat) (f : Residency → Residency) : (s.onRes rid f).cur = s.cur := rfl
@[simp] theorem State.onRes_inputs (rid : Nat) (f : Residency → Residency) : (s.onRes rid f).inputs = s.inputs := rfl

/-! ### setCmd -/

@[simp] theorem State.setCmd_ctxs (id : Nat) (f : Cmd → Cmd) : (s.setCmd id f).ctxs = s.ctxs := rfl
@[simp] theorem State.setCmd_cores (id : Nat) (f : Cmd → Cmd) : (s.setCmd id f).cores = s.cores := rfl
@[simp] theorem State.setCmd_sync (id : Nat) (f : Cmd → Cmd) : (s.setCmd id f).sync = s.sync := rfl
@[simp] theorem State.setCmd_mem (id : Nat) (f : Cmd → Cmd) : (s.setCmd id f).mem = s.mem := rfl
@[simp] theorem State.setCmd_host (id : Nat) (f : Cmd → Cmd) : (s.setCmd id f).host = s.host := rfl
@[simp] theorem State.setCmd_full (id : Nat) (f : Cmd → Cmd) : (s.setCmd id f).full = s.full := rfl
@[simp] theorem State.setCmd_bad (id : Nat) (f : Cmd → Cmd) : (s.setCmd id f).bad = s.bad := rfl
@[simp] theorem State.setCmd_single (id : Nat) (f : Cmd → Cmd) : (s.setCmd id f).single = s.single := rfl
@[simp] theorem State.setCmd_tables (id : Nat) (f : Cmd → Cmd) : (s.setCmd id f).tables = s.tables := rfl
@[simp] theorem State.setCmd_cxl (id : Nat) (f : Cmd → Cmd) : (s.setCmd id f).cxl = s.cxl := rfl
@[simp] theorem State.setCmd_reqs (id : Nat) (f : Cmd → Cmd) : (s.setCmd id f).reqs = s.reqs := rfl
@[simp] theorem State.setCmd_walks (id : Nat) (f : Cmd → Cmd) : (s.setCmd id f).walks = s.walks := rfl
@[simp] theorem State.setCmd_msgs (id : Nat) (f : Cmd → Cmd) : (s.setCmd id f).msgs = s.msgs := rfl
@[simp] theorem State.setCmd_nextId (id : Nat) (f : Cmd → Cmd) : (s.setCmd id f).nextId = s.nextId := rfl
@[simp] theorem State.setCmd_wakes (id : Nat) (f : Cmd → Cmd) : (s.setCmd id f).wakes = s.wakes := rfl
@[simp] theorem State.setCmd_res (id : Nat) (f : Cmd → Cmd) : (s.setCmd id f).res = s.res := rfl
@[simp] theorem State.setCmd_entries (id : Nat) (f : Cmd → Cmd) : (s.setCmd id f).entries = s.entries := rfl
@[simp] theorem State.setCmd_scopes (id : Nat) (f : Cmd → Cmd) : (s.setCmd id f).scopes = s.scopes := rfl
@[simp] theorem State.setCmd_reserved (id : Nat) (f : Cmd → Cmd) : (s.setCmd id f).reserved = s.reserved := rfl
@[simp] theorem State.setCmd_preempt (id : Nat) (f : Cmd → Cmd) : (s.setCmd id f).preempt = s.preempt := rfl
@[simp] theorem State.setCmd_ready0 (id : Nat) (f : Cmd → Cmd) : (s.setCmd id f).ready0 = s.ready0 := rfl
@[simp] theorem State.setCmd_ready1 (id : Nat) (f : Cmd → Cmd) : (s.setCmd id f).ready1 = s.ready1 := rfl
@[simp] theorem State.setCmd_grant (id : Nat) (f : Cmd → Cmd) : (s.setCmd id f).grant = s.grant := rfl
@[simp] theorem State.setCmd_ptroot (id : Nat) (f : Cmd → Cmd) : (s.setCmd id f).ptroot = s.ptroot := rfl
@[simp] theorem State.setCmd_spbase (id : Nat) (f : Cmd → Cmd) : (s.setCmd id f).spbase = s.spbase := rfl
@[simp] theorem State.setCmd_spsize (id : Nat) (f : Cmd → Cmd) : (s.setCmd id f).spsize = s.spsize := rfl
@[simp] theorem State.setCmd_recbase (id : Nat) (f : Cmd → Cmd) : (s.setCmd id f).recbase = s.recbase := rfl
@[simp] theorem State.setCmd_poolbase (id : Nat) (f : Cmd → Cmd) : (s.setCmd id f).poolbase = s.poolbase := rfl
@[simp] theorem State.setCmd_poolsize (id : Nat) (f : Cmd → Cmd) : (s.setCmd id f).poolsize = s.poolsize := rfl
@[simp] theorem State.setCmd_bootstat (id : Nat) (f : Cmd → Cmd) : (s.setCmd id f).bootstat = s.bootstat := rfl
@[simp] theorem State.setCmd_pcap (id : Nat) (f : Cmd → Cmd) : (s.setCmd id f).pcap = s.pcap := rfl
@[simp] theorem State.setCmd_pwr (id : Nat) (f : Cmd → Cmd) : (s.setCmd id f).pwr = s.pwr := rfl
@[simp] theorem State.setCmd_thr (id : Nat) (f : Cmd → Cmd) : (s.setCmd id f).thr = s.thr := rfl
@[simp] theorem State.setCmd_qnonce (id : Nat) (f : Cmd → Cmd) : (s.setCmd id f).qnonce = s.qnonce := rfl
@[simp] theorem State.setCmd_quote (id : Nat) (f : Cmd → Cmd) : (s.setCmd id f).quote = s.quote := rfl
@[simp] theorem State.setCmd_tiles (id : Nat) (f : Cmd → Cmd) : (s.setCmd id f).tiles = s.tiles := rfl
@[simp] theorem State.setCmd_pans (id : Nat) (f : Cmd → Cmd) : (s.setCmd id f).pans = s.pans := rfl
@[simp] theorem State.setCmd_flights (id : Nat) (f : Cmd → Cmd) : (s.setCmd id f).flights = s.flights := rfl
@[simp] theorem State.setCmd_mdWrites (id : Nat) (f : Cmd → Cmd) : (s.setCmd id f).mdWrites = s.mdWrites := rfl
@[simp] theorem State.setCmd_recq (id : Nat) (f : Cmd → Cmd) : (s.setCmd id f).recq = s.recq := rfl
@[simp] theorem State.setCmd_saved (id : Nat) (f : Cmd → Cmd) : (s.setCmd id f).saved = s.saved := rfl
@[simp] theorem State.setCmd_reports (id : Nat) (f : Cmd → Cmd) : (s.setCmd id f).reports = s.reports := rfl
@[simp] theorem State.setCmd_columns (id : Nat) (f : Cmd → Cmd) : (s.setCmd id f).columns = s.columns := rfl
@[simp] theorem State.setCmd_repair (id : Nat) (f : Cmd → Cmd) : (s.setCmd id f).repair = s.repair := rfl
@[simp] theorem State.setCmd_copying (id : Nat) (f : Cmd → Cmd) : (s.setCmd id f).copying = s.copying := rfl
@[simp] theorem State.setCmd_spares (id : Nat) (f : Cmd → Cmd) : (s.setCmd id f).spares = s.spares := rfl
@[simp] theorem State.setCmd_failover (id : Nat) (f : Cmd → Cmd) : (s.setCmd id f).failover = s.failover := rfl
@[simp] theorem State.setCmd_dbg (id : Nat) (f : Cmd → Cmd) : (s.setCmd id f).dbg = s.dbg := rfl
@[simp] theorem State.setCmd_stops (id : Nat) (f : Cmd → Cmd) : (s.setCmd id f).stops = s.stops := rfl
@[simp] theorem State.setCmd_traces (id : Nat) (f : Cmd → Cmd) : (s.setCmd id f).traces = s.traces := rfl
@[simp] theorem State.setCmd_arrivals (id : Nat) (f : Cmd → Cmd) : (s.setCmd id f).arrivals = s.arrivals := rfl
@[simp] theorem State.setCmd_link (id : Nat) (f : Cmd → Cmd) : (s.setCmd id f).link = s.link := rfl
@[simp] theorem State.setCmd_seqs (id : Nat) (f : Cmd → Cmd) : (s.setCmd id f).seqs = s.seqs := rfl
@[simp] theorem State.setCmd_sent (id : Nat) (f : Cmd → Cmd) : (s.setCmd id f).sent = s.sent := rfl
@[simp] theorem State.setCmd_refused (id : Nat) (f : Cmd → Cmd) : (s.setCmd id f).refused = s.refused := rfl
@[simp] theorem State.setCmd_peerBars (id : Nat) (f : Cmd → Cmd) : (s.setCmd id f).peerBars = s.peerBars := rfl
@[simp] theorem State.setCmd_unacked (id : Nat) (f : Cmd → Cmd) : (s.setCmd id f).unacked = s.unacked := rfl
@[simp] theorem State.setCmd_parked (id : Nat) (f : Cmd → Cmd) : (s.setCmd id f).parked = s.parked := rfl
@[simp] theorem State.setCmd_expects (id : Nat) (f : Cmd → Cmd) : (s.setCmd id f).expects = s.expects := rfl
@[simp] theorem State.setCmd_early (id : Nat) (f : Cmd → Cmd) : (s.setCmd id f).early = s.early := rfl
@[simp] theorem State.setCmd_ringq (id : Nat) (f : Cmd → Cmd) : (s.setCmd id f).ringq = s.ringq := rfl
@[simp] theorem State.setCmd_notices (id : Nat) (f : Cmd → Cmd) : (s.setCmd id f).notices = s.notices := rfl
@[simp] theorem State.setCmd_hostq (id : Nat) (f : Cmd → Cmd) : (s.setCmd id f).hostq = s.hostq := rfl
@[simp] theorem State.setCmd_hostIn (id : Nat) (f : Cmd → Cmd) : (s.setCmd id f).hostIn = s.hostIn := rfl
@[simp] theorem State.setCmd_hostOut (id : Nat) (f : Cmd → Cmd) : (s.setCmd id f).hostOut = s.hostOut := rfl
@[simp] theorem State.setCmd_bootLen (id : Nat) (f : Cmd → Cmd) : (s.setCmd id f).bootLen = s.bootLen := rfl
@[simp] theorem State.setCmd_imgHash (id : Nat) (f : Cmd → Cmd) : (s.setCmd id f).imgHash = s.imgHash := rfl
@[simp] theorem State.setCmd_hot (id : Nat) (f : Cmd → Cmd) : (s.setCmd id f).hot = s.hot := rfl
@[simp] theorem State.setCmd_etend (id : Nat) (f : Cmd → Cmd) : (s.setCmd id f).etend = s.etend := rfl
@[simp] theorem State.setCmd_gcyc (id : Nat) (f : Cmd → Cmd) : (s.setCmd id f).gcyc = s.gcyc := rfl
@[simp] theorem State.setCmd_turns (id : Nat) (f : Cmd → Cmd) : (s.setCmd id f).turns = s.turns := rfl
@[simp] theorem State.setCmd_cycle (id : Nat) (f : Cmd → Cmd) : (s.setCmd id f).cycle = s.cycle := rfl
@[simp] theorem State.setCmd_cy (id : Nat) (f : Cmd → Cmd) : (s.setCmd id f).cy = s.cy := rfl
@[simp] theorem State.setCmd_frac (id : Nat) (f : Cmd → Cmd) : (s.setCmd id f).frac = s.frac := rfl
@[simp] theorem State.setCmd_tick (id : Nat) (f : Cmd → Cmd) : (s.setCmd id f).tick = s.tick := rfl
@[simp] theorem State.setCmd_cur (id : Nat) (f : Cmd → Cmd) : (s.setCmd id f).cur = s.cur := rfl
@[simp] theorem State.setCmd_inputs (id : Nat) (f : Cmd → Cmd) : (s.setCmd id f).inputs = s.inputs := rfl

/-! ### What they change -/

@[simp] theorem State.ctx_setCtx_same (t : Nat) (c : Ctx) : (s.setCtx t c).ctx t = c := by simp [State.ctx, State.setCtx]

theorem State.ctx_setCtx_ne {t u : Nat} (c : Ctx) (h : u ≠ t) : (s.setCtx t c).ctx u = s.ctx u := by
  simp [State.ctx, State.setCtx, Map.getD_put_ne _ _ _ h]

@[simp] theorem State.me_setMe (c : Ctx) : (s.setMe c).me = c := by
  show (s.setCtx s.cur c).ctx s.cur = c
  simp

theorem State.ctx_setMe_ne {u : Nat} (c : Ctx) (h : u ≠ s.cur) : (s.setMe c).ctx u = s.ctx u :=
  State.ctx_setCtx_ne s c h

@[simp] theorem State.core_setCore_same (k : Nat) (c : CoreSt) : (s.setCore k c).core k = c := by
  simp [State.core, State.setCore]

theorem State.core_setCore_ne {k j : Nat} (c : CoreSt) (h : j ≠ k) : (s.setCore k c).core j = s.core j := by
  simp [State.core, State.setCore, Map.getD_put_ne _ _ _ h]

@[simp] theorem State.core_setCtx (t : Nat) (c : Ctx) (k : Nat) : (s.setCtx t c).core k = s.core k := rfl
@[simp] theorem State.ctx_setCore (k : Nat) (c : CoreSt) (t : Nat) : (s.setCore k c).ctx t = s.ctx t := rfl
@[simp] theorem State.ctx_writeMem (a n v t : Nat) : (s.writeMem a n v).ctx t = s.ctx t := rfl
@[simp] theorem State.core_writeMem (a n v k : Nat) : (s.writeMem a n v).core k = s.core k := rfl
@[simp] theorem State.writeMem_mem (a n v : Nat) : (s.writeMem a n v).mem = Memory.write s.mem a n v := rfl
@[simp] theorem State.fresh_nextId : s.fresh.nextId = s.nextId + 1 := rfl

theorem State.writeMem_wf (a n v : Nat) (h : Memory.wf s.mem = true) : Memory.wf (s.writeMem a n v).mem = true :=
  Memory.write_wf a n v h

theorem State.readMem_writeMem_same (a n v : Nat) (h : Memory.wf s.mem = true) :
    (s.writeMem a n v).readMem a n = v % 256 ^ n :=
  Memory.read_write_same h a n v

theorem State.readMem_writeMem_out {a n x k : Nat} (v : Nat) (h : x + k ≤ a ∨ a + n ≤ x) :
    (s.writeMem a n v).readMem x k = s.readMem x k :=
  Memory.read_write_out s.mem v h

@[simp] theorem State.putRes_find (rid : Nat) (r : Residency) : (s.putRes rid r).res.find? rid = some r := by
  simp [State.putRes]

@[simp] theorem State.setCmd_find (id : Nat) (f : Cmd → Cmd) : (s.setCmd id f).cmds.find? id = (s.cmds.find? id).map f := by
  simp [State.setCmd]

end Sys2Proof.Machine
end

