-- ==== Sys2Proof/Laws/Access.lean ====
section
/-! SUPPORT. The state's memory operations keep the canonical form of memory, and what each leaves of the bytes (R53, R56,
R230, R257). -/

namespace Sys2Proof.Machine

variable (s : State)

/-! ### Full bits and wait lists -/

/-- Serving a request of a wait list moves no byte. -/
theorem State.serveOne_bytes (id : Nat) : (s.serveOne id).mem = s.mem ∧ (s.serveOne id).host = s.host := by
  unfold State.serveOne
  dsimp only
  repeat' split
  all_goals exact ⟨rfl, rfl⟩

/-- A fold of updates that move no byte moves none. -/
theorem foldl_bytes {α : Type} (l : List α) (f : State → α → State)
    (h : ∀ t a, (f t a).mem = t.mem ∧ (f t a).host = t.host) :
    (l.foldl f s).mem = s.mem ∧ (l.foldl f s).host = s.host := by
  induction l generalizing s with
  | nil => exact ⟨rfl, rfl⟩
  | cons a l ih => exact ⟨(ih (f s a)).1.trans (h s a).1, (ih (f s a)).2.trans (h s a).2⟩

/-- Making words full moves no byte. -/
theorem State.setFull_bytes (pa n : Nat) : (s.setFull pa n).mem = s.mem ∧ (s.setFull pa n).host = s.host := by
  unfold State.setFull
  split
  · refine foldl_bytes s _ _ (fun t w => ?_)
    exact foldl_bytes { t with full := insertNat w t.full } _ _ State.serveOne_bytes
  · exact ⟨rfl, rfl⟩

/-! ### The canonical form is kept -/

variable {s}

theorem memInv_of_bytes {t : State} (h : MemInv s) (e : t.mem = s.mem ∧ t.host = s.host) : MemInv t := by
  unfold MemInv
  rw [e.1, e.2]
  exact h

theorem memInv_writeMem (h : MemInv s) (pa n v : Nat) : MemInv (s.writeMem pa n v) := ⟨Memory.write_wf pa n v h.1, h.2⟩

theorem memInv_store (h : MemInv s) (pa n v : Nat) : MemInv (s.store pa n v) := by
  unfold State.store
  split
  · exact ⟨h.1, Memory.write_wf _ n v h.2⟩
  · exact memInv_writeMem h pa n v

theorem memInv_setFull (h : MemInv s) (pa n : Nat) : MemInv (s.setFull pa n) := memInv_of_bytes h (s.setFull_bytes pa n)

theorem memInv_serveOne (h : MemInv s) (id : Nat) : MemInv (s.serveOne id) := memInv_of_bytes h (s.serveOne_bytes id)

/-! ### Bytes -/

/-- A write leaves every byte outside its own. -/
theorem writeMem_sameBut (pa n v : Nat) : SameMemBut pa n s (s.writeMem pa n v) :=
  fun _ h => Memory.get_write_out s.mem v h

/-- A store at a home that is not the host's leaves every byte outside its own, and reads back what it stored. -/
theorem store_spec (h : MemInv s) {pa : Nat} (n v : Nat) (home : s.home pa ≠ .host) :
    SameMemBut pa n s (s.store pa n v) ∧ (s.store pa n v).readMem pa n = v % 256 ^ n := by
  have e : s.store pa n v = s.writeMem pa n v := by
    unfold State.store
    split
    · exact absurd ‹_› home
    · rfl
  rw [e]
  exact ⟨writeMem_sameBut pa n v, Memory.read_write_same h.1 pa n v⟩

/-- A store into the host's memory moves no byte of the package. -/
theorem store_host {pa : Nat} (n v : Nat) (home : s.home pa = .host) : SameMem s (s.store pa n v) := by
  intro a
  unfold State.store
  rw [home]

/-! ### Reads, and walks at one instant -/

/-- `t` differs from `s` in nothing but the words with a single-bit error and the quote's place (R230, R416). -/
def Mended (s t : State) : Prop := t = { s with single := t.single, quote := t.quote }

theorem mended_refl (s : State) : Mended s s := rfl

theorem Mended.trans {s t u : State} (h : Mended s t) (k : Mended t u) : Mended s u := by
  unfold Mended at *
  rw [k, h]

theorem State.corrected_mended (pa n : Nat) : Mended s (s.corrected pa n) := rfl

theorem State.readAt_mended (master pa n ea : Nat) : Mended s (s.readAt master pa n ea).1 := by
  unfold State.readAt State.regRead
  repeat' split
  all_goals first
    | exact mended_refl s
    | exact s.corrected_mended pa n
    | rfl

theorem State.readPte_mended (a : Nat) : Mended s (s.readPte a).1 := by
  have h := s.readAt_mended walkMaster a 8 a
  unfold State.readPte
  split
  · exact mended_refl s
  · split <;> (rename_i e; rw [e] at h; exact h)

theorem State.walkMend_mended (va : Nat) (k : Acc) (fuel : Nat) : ∀ (s : State) (lvl base : Nat),
    Mended s (s.walkMend va k fuel lvl base) := by
  induction fuel with
  | zero => intro s _ _; exact mended_refl s
  | succ n ih =>
    intro s lvl base
    have h := s.readPte_mended (pteAddr lvl base va)
    unfold State.walkMend
    split
    · rename_i e
      rw [e] at h
      split
      · exact h.trans (ih _ _ _)
      · exact h
    · rename_i e
      rw [e] at h
      exact h

theorem State.mendWalk_mended (va : Nat) (k : Acc) : Mended s (s.mendWalk va k) := by
  unfold State.mendWalk
  split
  · exact mended_refl s
  · exact s.walkMend_mended va k 4 1 s.ptroot.toNat

theorem State.mend_mended (va n : Nat) : Mended s (s.mend va n) := by
  unfold State.mend
  split
  · exact mended_refl s
  · rename_i h
    clear h
    generalize dwordsOf _ _ = l
    induction l generalizing s with
    | nil => exact mended_refl s
    | cons a l ih =>
      rw [List.foldl_cons]
      refine Mended.trans ?_ ih
      split
      · exact (s.mendWalk_mended a .read).trans (State.corrected_mended _ _)
      · exact s.mendWalk_mended a .read

theorem Mended.sameMem {s t : State} (h : Mended s t) : SameMem s t := by
  rw [h]
  exact fun _ => rfl

end Sys2Proof.Machine
end

