-- ==== Sys2Proof/Laws/Exec.lean ====
section
/-! SUPPORT. The meaning that exec gives each instruction. -/

namespace Sys2Proof.Machine

variable (z : State)

theorem exec_add (d a b : GReg) : exec (.add d a b) z = execAdd d a b z := rfl
theorem exec_sub (d a b : GReg) : exec (.sub d a b) z = execSub d a b z := rfl
theorem exec_and (d a b : GReg) : exec (.and d a b) z = execAnd d a b z := rfl
theorem exec_or (d a b : GReg) : exec (.or d a b) z = execOr d a b z := rfl
theorem exec_xor (d a b : GReg) : exec (.xor d a b) z = execXor d a b z := rfl
theorem exec_andn (d a b : GReg) : exec (.andn d a b) z = execAndn d a b z := rfl
theorem exec_sll (d a b : GReg) : exec (.sll d a b) z = execSll d a b z := rfl
theorem exec_srl (d a b : GReg) : exec (.srl d a b) z = execSrl d a b z := rfl
theorem exec_sra (d a b : GReg) : exec (.sra d a b) z = execSra d a b z := rfl
theorem exec_mul (d a b : GReg) : exec (.mul d a b) z = execMul d a b z := rfl
theorem exec_mulh (d a b : GReg) : exec (.mulh d a b) z = execMulh d a b z := rfl
theorem exec_mulhn (d a b : GReg) : exec (.mulhn d a b) z = execMulhn d a b z := rfl
theorem exec_div (d a b : GReg) : exec (.div d a b) z = execDiv d a b z := rfl
theorem exec_divn (d a b : GReg) : exec (.divn d a b) z = execDivn d a b z := rfl
theorem exec_rem (d a b : GReg) : exec (.rem d a b) z = execRem d a b z := rfl
theorem exec_remn (d a b : GReg) : exec (.remn d a b) z = execRemn d a b z := rfl
theorem exec_min (d a b : GReg) : exec (.min d a b) z = execMin d a b z := rfl
theorem exec_max (d a b : GReg) : exec (.max d a b) z = execMax d a b z := rfl
theorem exec_minn (d a b : GReg) : exec (.minn d a b) z = execMinn d a b z := rfl
theorem exec_maxn (d a b : GReg) : exec (.maxn d a b) z = execMaxn d a b z := rfl
theorem exec_slt (d a b : GReg) : exec (.slt d a b) z = execSlt d a b z := rfl
theorem exec_sltn (d a b : GReg) : exec (.sltn d a b) z = execSltn d a b z := rfl
theorem exec_clz (d a : GReg) : exec (.clz d a) z = execClz d a z := rfl
theorem exec_ctz (d a : GReg) : exec (.ctz d a) z = execCtz d a z := rfl
theorem exec_popc (d a : GReg) : exec (.popc d a) z = execPopc d a z := rfl
theorem exec_lea (d a b : GReg) (s : BitVec 2) : exec (.lea d a b s) z = execLea d a b s z := rfl
theorem exec_addi (d a : GReg) (imm : BitVec 16) : exec (.addi d a imm) z = execAddi d a imm z := rfl
theorem exec_andi (d a : GReg) (imm : BitVec 16) : exec (.andi d a imm) z = execAndi d a imm z := rfl
theorem exec_ori (d a : GReg) (imm : BitVec 16) : exec (.ori d a imm) z = execOri d a imm z := rfl
theorem exec_xori (d a : GReg) (imm : BitVec 16) : exec (.xori d a imm) z = execXori d a imm z := rfl
theorem exec_slti (d a : GReg) (imm : BitVec 16) : exec (.slti d a imm) z = execSlti d a imm z := rfl
theorem exec_sltni (d a : GReg) (imm : BitVec 16) : exec (.sltni d a imm) z = execSltni d a imm z := rfl
theorem exec_slli (d a : GReg) (n : BitVec 6) : exec (.slli d a n) z = execSlli d a n z := rfl
theorem exec_srli (d a : GReg) (n : BitVec 6) : exec (.srli d a n) z = execSrli d a n z := rfl
theorem exec_srai (d a : GReg) (n : BitVec 6) : exec (.srai d a n) z = execSrai d a n z := rfl
theorem exec_li (d : GReg) (imm : BitVec 21) : exec (.li d imm) z = execLi d imm z := rfl
theorem exec_insh (d : GReg) (pos : BitVec 2) (imm : BitVec 16) : exec (.insh d pos imm) z = execInsh d pos imm z := rfl
theorem exec_pcadd (d : GReg) (off : BitVec 21) : exec (.pcadd d off) z = execPcadd d off z := rfl
theorem exec_ldB (d a : GReg) (off : BitVec 16) : exec (.ldB d a off) z = execLdB d a off z := rfl
theorem exec_ldBn (d a : GReg) (off : BitVec 16) : exec (.ldBn d a off) z = execLdBn d a off z := rfl
theorem exec_ldH (d a : GReg) (off : BitVec 16) : exec (.ldH d a off) z = execLdH d a off z := rfl
theorem exec_ldHn (d a : GReg) (off : BitVec 16) : exec (.ldHn d a off) z = execLdHn d a off z := rfl
theorem exec_ldW (d a : GReg) (off : BitVec 16) : exec (.ldW d a off) z = execLdW d a off z := rfl
theorem exec_ldWn (d a : GReg) (off : BitVec 16) : exec (.ldWn d a off) z = execLdWn d a off z := rfl
theorem exec_ldD (d a : GReg) (off : BitVec 16) : exec (.ldD d a off) z = execLdD d a off z := rfl
theorem exec_stB (r a : GReg) (off : BitVec 16) : exec (.stB r a off) z = execStB r a off z := rfl
theorem exec_stH (r a : GReg) (off : BitVec 16) : exec (.stH r a off) z = execStH r a off z := rfl
theorem exec_stW (r a : GReg) (off : BitVec 16) : exec (.stW r a off) z = execStW r a off z := rfl
theorem exec_stD (r a : GReg) (off : BitVec 16) : exec (.stD r a off) z = execStD r a off z := rfl
theorem exec_beq (a b : GReg) (off : BitVec 16) : exec (.beq a b off) z = execBeq a b off z := rfl
theorem exec_bne (a b : GReg) (off : BitVec 16) : exec (.bne a b off) z = execBne a b off z := rfl
theorem exec_blt (a b : GReg) (off : BitVec 16) : exec (.blt a b off) z = execBlt a b off z := rfl
theorem exec_bge (a b : GReg) (off : BitVec 16) : exec (.bge a b off) z = execBge a b off z := rfl
theorem exec_bltn (a b : GReg) (off : BitVec 16) : exec (.bltn a b off) z = execBltn a b off z := rfl
theorem exec_bgen (a b : GReg) (off : BitVec 16) : exec (.bgen a b off) z = execBgen a b off z := rfl
theorem exec_jal (d : GReg) (off : BitVec 21) : exec (.jal d off) z = execJal d off z := rfl
theorem exec_jalr (d a : GReg) (off : BitVec 16) : exec (.jalr d a off) z = execJalr d a off z := rfl
theorem exec_loop (a : GReg) (off : BitVec 16) : exec (.loop a off) z = execLoop a off z := rfl
theorem exec_vmov (d a : VNum) : exec (.vmov d a) z = execVmov d a z := rfl
theorem exec_vget (d : GReg) (a : VNum) (lane : BitVec 3) : exec (.vget d a lane) z = execVget d a lane z := rfl
theorem exec_vgetLm (d : GReg) (a : VNum) : exec (.vgetLm d a) z = execVgetLm d a z := rfl
theorem exec_vld (d : VNum) (a : GReg) (off : BitVec 11) : exec (.vld d a off) z = execVld d a off z := rfl
theorem exec_vst (r : VNum) (a : GReg) (off : BitVec 11) : exec (.vst r a off) z = execVst r a off z := rfl
theorem exec_spawn (d a b : GReg) (any : Bool) (core : BitVec 2) : exec (.spawn d a b any core) z = execSpawn d a b any core z := rfl
theorem exec_exit : exec (.exit) z = execExit z := rfl
theorem exec_yield : exec (.yield) z = execYield z := rfl
theorem exec_setpri (p : BitVec 2) : exec (.setpri p) z = execSetpri p z := rfl
theorem exec_send (c r : GReg) (n : BitVec 2) : exec (.send c r n) z = execSend c r n z := rfl
theorem exec_recv (d : GReg) (ch : BitVec 6) : exec (.recv d ch) z = execRecv d ch z := rfl
theorem exec_waitch (d m : GReg) : exec (.waitch d m) z = execWaitch d m z := rfl
theorem exec_gjoin (a : GReg) : exec (.gjoin a) z = execGjoin a z := rfl
theorem exec_gleave (a : GReg) : exec (.gleave a) z = execGleave a z := rfl
theorem exec_gbar (a : GReg) : exec (.gbar a) z = execGbar a z := rfl
theorem exec_launch (d a : GReg) : exec (.launch d a) z = execLaunch d a z := rfl
theorem exec_scopeopen (d a : GReg) : exec (.scopeopen d a) z = execScopeopen d a z := rfl
theorem exec_scopeclose (a : GReg) : exec (.scopeclose a) z = execScopeclose a z := rfl
theorem exec_scopewait (a : GReg) : exec (.scopewait a) z = execScopewait a z := rfl
theorem exec_scopeqry (d a : GReg) : exec (.scopeqry d a) z = execScopeqry d a z := rfl
theorem exec_ldf (d a : GReg) (scope : BitVec 3) : exec (.ldf d a scope) z = execLdf d a scope z := rfl
theorem exec_ldfe (d a : GReg) (scope : BitVec 3) : exec (.ldfe d a scope) z = execLdfe d a scope z := rfl
theorem exec_stf (a b : GReg) (scope : BitVec 3) : exec (.stf a b scope) z = execStf a b scope z := rfl
theorem exec_amoAdd (d a b : GReg) (aq rl : Bool) (scope : BitVec 3) (w : Bool) : exec (.amoAdd d a b aq rl scope w) z = execAmoAdd d a b aq rl scope w z := rfl
theorem exec_amoAnd (d a b : GReg) (aq rl : Bool) (scope : BitVec 3) (w : Bool) : exec (.amoAnd d a b aq rl scope w) z = execAmoAnd d a b aq rl scope w z := rfl
theorem exec_amoOr (d a b : GReg) (aq rl : Bool) (scope : BitVec 3) (w : Bool) : exec (.amoOr d a b aq rl scope w) z = execAmoOr d a b aq rl scope w z := rfl
theorem exec_amoXor (d a b : GReg) (aq rl : Bool) (scope : BitVec 3) (w : Bool) : exec (.amoXor d a b aq rl scope w) z = execAmoXor d a b aq rl scope w z := rfl
theorem exec_amoMin (d a b : GReg) (aq rl : Bool) (scope : BitVec 3) (w : Bool) : exec (.amoMin d a b aq rl scope w) z = execAmoMin d a b aq rl scope w z := rfl
theorem exec_amoMax (d a b : GReg) (aq rl : Bool) (scope : BitVec 3) (w : Bool) : exec (.amoMax d a b aq rl scope w) z = execAmoMax d a b aq rl scope w z := rfl
theorem exec_amoMinn (d a b : GReg) (aq rl : Bool) (scope : BitVec 3) (w : Bool) : exec (.amoMinn d a b aq rl scope w) z = execAmoMinn d a b aq rl scope w z := rfl
theorem exec_amoMaxn (d a b : GReg) (aq rl : Bool) (scope : BitVec 3) (w : Bool) : exec (.amoMaxn d a b aq rl scope w) z = execAmoMaxn d a b aq rl scope w z := rfl
theorem exec_amoSwap (d a b : GReg) (aq rl : Bool) (scope : BitVec 3) (w : Bool) : exec (.amoSwap d a b aq rl scope w) z = execAmoSwap d a b aq rl scope w z := rfl
theorem exec_amoSadd (d a b : GReg) (aq rl : Bool) (scope : BitVec 3) (w : Bool) : exec (.amoSadd d a b aq rl scope w) z = execAmoSadd d a b aq rl scope w z := rfl
theorem exec_amoFadd (d a b : GReg) (aq rl : Bool) (scope : BitVec 3) (w : Bool) : exec (.amoFadd d a b aq rl scope w) z = execAmoFadd d a b aq rl scope w z := rfl
theorem exec_cas (d a b : GReg) (aq rl : Bool) (scope : BitVec 3) (w : Bool) : exec (.cas d a b aq rl scope w) z = execCas d a b aq rl scope w z := rfl
theorem exec_lock (a : GReg) (scope : BitVec 3) : exec (.lock a scope) z = execLock a scope z := rfl
theorem exec_unlock (a : GReg) (scope : BitVec 3) : exec (.unlock a scope) z = execUnlock a scope z := rfl
theorem exec_fence (scope : BitVec 3) : exec (.fence scope) z = execFence scope z := rfl
theorem exec_gld (v : VNum) (x r : GReg) (level : BitVec 4) : exec (.gld v x r level) z = execGld v x r level z := rfl
theorem exec_gscat (v : VNum) (x r : GReg) (level : BitVec 4) : exec (.gscat v x r level) z = execGscat v x r level z := rfl
theorem exec_semacq (n : GReg) (sem : BitVec 6) : exec (.semacq n sem) z = execSemacq n sem z := rfl
theorem exec_semrel (n : GReg) (sem : BitVec 6) : exec (.semrel n sem) z = execSemrel n sem z := rfl
theorem exec_semtry (d n : GReg) (sem : BitVec 6) : exec (.semtry d n sem) z = execSemtry d n sem z := rfl
theorem exec_semset (n : GReg) (sem : BitVec 6) : exec (.semset n sem) z = execSemset n sem z := rfl
theorem exec_semget (d : GReg) (sem : BitVec 6) : exec (.semget d sem) z = execSemget d sem z := rfl
theorem exec_hset (h : VNum) (a b : GReg) : exec (.hset h a b) z = execHset h a b z := rfl
theorem exec_cbwf (h : VNum) (n : BitVec 11) : exec (.cbwf h n) z = execCbwf h n z := rfl
theorem exec_cbwe (h : VNum) (n : BitVec 11) : exec (.cbwe h n) z = execCbwe h n z := rfl
theorem exec_cbap (h : VNum) (n : BitVec 11) : exec (.cbap h n) z = execCbap h n z := rfl
theorem exec_cbac (h : VNum) (n : BitVec 11) : exec (.cbac h n) z = execCbac h n z := rfl
theorem exec_dswait (mask : BitVec 8) : exec (.dswait mask) z = execDswait mask z := rfl
theorem exec_sysr (d : GReg) (r : BitVec 11) : exec (.sysr d r) z = execSysr d r z := rfl
theorem exec_sysw (a : GReg) (r : BitVec 11) : exec (.sysw a r) z = execSysw a r z := rfl
theorem exec_trap (imm : BitVec 11) : exec (.trap imm) z = execTrap imm z := rfl
theorem exec_eret : exec (.eret) z = execEret z := rfl
theorem exec_brk : exec (.brk) z = execBrk z := rfl
theorem exec_halt : exec (.halt) z = execHalt z := rfl
theorem exec_tladj (a : GReg) : exec (.tladj a) z = execTladj a z := rfl
theorem exec_ctxsave (a : GReg) (ctx : BitVec 3) : exec (.ctxsave a ctx) z = execCtxsave a ctx z := rfl
theorem exec_ctxload (a : GReg) (ctx : BitVec 3) : exec (.ctxload a ctx) z = execCtxload a ctx z := rfl
theorem exec_wstepStep (d a : GReg) : exec (.wstepStep d a) z = execWstepStep d a z := rfl
theorem exec_fadd (site : LaneAt) (w : LaneW) : exec (.fadd site w) z = execFadd site w z := rfl
theorem exec_fsub (site : LaneAt) (w : LaneW) : exec (.fsub site w) z = execFsub site w z := rfl
theorem exec_fmul (site : LaneAt) (w : LaneW) : exec (.fmul site w) z = execFmul site w z := rfl
theorem exec_fma (site : LaneAt) (w : LaneW) : exec (.fma site w) z = execFma site w z := rfl
theorem exec_fnma (site : LaneAt) (w : LaneW) : exec (.fnma site w) z = execFnma site w z := rfl
theorem exec_fmin (site : LaneAt) (w : LaneW) : exec (.fmin site w) z = execFmin site w z := rfl
theorem exec_fmax (site : LaneAt) (w : LaneW) : exec (.fmax site w) z = execFmax site w z := rfl
theorem exec_fneg (site : LaneAt) (w : LaneW) : exec (.fneg site w) z = execFneg site w z := rfl
theorem exec_fabs (site : LaneAt) (w : LaneW) : exec (.fabs site w) z = execFabs site w z := rfl
theorem exec_fdiv (site : LaneAt) (w : LaneW) : exec (.fdiv site w) z = execFdiv site w z := rfl
theorem exec_fsqrt (site : LaneAt) (w : LaneW) : exec (.fsqrt site w) z = execFsqrt site w z := rfl
theorem exec_frcp (site : LaneAt) (w : LaneW) : exec (.frcp site w) z = execFrcp site w z := rfl
theorem exec_frsq (site : LaneAt) (w : LaneW) : exec (.frsq site w) z = execFrsq site w z := rfl
theorem exec_fexp2 (site : LaneAt) (w : LaneW) : exec (.fexp2 site w) z = execFexp2 site w z := rfl
theorem exec_flog2 (site : LaneAt) (w : LaneW) : exec (.flog2 site w) z = execFlog2 site w z := rfl
theorem exec_ftanh (site : LaneAt) (w : LaneW) : exec (.ftanh site w) z = execFtanh site w z := rfl
theorem exec_fsig (site : LaneAt) (w : LaneW) : exec (.fsig site w) z = execFsig site w z := rfl
theorem exec_dadd (site : LaneAt) (w : LaneW) : exec (.dadd site w) z = execDadd site w z := rfl
theorem exec_dsub (site : LaneAt) (w : LaneW) : exec (.dsub site w) z = execDsub site w z := rfl
theorem exec_dmul (site : LaneAt) (w : LaneW) : exec (.dmul site w) z = execDmul site w z := rfl
theorem exec_dfma (site : LaneAt) (w : LaneW) : exec (.dfma site w) z = execDfma site w z := rfl
theorem exec_dmin (site : LaneAt) (w : LaneW) : exec (.dmin site w) z = execDmin site w z := rfl
theorem exec_dmax (site : LaneAt) (w : LaneW) : exec (.dmax site w) z = execDmax site w z := rfl
theorem exec_ddiv (site : LaneAt) (w : LaneW) : exec (.ddiv site w) z = execDdiv site w z := rfl
theorem exec_dsqrt (site : LaneAt) (w : LaneW) : exec (.dsqrt site w) z = execDsqrt site w z := rfl
theorem exec_fcmp (site : LaneAt) (w : LaneW) : exec (.fcmp site w) z = execFcmp site w z := rfl
theorem exec_icmp (site : LaneAt) (w : LaneW) : exec (.icmp site w) z = execIcmp site w z := rfl
theorem exec_sel (site : LaneAt) (w : LaneW) : exec (.sel site w) z = execSel site w z := rfl
theorem exec_iadd (site : LaneAt) (w : LaneW) : exec (.iadd site w) z = execIadd site w z := rfl
theorem exec_isub (site : LaneAt) (w : LaneW) : exec (.isub site w) z = execIsub site w z := rfl
theorem exec_imul (site : LaneAt) (w : LaneW) : exec (.imul site w) z = execImul site w z := rfl
theorem exec_imulh (site : LaneAt) (w : LaneW) : exec (.imulh site w) z = execImulh site w z := rfl
theorem exec_imad (site : LaneAt) (w : LaneW) : exec (.imad site w) z = execImad site w z := rfl
theorem exec_iand (site : LaneAt) (w : LaneW) : exec (.iand site w) z = execIand site w z := rfl
theorem exec_ior (site : LaneAt) (w : LaneW) : exec (.ior site w) z = execIor site w z := rfl
theorem exec_ixor (site : LaneAt) (w : LaneW) : exec (.ixor site w) z = execIxor site w z := rfl
theorem exec_ishl (site : LaneAt) (w : LaneW) : exec (.ishl site w) z = execIshl site w z := rfl
theorem exec_ishr (site : LaneAt) (w : LaneW) : exec (.ishr site w) z = execIshr site w z := rfl
theorem exec_isar (site : LaneAt) (w : LaneW) : exec (.isar site w) z = execIsar site w z := rfl
theorem exec_imin (site : LaneAt) (w : LaneW) : exec (.imin site w) z = execImin site w z := rfl
theorem exec_imax (site : LaneAt) (w : LaneW) : exec (.imax site w) z = execImax site w z := rfl
theorem exec_iminn (site : LaneAt) (w : LaneW) : exec (.iminn site w) z = execIminn site w z := rfl
theorem exec_imaxn (site : LaneAt) (w : LaneW) : exec (.imaxn site w) z = execImaxn site w z := rfl
theorem exec_isadd (site : LaneAt) (w : LaneW) : exec (.isadd site w) z = execIsadd site w z := rfl
theorem exec_iabs (site : LaneAt) (w : LaneW) : exec (.iabs site w) z = execIabs site w z := rfl
theorem exec_lsum (site : LaneAt) (w : LaneW) : exec (.lsum site w) z = execLsum site w z := rfl
theorem exec_lmax (site : LaneAt) (w : LaneW) : exec (.lmax site w) z = execLmax site w z := rfl
theorem exec_lperm (site : LaneAt) (w : LaneW) : exec (.lperm site w) z = execLperm site w z := rfl
theorem exec_lbcast (site : LaneAt) (w : LaneW) : exec (.lbcast site w) z = execLbcast site w z := rfl
theorem exec_lshift (site : LaneAt) (w : LaneW) : exec (.lshift site w) z = execLshift site w z := rfl
theorem exec_lins (site : LaneAt) (w : LaneW) : exec (.lins site w) z = execLins site w z := rfl
theorem exec_lext (site : LaneAt) (w : LaneW) : exec (.lext site w) z = execLext site w z := rfl
theorem exec_accf (site : LaneAt) (w : LaneW) : exec (.accf site w) z = execAccf site w z := rfl
theorem exec_accd (site : LaneAt) (w : LaneW) : exec (.accd site w) z = execAccd site w z := rfl
theorem exec_acci (site : LaneAt) (w : LaneW) : exec (.acci site w) z = execAcci site w z := rfl
theorem exec_accs (site : LaneAt) (w : LaneW) : exec (.accs site w) z = execAccs site w z := rfl
theorem exec_cvtin (site : LaneAt) (w : LaneW) : exec (.cvtin site w) z = execCvtin site w z := rfl
theorem exec_cvtout (site : LaneAt) (w : LaneW) : exec (.cvtout site w) z = execCvtout site w z := rfl
theorem exec_cvtfi (site : LaneAt) (w : LaneW) : exec (.cvtfi site w) z = execCvtfi site w z := rfl
theorem exec_cvtif (site : LaneAt) (w : LaneW) : exec (.cvtif site w) z = execCvtif site w z := rfl
theorem exec_cvtfd (site : LaneAt) (w : LaneW) : exec (.cvtfd site w) z = execCvtfd site w z := rfl
theorem exec_cvtdf (site : LaneAt) (w : LaneW) : exec (.cvtdf site w) z = execCvtdf site w z := rfl
theorem exec_pass (site : LaneAt) (w : LaneW) : exec (.pass site w) z = execPass site w z := rfl
theorem exec_zip (site : LaneAt) (w : LaneW) : exec (.zip site w) z = execZip site w z := rfl
theorem exec_unzip (site : LaneAt) (w : LaneW) : exec (.unzip site w) z = execUnzip site w z := rfl
theorem exec_cnt (site : LaneAt) (w : LaneW) : exec (.cnt site w) z = execCnt site w z := rfl
theorem exec_kmerge (site : LaneAt) (w : LaneW) : exec (.kmerge site w) z = execKmerge site w z := rfl
theorem exec_lut (site : LaneAt) (w : LaneW) : exec (.lut site w) z = execLut site w z := rfl
theorem exec_madd (site : LaneAt) (w : LaneW) : exec (.madd site w) z = execMadd site w z := rfl
theorem exec_msadd (site : LaneAt) (w : LaneW) : exec (.msadd site w) z = execMsadd site w z := rfl
theorem exec_mfadd (site : LaneAt) (w : LaneW) : exec (.mfadd site w) z = execMfadd site w z := rfl
theorem exec_mmin (site : LaneAt) (w : LaneW) : exec (.mmin site w) z = execMmin site w z := rfl
theorem exec_mmax (site : LaneAt) (w : LaneW) : exec (.mmax site w) z = execMmax site w z := rfl
theorem exec_mswap (site : LaneAt) (w : LaneW) : exec (.mswap site w) z = execMswap site w z := rfl
theorem exec_panq (site : LaneAt) (w : LaneW) : exec (.panq site w) z = execPanq site w z := rfl
theorem exec_patset (site : CmdAt) (h : CmdHdr) (raddr : BitVec 46) (sel : BitVec 3) (value : BitVec 52) : exec (.patset site h raddr sel value) z = execPatset site h raddr sel value z := rfl
theorem exec_bindld (site : CmdAt) (h : CmdHdr) (lid : BitVec 32) (wp : BitVec 6) (paddr : BitVec 46) : exec (.bindld site h lid wp paddr) z = execBindld site h lid wp paddr z := rfl
theorem exec_bindst (site : CmdAt) (h : CmdHdr) (lid : BitVec 32) (wp : BitVec 6) (paddr : BitVec 46) : exec (.bindst site h lid wp paddr) z = execBindst site h lid wp paddr z := rfl
theorem exec_gather (site : CmdAt) (h : CmdHdr) (xaddr : BitVec 46) : exec (.gather site h xaddr) z = execGather site h xaddr z := rfl
theorem exec_scatter (site : CmdAt) (h : CmdHdr) (xaddr : BitVec 46) : exec (.scatter site h xaddr) z = execScatter site h xaddr z := rfl
theorem exec_copy (site : CmdAt) (h : CmdHdr) (xaddr : BitVec 46) : exec (.copy site h xaddr) z = execCopy site h xaddr z := rfl
theorem exec_rcopy (site : CmdAt) (h : CmdHdr) (xaddr : BitVec 46) : exec (.rcopy site h xaddr) z = execRcopy site h xaddr z := rfl
theorem exec_barrier (site : CmdAt) (h : CmdHdr) (isl : BitVec 6) (mej : BitVec 9) (tmask : BitVec 16) : exec (.barrier site h isl mej tmask) z = execBarrier site h isl mej tmask z := rfl
theorem exec_tiledef (site : CmdAt) (h : CmdHdr) (isl : BitVec 6) (mej : BitVec 9) (tile : BitVec 4) (base : BitVec 11) (size : BitVec 12) : exec (.tiledef site h isl mej tile base size) z = execTiledef site h isl mej tile base size z := rfl
theorem exec_tileset (site : CmdAt) (h : CmdHdr) (isl : BitVec 6) (mej : BitVec 9) (tile : BitVec 4) (st : BitVec 2) : exec (.tileset site h isl mej tile st) z = execTileset site h isl mej tile st z := rfl
theorem exec_signal (site : CmdAt) (h : CmdHdr) (dev : BitVec 10) (rem : Bool) (core : BitVec 8) (sem : BitVec 6) (n : BitVec 32) : exec (.signal site h dev rem core sem n) z = execSignal site h dev rem core sem n z := rfl
theorem exec_cfgload (site : CmdAt) (h : CmdHdr) (lid : BitVec 32) (iaddr : BitVec 46) : exec (.cfgload site h lid iaddr) z = execCfgload site h lid iaddr z := rfl
theorem exec_cfgsw (site : CmdAt) (h : CmdHdr) (lid : BitVec 32) (t : BitVec 64) : exec (.cfgsw site h lid t) z = execCfgsw site h lid t z := rfl
theorem exec_mark (site : CmdAt) (h : CmdHdr) (lid : BitVec 32) : exec (.mark site h lid) z = execMark site h lid z := rfl
theorem exec_probe (site : CmdAt) (h : CmdHdr) (lid : BitVec 32) (x y : BitVec 6) (vd : VNum) : exec (.probe site h lid x y vd) z = execProbe site h lid x y vd z := rfl
theorem exec_fetchw (site : CmdAt) (h : CmdHdr) (xaddr : BitVec 46) (pan : BitVec 12) : exec (.fetchw site h xaddr pan) z = execFetchw site h xaddr pan z := rfl
theorem exec_unbind (site : CmdAt) (h : CmdHdr) (lid : BitVec 32) (wp : BitVec 6) : exec (.unbind site h lid wp) z = execUnbind site h lid wp z := rfl
theorem exec_griddef (site : CmdAt) (h : CmdHdr) (daddr saddr : BitVec 45) (zero : Bool) : exec (.griddef site h daddr saddr zero) z = execGriddef site h daddr saddr zero z := rfl
theorem exec_pandef (site : CmdAt) (h : CmdHdr) (pan : BitVec 12) (daddr : BitVec 45) : exec (.pandef site h pan daddr) z = execPandef site h pan daddr z := rfl
theorem exec_panctlSetf (site : CmdAt) (h : CmdHdr) (pan : BitVec 12) (value : BitVec 32) : exec (.panctlSetf site h pan value) z = execPanctlSetf site h pan value z := rfl
theorem exec_panctlSeta (site : CmdAt) (h : CmdHdr) (pan : BitVec 12) (value : BitVec 32) : exec (.panctlSeta site h pan value) z = execPanctlSeta site h pan value z := rfl
theorem exec_panctlSetpri (site : CmdAt) (h : CmdHdr) (pan : BitVec 12) (value : BitVec 32) : exec (.panctlSetpri site h pan value) z = execPanctlSetpri site h pan value z := rfl
theorem exec_panctlSetfb (site : CmdAt) (h : CmdHdr) (pan : BitVec 12) (value : BitVec 32) : exec (.panctlSetfb site h pan value) z = execPanctlSetfb site h pan value z := rfl
theorem exec_panctlResume (site : CmdAt) (h : CmdHdr) (pan : BitVec 12) (value : BitVec 32) : exec (.panctlResume site h pan value) z = execPanctlResume site h pan value z := rfl
theorem exec_panctlClear (site : CmdAt) (h : CmdHdr) (pan : BitVec 12) (value : BitVec 32) : exec (.panctlClear site h pan value) z = execPanctlClear site h pan value z := rfl
theorem exec_panctlWindow (site : CmdAt) (h : CmdHdr) (pan : BitVec 12) (value : BitVec 32) : exec (.panctlWindow site h pan value) z = execPanctlWindow site h pan value z := rfl
theorem exec_panctlEvict (site : CmdAt) (h : CmdHdr) (pan : BitVec 12) (value : BitVec 32) : exec (.panctlEvict site h pan value) z = execPanctlEvict site h pan value z := rfl
theorem exec_panctlFree (site : CmdAt) (h : CmdHdr) (pan : BitVec 12) (value : BitVec 32) : exec (.panctlFree site h pan value) z = execPanctlFree site h pan value z := rfl
theorem exec_pandrain (site : CmdAt) (h : CmdHdr) (pan : BitVec 12) : exec (.pandrain site h pan) z = execPandrain site h pan z := rfl
theorem exec_instructionFetch (core : Nat) : exec (.instructionFetch core) z = execInstructionFetch core z := rfl
theorem exec_contextBoost (tid : Nat) : exec (.contextBoost tid) z = execContextBoost tid z := rfl
theorem exec_asyncTrapEntry (tid : Nat) : exec (.asyncTrapEntry tid) z = execAsyncTrapEntry tid z := rfl
theorem exec_messageDelivery (msg : Nat) : exec (.messageDelivery msg) z = execMessageDelivery msg z := rfl
theorem exec_ldfRetry (req : Nat) : exec (.ldfRetry req) z = execLdfRetry req z := rfl
theorem exec_lockWake (island key : Nat) : exec (.lockWake island key) z = execLockWake island key z := rfl
theorem exec_wstepResume (d a : GReg) : exec (.wstepResume d a) z = execWstepResume d a z := rfl
theorem exec_wstepMasked (d a : GReg) : exec (.wstepMasked d a) z = execWstepMasked d a z := rfl
theorem exec_wstepEnd (d a : GReg) : exec (.wstepEnd d a) z = execWstepEnd d a z := rfl
theorem exec_tokenHop (rid route branch stage : Nat) : exec (.tokenHop rid route branch stage) z = execTokenHop rid route branch stage z := rfl
theorem exec_fanoutTake (rid route : Nat) : exec (.fanoutTake rid route) z = execFanoutTake rid route z := rfl
theorem exec_steer (rid op : Nat) : exec (.steer rid op) z = execSteer rid op z := rfl
theorem exec_filter (rid op : Nat) : exec (.filter rid op) z = execFilter rid op z := rfl
theorem exec_merge (rid op : Nat) : exec (.merge rid op) z = execMerge rid op z := rfl
theorem exec_umerge (rid op : Nat) : exec (.umerge rid op) z = execUmerge rid op z := rfl
theorem exec_carry (rid op : Nat) : exec (.carry rid op) z = execCarry rid op z := rfl
theorem exec_cutOnlyWordTake (rid unit port : Nat) : exec (.cutOnlyWordTake rid unit port) z = execCutOnlyWordTake rid unit port z := rfl
theorem exec_reorderStoreWrite (rid store : Nat) : exec (.reorderStoreWrite rid store) z = execReorderStoreWrite rid store z := rfl
theorem exec_reorderStoreRead (rid store : Nat) : exec (.reorderStoreRead rid store) z = execReorderStoreRead rid store z := rfl
theorem exec_controllerGo (rid node : Nat) : exec (.controllerGo rid node) z = execControllerGo rid node z := rfl
theorem exec_controllerDone (rid node : Nat) : exec (.controllerDone rid node) z = execControllerDone rid node z := rfl
theorem exec_configurationStep (rid : Nat) : exec (.configurationStep rid) z = execConfigurationStep rid z := rfl
theorem exec_cfgswTimeReached (rid : Nat) : exec (.cfgswTimeReached rid) z = execCfgswTimeReached rid z := rfl
theorem exec_switchMarkerTake (rid unit : Nat) : exec (.switchMarkerTake rid unit) z = execSwitchMarkerTake rid unit z := rfl
theorem exec_agStreamRead (rid stream : Nat) : exec (.agStreamRead rid stream) z = execAgStreamRead rid stream z := rfl
theorem exec_agStreamDeliver (rid stream : Nat) : exec (.agStreamDeliver rid stream) z = execAgStreamDeliver rid stream z := rfl
theorem exec_agStreamWrite (rid stream : Nat) : exec (.agStreamWrite rid stream) z = execAgStreamWrite rid stream z := rfl
theorem exec_agStreamAccessAnswer (rid stream : Nat) : exec (.agStreamAccessAnswer rid stream) z = execAgStreamAccessAnswer rid stream z := rfl
theorem exec_gridLookupQuery (rid stream : Nat) : exec (.gridLookupQuery rid stream) z = execGridLookupQuery rid stream z := rfl
theorem exec_gridScatterQuery (rid stream : Nat) : exec (.gridScatterQuery rid stream) z = execGridScatterQuery rid stream z := rfl
theorem exec_pageWalk (walk : Nat) : exec (.pageWalk walk) z = execPageWalk walk z := rfl
theorem exec_remoteAccessPerform (req : Nat) : exec (.remoteAccessPerform req) z = execRemoteAccessPerform req z := rfl
theorem exec_accessAnswer (req : Nat) : exec (.accessAnswer req) z = execAccessAnswer req z := rfl
theorem exec_windowCommit (rid : Nat) : exec (.windowCommit rid) z = execWindowCommit rid z := rfl
theorem exec_rollback (rid : Nat) : exec (.rollback rid) z = execRollback rid z := rfl
theorem exec_residencyPlace (entry island region : Nat) : exec (.residencyPlace entry island region) z = execResidencyPlace entry island region z := rfl
theorem exec_mdPlacementPass : exec (.mdPlacementPass) z = execMdPlacementPass z := rfl
theorem exec_reservationTimeout : exec (.reservationTimeout) z = execReservationTimeout z := rfl
theorem exec_residencyFinish (rid : Nat) : exec (.residencyFinish rid) z = execResidencyFinish rid z := rfl
theorem exec_preemptSave (rid : Nat) : exec (.preemptSave rid) z = execPreemptSave rid z := rfl
theorem exec_commandComplete (id : Nat) : exec (.commandComplete id) z = execCommandComplete id z := rfl
theorem exec_panEntryArrival (flight : Nat) : exec (.panEntryArrival flight) z = execPanEntryArrival flight z := rfl
theorem exec_panAgeLimit (pan : Nat) : exec (.panAgeLimit pan) z = execPanAgeLimit pan z := rfl
theorem exec_panFire (pan : Nat) : exec (.panFire pan) z = execPanFire pan z := rfl
theorem exec_batchBufferWritten (pan buf : Nat) : exec (.batchBufferWritten pan buf) z = execBatchBufferWritten pan buf z := rfl
theorem exec_panRefill (pan : Nat) : exec (.panRefill pan) z = execPanRefill pan z := rfl
theorem exec_weightFetchComplete (pan : Nat) : exec (.weightFetchComplete pan) z = execWeightFetchComplete pan z := rfl
theorem exec_apertureMadd (me : Nat) (value : Word) : exec (.apertureMadd me value) z = execApertureMadd me value z := rfl
theorem exec_apertureMsaddI (me : Nat) (value : Word) : exec (.apertureMsaddI me value) z = execApertureMsaddI me value z := rfl
theorem exec_apertureMsaddN (me : Nat) (value : Word) : exec (.apertureMsaddN me value) z = execApertureMsaddN me value z := rfl
theorem exec_apertureMminI (me : Nat) (value : Word) : exec (.apertureMminI me value) z = execApertureMminI me value z := rfl
theorem exec_apertureMmaxI (me : Nat) (value : Word) : exec (.apertureMmaxI me value) z = execApertureMmaxI me value z := rfl
theorem exec_apertureMminN (me : Nat) (value : Word) : exec (.apertureMminN me value) z = execApertureMminN me value z := rfl
theorem exec_apertureMmaxN (me : Nat) (value : Word) : exec (.apertureMmaxN me value) z = execApertureMmaxN me value z := rfl
theorem exec_apertureMswap (me : Nat) (value : Word) : exec (.apertureMswap me value) z = execApertureMswap me value z := rfl
theorem exec_ringMessageArrival (desc : Nat) (msg : List Byte) : exec (.ringMessageArrival desc msg) z = execRingMessageArrival desc msg z := rfl
theorem exec_ringNoticeDelivery (desc : Nat) : exec (.ringNoticeDelivery desc) z = execRingNoticeDelivery desc z := rfl
theorem exec_ringOverflowTimeout (desc : Nat) : exec (.ringOverflowTimeout desc) z = execRingOverflowTimeout desc z := rfl
theorem exec_columnRepair (island column : Nat) : exec (.columnRepair island column) z = execColumnRepair island column z := rfl
theorem exec_mdFailover : exec (.mdFailover) z = execMdFailover z := rfl
theorem exec_soundPortLaneLoss (port : Nat) : exec (.soundPortLaneLoss port) z = execSoundPortLaneLoss port z := rfl
theorem exec_flitRd (port : Nat) (f : Flit) : exec (.flitRd port f) z = execFlitRd port f z := rfl
theorem exec_flitWr (port : Nat) (f : Flit) : exec (.flitWr port f) z = execFlitWr port f z := rfl
theorem exec_flitAmo (port : Nat) (f : Flit) : exec (.flitAmo port f) z = execFlitAmo port f z := rfl
theorem exec_flitCas (port : Nat) (f : Flit) : exec (.flitCas port f) z = execFlitCas port f z := rfl
theorem exec_flitResp (port : Nat) (f : Flit) : exec (.flitResp port f) z = execFlitResp port f z := rfl
theorem exec_flitAck (port : Nat) (f : Flit) : exec (.flitAck port f) z = execFlitAck port f z := rfl
theorem exec_flitSignal (port : Nat) (f : Flit) : exec (.flitSignal port f) z = execFlitSignal port f z := rfl
theorem exec_flitPanq (port : Nat) (f : Flit) : exec (.flitPanq port f) z = execFlitPanq port f z := rfl
theorem exec_flitPnack (port : Nat) (f : Flit) : exec (.flitPnack port f) z = execFlitPnack port f z := rfl
theorem exec_flitPresume (port : Nat) (f : Flit) : exec (.flitPresume port f) z = execFlitPresume port f z := rfl
theorem exec_requestTimeout (req : Nat) : exec (.requestTimeout req) z = execRequestTimeout req z := rfl
theorem exec_hostAccess (r : HostReq) : exec (.hostAccess r) z = execHostAccess r z := rfl
theorem exec_mailboxWrite (bytes : List Byte) : exec (.mailboxWrite bytes) z = execMailboxWrite bytes z := rfl
theorem exec_hnote (value : Word) : exec (.hnote value) z = execHnote value z := rfl
theorem exec_packageReset : exec (.packageReset) z = execPackageReset z := rfl
theorem exec_bootgo (len : Word) : exec (.bootgo len) z = execBootgo len z := rfl
theorem exec_bootCheckDone : exec (.bootCheckDone) z = execBootCheckDone z := rfl
theorem exec_functionReady (f : ReadyFn) : exec (.functionReady f) z = execFunctionReady f z := rfl
theorem exec_ccmdStart (core x : Nat) : exec (.ccmdStart core x) z = execCcmdStart core x z := rfl
theorem exec_ccmdRelease (core x : Nat) : exec (.ccmdRelease core x) z = execCcmdRelease core x z := rfl
theorem exec_ccmdStop (core x : Nat) : exec (.ccmdStop core x) z = execCcmdStop core x z := rfl
theorem exec_qgo : exec (.qgo) z = execQgo z := rfl
theorem exec_qdataRead : exec (.qdataRead) z = execQdataRead z := rfl
theorem exec_istopReq (island : Nat) : exec (.istopReq island) z = execIstopReq island z := rfl
theorem exec_istopCont (island : Nat) : exec (.istopCont island) z = execIstopCont island z := rfl
theorem exec_debugStop (island slot : Nat) : exec (.debugStop island slot) z = execDebugStop island slot z := rfl
theorem exec_koroFilterRun (die : Nat) : exec (.koroFilterRun die) z = execKoroFilterRun die z := rfl
theorem exec_swrec (die : Nat) (value : Word) : exec (.swrec die value) z = execSwrec die value z := rfl
theorem exec_flenWrite (die : Nat) (value : Word) : exec (.flenWrite die value) z = execFlenWrite die value z := rfl
theorem exec_statsClear (island x y : Nat) : exec (.statsClear island x y) z = execStatsClear island x y z := rfl
theorem exec_throttleStep : exec (.throttleStep) z = execThrottleStep z := rfl
theorem exec_thermalEvent (die celsius : Nat) : exec (.thermalEvent die celsius) z = execThermalEvent die celsius z := rfl
theorem exec_registerWrite (addr width : Nat) (value : Word) : exec (.registerWrite addr width value) z = execRegisterWrite addr width value z := rfl
theorem exec_softError (u : Upset) : exec (.softError u) z = execSoftError u z := rfl
theorem exec_flitCrcFailure (port : Nat) : exec (.flitCrcFailure port) z = execFlitCrcFailure port z := rfl
theorem exec_flitReservedOp (port : Nat) (f : Flit) : exec (.flitReservedOp port f) z = execFlitReservedOp port f z := rfl
theorem exec_corePowerGated (core : Nat) : exec (.corePowerGated core) z = execCorePowerGated core z := rfl
theorem exec_corePoweredUp (core : Nat) : exec (.corePoweredUp core) z = execCorePoweredUp core z := rfl
theorem exec_spareCopyDone (channel : Nat) : exec (.spareCopyDone channel) z = execSpareCopyDone channel z := rfl

end Sys2Proof.Machine
end

