-- ==== Sys2Proof/Laws/Ops.lean ====
section
/-! SUPPORT. What the named operations of Machine/Ops.lean can do. -/

namespace Sys2Proof.Machine

/-! ### Registers -/

@[simp] theorem Ctx.get_zero (c : Ctx) : c.get 0#5 = 0#64 := by simp [Ctx.get]

@[simp] theorem Ctx.set_zero (c : Ctx) (v : Word) : c.set 0#5 v = c := by simp [Ctx.set]

theorem Ctx.get_set (c : Ctx) (d r : GReg) (v : Word) : (c.set d v).get r = regAfter c d v r := by
  unfold Ctx.get Ctx.set regAfter
  by_cases h : d = 0#5
  · simp [h, Ctx.get]
  · by_cases e : r = d
    · subst e
      simp [h, Vector.get]
    · have ne : d.toNat ≠ r.toNat := fun x => e (BitVec.eq_of_toNat_eq x.symm)
      have key : (c.g.set d.toNat v d.isLt).get r.toFin = c.g.get r.toFin := by
        show (c.g.set d.toNat v d.isLt)[r.toNat]'_ = c.g[r.toNat]'_
        exact Vector.getElem_set_ne _ _ ne
      simp [h, e, key, Ctx.get]

theorem Ctx.set_regsOnly (c : Ctx) (d : GReg) (v : Word) : c.set d v = { c with g := (c.set d v).g } := by
  unfold Ctx.set
  split <;> rfl

@[simp] theorem Ctx.set_pc (c : Ctx) (d : GReg) (v : Word) : (c.set d v).pc = c.pc := by rw [Ctx.set_regsOnly]
@[simp] theorem Ctx.set_st (c : Ctx) (d : GReg) (v : Word) : (c.set d v).st = c.st := by rw [Ctx.set_regsOnly]
@[simp] theorem Ctx.set_stop (c : Ctx) (d : GReg) (v : Word) : (c.set d v).stop = c.stop := by rw [Ctx.set_regsOnly]
@[simp] theorem Ctx.set_waited (c : Ctx) (d : GReg) (v : Word) : (c.set d v).waited = c.waited := by rw [Ctx.set_regsOnly]

/-! ### Boundaries -/

theorem Ctx.boundary_only (c : Ctx) : c.boundary = c.runAs c.boundary := by
  unfold Ctx.boundary Ctx.runAs
  cases c.st <;> cases c.stop <;> rfl

/-- A boundary is one, for every context that has the state, the stop and the wait counter of `c`. -/
theorem Ctx.boundary_at (c d : Ctx) (st : d.st = c.st) (stop : d.stop = c.stop) (waited : d.waited = c.waited) :
    AtBoundary c d.boundary := by
  unfold AtBoundary Ctx.boundary
  rw [st, stop]
  cases c.st <;> cases c.stop <;> simp [waited]

/-- A boundary after a change of g registers and PC alone. -/
theorem Ctx.boundary_regsOnly (c : Ctx) (g : Vector Word 32) (pc : Word) :
    RegsOnly c (Ctx.boundary { c with g := g, pc := pc }) := by
  unfold RegsOnly Ctx.boundary Ctx.runAs
  dsimp only
  cases c.st <;> cases c.stop <;> rfl

@[simp] theorem Ctx.boundary_pc (c : Ctx) : c.boundary.pc = c.pc := by rw [Ctx.boundary_only]; rfl
@[simp] theorem Ctx.boundary_g (c : Ctx) : c.boundary.g = c.g := by rw [Ctx.boundary_only]; rfl
@[simp] theorem Ctx.boundary_get (c : Ctx) (r : GReg) : c.boundary.get r = c.get r := by simp [Ctx.get]

/-- A context after an instruction that wrote a g register and went to `pc`. -/
theorem Ctx.set_jumped (c : Ctx) (d : GReg) (v pc : Word) : RegsOnly c ((c.set d v).jumped pc) := by
  unfold Ctx.jumped
  rw [Ctx.set_regsOnly]
  exact Ctx.boundary_regsOnly _ _ _

/-! ### The current context alone -/

theorem alone_setMe (s : State) (c : Ctx) : Alone s (s.setMe c) :=
  ⟨rfl, fun _ h => State.ctx_setMe_ne s c h, fun _ => rfl⟩

/-- An instruction whose whole effect is a write of a g register. -/
theorem writeReg_spec (d : GReg) (f : Ctx → Word) (s : State) :
    ∃ t, writeReg d f s = .next t ∧ Wrote d (f s.me) 1 s t := by
  refine ⟨_, rfl, alone_setMe _ _, ?_, ?_, ?_, ?_⟩
  · rw [State.me_setMe]
    exact Ctx.set_jumped _ _ _ _
  · rw [State.me_setMe]
    exact Ctx.boundary_at _ _ (by simp) (by simp) (by simp)
  · simp [Ctx.retire]
  · intro r
    simp [Ctx.retire, Ctx.get, ← Ctx.get_set]

/-- An instruction that changes nothing but the PC. -/
theorem retire_spec (n : Nat) (s : State) : ∃ t, retireWith n id s = .next t ∧ Passed n s t := by
  refine ⟨_, rfl, alone_setMe _ _, ?_, ?_, ?_, ?_⟩
  · rw [State.me_setMe]
    exact Ctx.boundary_regsOnly _ _ _
  · rw [State.me_setMe]
    exact Ctx.boundary_at _ _ (by simp) (by simp) (by simp)
  · simp [Ctx.retire]
  · intro r
    simp [Ctx.retire, regAfter, Ctx.get]

/-- Going to a target that R62 permits. -/
theorem jumpTo_spec (a : Word) (d : GReg) (v : Ctx → Word) (s : State) (h : targetFault s.cur a = none) :
    ∃ t, jumpTo a (fun c => c.set d (v c)) s = .next t ∧ Went a d (v s.me) s t := by
  refine ⟨s.setMe ((s.me.set d (v s.me)).jumped a), by simp [jumpTo, h], alone_setMe _ _, ?_, ?_, ?_, ?_⟩
  · rw [State.me_setMe]
    exact Ctx.set_jumped _ _ _ _
  · simp only [State.me_setMe, AtBoundary, Ctx.jumped]
    exact Ctx.boundary_at _ _ (by simp) (by simp) (by simp)
  · simp [Ctx.jumped]
  · intro r
    simp [Ctx.jumped, Ctx.get, ← Ctx.get_set]

/-- A synchronous trap of a context that is in no handler. -/
theorem trapEntry_spec (cause : Nat) (addr resume : Word) (s : State) (h : s.me.it = false) :
    Trapped cause addr resume s (s.setMe (s.me.trapEntry cause addr false resume)) := by
  refine ⟨alone_setMe _ _, ?_, ?_⟩
  · simp only [State.me_setMe, Ctx.trapEntry, h, AtBoundary]
    exact Ctx.boundary_at _ _ rfl rfl rfl
  · simp only [State.me_setMe]
    simp only [Ctx.trapEntry, h, Bool.false_and, Bool.false_eq_true, if_false, Nat.add_zero]
    rw [Ctx.boundary_only]
    rfl

theorem raise_spec (cause : Nat) (addr : Word) (s : State) (h : s.me.it = false) :
    ∃ t, raise cause addr s = .next t ∧ Trapped cause addr s.me.pc s t :=
  ⟨_, rfl, trapEntry_spec cause addr s.me.pc s h⟩

theorem waitOn_spec (w : Wait) (i : Bool) (s : State) : ∃ t, waitOn w i s = .next t ∧ Waits w i s t :=
  ⟨_, rfl, alone_setMe _ _, by simp [Ctx.waitFor]⟩

/-! ### The passing of time -/

theorem State.wakePoll_only (s : State) (t : Nat) : s.wakePoll t = { s with ctxs := (s.wakePoll t).ctxs } := by
  unfold State.wakePoll
  dsimp only
  split
  · split <;> rfl
  · rfl

theorem State.wakePolls_only (s : State) : s.wakePolls = { s with ctxs := s.wakePolls.ctxs } := by
  unfold State.wakePolls
  generalize s.ctxs.keys = l
  induction l generalizing s with
  | nil => rfl
  | cons t l ih => rw [List.foldl_cons, ih, State.wakePoll_only]

/-- The throttle moves THR alone (R422). -/
theorem State.throttle_only (s : State) : s.throttle = { s with thr := s.throttle.thr } := by
  unfold State.throttle
  dsimp only
  repeat' split
  all_goals rfl

theorem State.throttled_only (s : State) (n : Nat) : s.throttled n = { s with thr := (s.throttled n).thr } := by
  unfold State.throttled
  generalize List.range _ = l
  induction l generalizing s with
  | nil => rfl
  | cons t l ih => rw [List.foldl_cons, ih, State.throttle_only]

/-- What time passing can change: contexts, stall counters, PWR, THR and the counters of cycles and steps. -/
theorem State.passed_only (s0 s : State) (was : List Nat) : let t := s0.passed s was
    t = { s with ctxs := t.ctxs, res := t.res, pwr := t.pwr, thr := t.thr, gcyc := t.gcyc, cycle := t.cycle, cy := t.cy,
                 frac := t.frac, tick := t.tick } := by
  dsimp only
  unfold State.passed
  rw [State.wakePolls_only]
  dsimp only [State.countWait, State.advance]
  rw [State.throttled_only]
  split <;> rfl

theorem State.passed_mem (s0 s : State) (was : List Nat) : (s0.passed s was).mem = s.mem := by rw [State.passed_only]

theorem State.passed_host (s0 s : State) (was : List Nat) : (s0.passed s was).host = s.host := by rw [State.passed_only]

end Sys2Proof.Machine
end

