-- ==== Sys2Proof/Tests/Slice0.lean ====
section
/-! SUPPORT. Tests: words and results that the manual works out, ill-formed terms that WellFormed refuses, and for each
statement a state and operands that meet its hypotheses. -/

namespace Sys2Proof.Tests

open Sys2Proof.Machine

set_option Elab.async false

/-! ### Decoding: words worked out in the manual -/

/-- Chapters 1 to 3: the examples of R28 to R30 and the tables of the scalar formats. -/
theorem test_decode_scalar :
    decode [0x08630001#32] = .ok (.addi 3#5 3#5 1#16) ∧ decode [0x0C478000#32] = .ok (.andi 2#5 7#5 0x8000#16)
    ∧ decode [0x20638004#32] = .ok (.srai 3#5 3#5 4#6) ∧ decode [0x048238D9#32] = .ok (.lea 4#5 2#5 7#5 3#2)
    ∧ decode [0x28220040#32] = .ok (.insh 1#5 2#2 0x40#16) ∧ decode [0x243FFFFB#32] = .ok (.li 1#5 0x1FFFFB#21)
    ∧ decode [0x2C400020#32] = .ok (.pcadd 2#5 0x20#21) ∧ decode [0x04C3280C#32] = .ok (.div 6#5 3#5 5#5) := by decide +kernel

/-- Chapter 3: loads, stores and control flow. -/
theorem test_decode_memory_and_branches :
    decode [0x38820000#32] = .ok (.ldH 4#5 2#5 0#16) ∧ decode [0x3CCB0000#32] = .ok (.ldHn 6#5 11#5 0#16)
    ∧ decode [0x54E20014#32] = .ok (.stW 7#5 2#5 0x14#16) ∧ decode [0x80431028#32] = .ok (.vld 3#4 2#5 40#11)
    ∧ decode [0x80251806#32] = .ok (.vget 5#5 3#4 6#3) ∧ decode [0x6020FFFE#32] = .ok (.bne 1#5 0#5 0xFFFE#16)
    ∧ decode [0x6485FFFD#32] = .ok (.blt 4#5 5#5 0xFFFD#16) ∧ decode [0x5C600005#32] = .ok (.beq 3#5 0#5 5#16)
    ∧ decode [0x7C20FFFD#32] = .ok (.loop 1#5 0xFFFD#16) ∧ decode [0x77E00002#32] = .ok (.jal 31#5 2#21)
    ∧ decode [0x781F0000#32] = .ok (.jalr 0#5 31#5 0#16) ∧ decode [0xC4050009#32] = .ok (.sysr 5#5 9#11) := by decide +kernel

/-- Chapters 6 and 9: threads, channels, groups, launches and scopes. -/
theorem test_decode_threads :
    decode [0x88032984#32] = .ok (.spawn 3#5 5#5 6#5 true 0#2) ∧ decode [0x88032980#32] = .ok (.spawn 3#5 5#5 6#5 false 0#2)
    ∧ decode [0x88200000#32] = .ok .exit ∧ decode [0x88400000#32] = .ok .yield ∧ decode [0x88600002#32] = .ok (.setpri 2#2)
    ∧ decode [0x8C044001#32] = .ok (.send 4#5 8#5 1#2) ∧ decode [0x8C2A0005#32] = .ok (.recv 10#5 5#6)
    ∧ decode [0x8C421800#32] = .ok (.waitch 2#5 3#5) ∧ decode [0x90003800#32] = .ok (.gjoin 7#5)
    ∧ decode [0x90203800#32] = .ok (.gleave 7#5) ∧ decode [0x90403800#32] = .ok (.gbar 7#5)
    ∧ decode [0x94044800#32] = .ok (.launch 4#5 9#5) ∧ decode [0x98031000#32] = .ok (.scopeopen 3#5 2#5)
    ∧ decode [0x98201800#32] = .ok (.scopeclose 3#5) ∧ decode [0x98401800#32] = .ok (.scopewait 3#5)
    ∧ decode [0x98651800#32] = .ok (.scopeqry 5#5 3#5) := by decide +kernel

/-- Chapters 12, 13, 16, 19 and 20: the memory model, crystal regions, semaphores, rings, slots, contexts and WSTEP. -/
theorem test_decode_memory_model :
    decode [0x9CA6000C#32] = .ok (.ldf 5#5 6#5 3#3) ∧ decode [0x9CA60214#32] = .ok (.ldfe 5#5 6#5 5#3)
    ∧ decode [0x9C063C14#32] = .ok (.stf 6#5 7#5 5#3) ∧ decode [0xA0642876#32] = .ok (.amoAdd 3#5 4#5 5#5 true true 5#3 true)
    ∧ decode [0xA0642D0C#32] = .ok (.amoFadd 3#5 4#5 5#5 false false 3#3 false)
    ∧ decode [0xA4642852#32] = .ok (.cas 3#5 4#5 5#5 true false 4#3 true) ∧ decode [0xA8004805#32] = .ok (.lock 9#5 5#3)
    ∧ decode [0xA8204805#32] = .ok (.unlock 9#5 5#3) ∧ decode [0xAC000003#32] = .ok (.fence 3#3)
    ∧ decode [0xB0022981#32] = .ok (.gld 2#4 5#5 6#5 1#4) ∧ decode [0xB0222981#32] = .ok (.gscat 2#4 5#5 6#5 1#4)
    ∧ decode [0xB8002803#32] = .ok (.semacq 5#5 3#6) ∧ decode [0xB8442803#32] = .ok (.semtry 4#5 5#5 3#6)
    ∧ decode [0xB8602803#32] = .ok (.semset 5#5 3#6) ∧ decode [0xB8840003#32] = .ok (.semget 4#5 3#6)
    ∧ decode [0xBC022140#32] = .ok (.hset 2#4 4#5 5#5) ∧ decode [0xBC220003#32] = .ok (.cbwf 2#4 3#11)
    ∧ decode [0xC0000004#32] = .ok (.dswait 4#8) ∧ decode [0xC8004803#32] = .ok (.ctxsave 9#5 3#3)
    ∧ decode [0xC8204803#32] = .ok (.ctxload 9#5 3#3) ∧ decode [0xC8444800#32] = .ok (.wstepStep 4#5 9#5) := by decide +kernel

/-- The lane-operation word of a test: selects A and B from PA and PB. -/
def laneAB (asel bsel csel : BitVec 3) (rnd : BitVec 3) : LaneW :=
  { fmt := 0, asel := asel, bsel := bsel, csel := csel, rnd := rnd, xen := 0, emit := 0, param := 0, imm := 0 }

/-- R31 and chapter 5: a VOP of three words, and the FADD of chapter 18. -/
theorem test_decode_vop :
    decode [0x8484C000#32, 0x13029F00#32, 0#32] = .ok (.fma (.vop 2#4 1#4 3#4 0#4) (laneAB 1 2 3 7))
    ∧ decode [0x84C48000#32, 0x10028000#32, 0#32] = .ok (.fadd (.vop 3#4 1#4 2#4 0#4) (laneAB 1 2 0 0)) := by decide +kernel

/-- R32, R285, R324, R326: ISSUE of COPY, PANDEF and PANCTL. -/
theorem test_decode_issue :
    decode [0xB4C00000#32, 0x0600A000#32, 0#32, 0#32, 0#32]
      = .ok (.copy (.issue 6#5 0#5 0#5) { wait := 0, seten := true, setslot := 2 } 0#46)
    ∧ decode [0xB4C90000#32, 0x20009400#32, 0#32, 0#32, 0#32]
      = .ok (.pandef (.issue 6#5 9#5 0#5) { wait := 0, seten := true, setslot := 1 } 0#12 0#45)
    ∧ decode [0xB4000000#32, 0x21000400#32, 0x24000000#32, 0#32, 0#32]
      = .ok (.panctlResume (.issue 0#5 0#5 0#5) { wait := 0, seten := false, setslot := 0 } 2#12 0#32) := by decide +kernel

/-- R27, R36, R39: reserved major codes, fields and scopes decode to nothing. -/
theorem test_decode_reserved :
    decode [0x00000000#32] = .error .reservedMajor ∧ decode [0xAC000007#32] = .error .reservedScope
    ∧ decode [0x88200001#32] = .error .reservedField ∧ decode [] = .error .shortInput := by decide +kernel

/-! ### Terms that WellFormed refuses -/

/-- R144, R145: SEND of registers past g31, RECV into registers past g31. -/
theorem test_ill_formed_messages :
    wellFormed (.send 1#5 30#5 2#2) = false ∧ wellFormed (.send 1#5 30#5 1#2) = true ∧ wellFormed (.recv 29#5 0#6) = false
    ∧ wellFormed (.recv 28#5 0#6) = true := by decide +kernel

/-- R39: SCOPE 7 is reserved. -/
theorem test_ill_formed_scope :
    wellFormed (.fence 7#3) = false ∧ wellFormed (.fence 6#3) = true ∧ wellFormed (.lock 1#5 7#3) = false
    ∧ wellFormed (.amoAdd 1#5 2#5 3#5 false false 7#3 true) = false := by decide +kernel

/-- R96: FADD does not use PARAM, select 7 is reserved, and KMERGE is not legal under VOP. -/
theorem test_ill_formed_lane :
    wellFormed (.fadd (.vop 0#4 0#4 0#4 0#4) { laneAB 1 2 0 0 with param := 1 }) = false
    ∧ wellFormed (.fadd (.vop 0#4 0#4 0#4 0#4) (laneAB 7 2 0 0)) = false
    ∧ wellFormed (.kmerge (.vop 0#4 0#4 0#4 0#4) (laneAB 1 2 0 0)) = false
    ∧ wellFormed (.fadd (.vop 0#4 0#4 0#4 0#4) (laneAB 1 2 0 0)) = true := by decide +kernel

/-- A header with SETEN 1 and SETSLOT `d`, and one with SETEN 0. -/
def setHdr (d : BitVec 3) : CmdHdr := { wait := 0, seten := true, setslot := d }
def noHdr : CmdHdr := { wait := 0, seten := false, setslot := 0 }

/-- R33, R285, R287, R305 to R307: headers, substitutions, ME numbers, tile sizes and devices. -/
theorem test_ill_formed_commands :
    wellFormed (.mark (.issue 0#5 0#5 0#5) { wait := 4, seten := true, setslot := 2 } 0#32) = false
    ∧ wellFormed (.mark (.issue 0#5 0#5 0#5) { wait := 0, seten := false, setslot := 2 } 0#32) = false
    ∧ wellFormed (.mark (.issue 0#5 1#5 0#5) noHdr 0#32) = false ∧ wellFormed (.mark (.issue 1#5 0#5 0#5) noHdr 0#32) = true
    ∧ wellFormed (.barrier (.issue 0#5 0#5 0#5) noHdr 0#6 384#9 0#16) = false
    ∧ wellFormed (.barrier (.issue 0#5 0#5 0#5) noHdr 0#6 383#9 0#16) = true
    ∧ wellFormed (.tiledef (.issue 0#5 0#5 0#5) noHdr 0#6 0#9 0#4 0#11 0#12) = false
    ∧ wellFormed (.tiledef (.issue 0#5 0#5 0#5) noHdr 0#6 0#9 0#4 0#11 2048#12) = true
    ∧ wellFormed (.signal (.issue 0#5 0#5 0#5) noHdr 1#10 false 0#8 0#6 1#32) = false := by decide +kernel

/-! ### One step -/

/-- Thread 0 with `c` as its context. -/
def one (c : Ctx) : State := { State.reset with ctxs := [(0, { c with st := .runnable })] }

/-- Thread 0's context at reset, privileged, with the registers listed. -/
def regs (l : List (GReg × Word)) : Ctx := l.foldl (fun c p => c.set p.1 p.2) (Ctx.reset 0)

/-- What the current context is after an instruction. -/
def after (i : Instr) (s : State) : State :=
  match exec i s with
  | .next t => t
  | _ => s

/-- Chapter 3's program: the quotient and remainder of −8 and −3, and a quotient by zero. -/
theorem test_division : let s := one (regs [(3, -8), (5, -3)])
    (after (.div 6#5 3#5 5#5) s).me.get 6#5 = 2 ∧ (after (.rem 7#5 3#5 5#5) s).me.get 7#5 = -2
    ∧ (after (.div 8#5 3#5 0#5) s).me.get 8#5 = -1 ∧ (after (.remn 8#5 3#5 0#5) s).me.get 8#5 = -8 := by decide +kernel

/-- R46: the most negative number divided by −1. -/
theorem test_division_overflow : let s := one (regs [(1, 0x8000000000000000#64), (2, -1)])
    (after (.div 3#5 1#5 2#5) s).me.get 3#5 = 0x8000000000000000#64 ∧ (after (.rem 3#5 1#5 2#5) s).me.get 3#5 = 0 := by decide +kernel

/-- R7: g0 reads zero and a write of it is discarded. -/
theorem test_g0 : let t := after (.addi 0#5 1#5 5#16) (one (regs [(1, 7)]))
    t.me.get 0#5 = 0 ∧ t.me.pc = 0x4100000004#64 := by decide +kernel

/-- Chapter 3: LI of −5, INSH of a halfword, LEA of a doubleword's address. -/
theorem test_constants : let s := one (regs [(1, 0), (2, 0x4100000100#64), (7, 3)])
    (after (.li 1#5 0x1FFFFB#21) s).me.get 1#5 = 0xFFFFFFFFFFFFFFFB#64
    ∧ (after (.insh 1#5 2#2 0x40#16) s).me.get 1#5 = 0x0000004000000000#64
    ∧ (after (.lea 4#5 2#5 7#5 3#2) s).me.get 4#5 = 0x4100000118#64 := by decide +kernel

/-- Chapter 3: the first halfwords of the table, 7 and −3, from the own CLM. -/
theorem test_load_halfword : let s := { one (regs [(2, 0x4100000080#64)]) with mem := [(0x4100000080, 7#8), (0x4100000082, 0xFD#8), (0x4100000083, 0xFF#8)] }
    (after (.ldH 4#5 2#5 0#16) s).me.get 4#5 = 7 ∧ (after (.ldH 4#5 2#5 2#16) s).me.get 4#5 = -3
    ∧ (after (.ldHn 4#5 2#5 2#16) s).me.get 4#5 = 0xFFFD#64 := by decide +kernel

/-- R24, R56: a store puts the least significant byte at the lowest address and changes no other. -/
theorem test_store_word : let t := after (.stW 7#5 2#5 4#16) (one (regs [(2, 0x4100000100#64), (7, 0x1122334455667788#64)]))
    t.mem = [(0x4100000104, 0x88#8), (0x4100000105, 0x77#8), (0x4100000106, 0x66#8), (0x4100000107, 0x55#8)] := by decide +kernel

/-- R53: a misaligned load takes a trap of cause 2 with the address in sy.taddr, at the own vector. -/
theorem test_misaligned : let t := (after (.ldD 4#5 2#5 4#16) (one (regs [(2, 0x4100000100#64)]))).me
    t.tcause = 2 ∧ t.taddr = 0x4100000104#64 ∧ t.epc = 0x4100000000#64 ∧ t.get 4#5 = 0 ∧ t.it = true := by decide +kernel

/-- R58, R61: a taken branch goes to here + off × 4; LOOP falls through when its count reaches 0. -/
theorem test_branches : let s := one { regs [(1, 1), (2, 2)] with pc := 0x4100000010#64 }
    (after (.bne 1#5 2#5 0xFFFE#16) s).me.pc = 0x4100000008#64 ∧ (after (.beq 1#5 2#5 4#16) s).me.pc = 0x4100000014#64
    ∧ (after (.loop 1#5 0xFFFD#16) s).me.pc = 0x4100000014#64 ∧ (after (.loop 2#5 0xFFFD#16) s).me.pc = 0x4100000004#64 := by decide +kernel

/-- Chapter 3: JAL from offset 0x2C leaves 0x30 in g31. -/
theorem test_jal : let t := (after (.jal 31#5 2#21) (one { regs [] with pc := 0x410000002C#64 })).me
    t.get 31#5 = 0x4100000030#64 ∧ t.pc = 0x4100000034#64 := by decide +kernel

/-- R21: a trap within a trap halts the context with tcause bit 9 set. -/
theorem test_nested_trap : let t := (after .brk (one { regs [] with status := 0x5#4, tcause := 12 })).me
    t.st = .halted ∧ t.tcause = 0x20C#64 ∧ t.epc = 0 := by decide +kernel

/-- R23: ERET goes to sy.epc and gives PRV its value from PPRV. -/
theorem test_eret : let t := (after .eret (one { regs [] with status := 0x5#4, epc := 0x4100000040#64 })).me
    t.pc = 0x4100000040#64 ∧ t.status = 0#4 := by decide +kernel

/-- R260: AMO.SADD clamps at the largest signed value and gives the old one. -/
theorem test_amo_sadd : amoNew 32 .f32 9 0x7FFFFFFF#32 1#32 = (0x7FFFFFFF#32, 0#5) ∧ amoNew 32 .f32 0 0xFFFFFFFF#32 1#32 = (0#32, 0#5) := by
  decide +kernel

/-- R315: an addition past 2^32 − 1 saturates, with cause 13 pending at the adder. -/
theorem test_semaphore_saturates :
    let t := after (.semrel 5#5 3#6) { one (regs [(5, 2)]) with cores := [(0, { CoreSt.reset 0 with sems := [(3, 0xFFFFFFFF#32)] })] }
    t.sem 0 3 = 0xFFFFFFFF#32 ∧ t.me.pend.getLsbD 13 = true ∧ t.me.pc = 0x4100000004#64 := by decide +kernel

/-- R91: the immediates 0x3F00 and 0xFFC1 as FF36 lanes. -/
theorem test_immediates :
    Num.packFF (Num.immValue 0x3F00#16) = 0x3FE800000#36 ∧ Num.packFF (Num.immValue 0xFFC1#16) = 0xFFFC10000#36 := by decide +kernel

/-- The register of the chapter's sum: 2^24, 1, 1, 1 in lanes 0 to 3, LM 0x0F. -/
def sumReg : VReg :=
  { lanes := 0x417800000#288 ||| (0x3FF800000#288 <<< 36) ||| (0x3FF800000#288 <<< 72) ||| (0x3FF800000#288 <<< 108), lm := 0x0F#8 }

/-- Chapter 5: LSUM of those lanes is 2^24 + 2 with NX, in the tree order. -/
theorem test_lsum : let t := (after (.lsum (.vop 4#4 1#4 0#4 0#4) (laneAB 1 0 0 7)) (one ((Ctx.reset 0).setV 1#4 sumReg))).me
    (t.getV 4#4).lane 0 = 0x417800001#36 ∧ t.fflags = Num.nx ∧ t.pc = 0x410000000C#64 := by decide +kernel

/-- Chapter 5: two lanes of MADD on one word, 5 and 7 on an old value of 1. -/
theorem test_madd : let a := rmwNew .madd 2 .rne 1 (ofI32 5); let b := rmwNew .madd 2 .rne a.1 (ofI32 7)
    a.2.1 = 1#36 ∧ b.1 = 13 ∧ b.2.1 = 6#36 := by decide +kernel

/-- Chapter 13: the dense level's result 17.75 without a flag, and the hashed corner (5, 9) at index 30. -/
theorem test_crystal : let r : Region := { base := 0, d := 2, l := 1, f := 1, t := 5, ef := 0, res := [4] }
    let ks := r.corners 0 [.fin false 3 (-3), .fin false 13 (-4)]
    ks.1.map (·.1) = [16, 17, 21, 22] ∧ ks.2 = 0#5
    ∧ levelResults 0 1 (ks.1.map (·.2)) [0x41800000, 0x41880000, 0x41A80000, 0x41B00000]
        = ([Num.packFF (.fin false 71 (-2))], 0#5)
    ∧ entryIndex 2 5 16 [5, 9] = 30 := by decide +kernel

/-- R391: the filter of chapter 21, on the channel (isl0, 5, 1, o). -/
def storeFilter : List (BitVec 16) :=
  [0x0200, 0x1401, 0x8650, 0xA0C1, 0xE000, 0x0204, 0x1828, 0x1840, 0x8660, 0xA0C1, 0xE000, 0x0205, 0x1A04, 0x9668, 0xA0C1, 0xB000, 0xD000]

/-- It keeps ordinals 0 to 3, counts later ones in C0 and drops other channels and types; no field of it is reserved. -/
theorem test_filter : let run (ty chan ord : Nat) := koroRun (traceRecord ty 0 0 chan ord 0) 64 storeFilter (List.replicate 8 0)
    run 1 0x5040 3 = .keep ∧ run 1 0x5040 4 = .count 0 ∧ run 1 0x5080 0 = .drop ∧ run 2 0x5040 0 = .drop
    ∧ storeFilter.all koroOk = true := by decide +kernel

/-- FIPS 180-4: the SHA-256 of the bytes of "abc" begins with BA 78 16 BF. -/
theorem test_sha256 : (Hash.sha256 [0x61#8, 0x62#8, 0x63#8]).take 4 = [0xBA#8, 0x78#8, 0x16#8, 0xBF#8] := by decide +kernel

/-- R131: SPAWN starts context 1 with the entry in PC, the argument in g1 and the parent in g2. -/
theorem test_spawn : let s := one (regs [(5, 0x4100000040#64), (6, 9)])
    let t := after (.spawn 3#5 5#5 6#5 false 0#2) { s with ctxs := s.ctxs.put 1 { Ctx.reset 1 with st := .free } }
    t.me.get 3#5 = 1 ∧ (t.ctx 1).st = .runnable ∧ (t.ctx 1).pc = 0x4100000040#64 ∧ (t.ctx 1).get 1#5 = 9 ∧ (t.ctx 1).get 2#5 = 0 := by
  decide +kernel

/-- R141: the only member of a group passes its barrier. -/
theorem test_barrier : let t := after (.gbar 7#5) (after (.gjoin 7#5) (one (regs [(7, 9)])))
    t.me.wait = .none ∧ t.me.pc = 0x4100000008#64 ∧ t.table 0 = [.group 9 1#32 0#32] := by decide +kernel

/-- R318: a ring of two slots takes two CBAPs and a third traps; CBWF of 2 passes then. -/
theorem test_ring : let h : Handle := { base := 0x4100000100#64, slot := 8, count := 2, p := 0, c := 0, valid := true }
    let s := after (.cbap 2#4 1#11) (after (.cbap 2#4 1#11) (one ((Ctx.reset 0).setH 2#4 h)))
    (s.me.getH 2#4).filled = 2 ∧ (after (.cbwf 2#4 2#11) s).me.pc = 0x410000000C#64 ∧ (after (.cbap 2#4 1#11) s).me.tcause = 1 := by
  decide +kernel

/-- R254 to R256: STF makes a word of an ME full, LDFE takes it and makes it empty. -/
theorem test_full_bit : let s := { one (regs []) with nextId := 1 }
    let f := s.performAt (wordReq 0 (.stf 7) 0x4000000008 0)
    f.1.isFull 0x4000000008 = true ∧ f.1.readMem 0x4000000008 8 = 7
    ∧ (f.1.performAt (wordReq 0 (.ldf true) 0x4000000008 0)).1.isFull 0x4000000008 = false := by decide +kernel

/-- R199, R206: the first launch takes entry 0, with launch id 0, and is READY at once; a second that names it waits. -/
theorem test_launch : let bs (npred pred : Nat) : List Byte := layout 64 [(19, 1, npred), (24, 4, pred)]
    let a := State.reset.launch (bs 0 0) 0
    let b := a.1.launch (bs 1 0) 0
    a.2 = 0 ∧ (a.1.entry 0).st = .ready ∧ b.2 = 1 ∧ (b.1.entry 1).st = .waiting ∧ (b.1.entry 0).succ = [1] := by decide +kernel

/-! ### States and operands that meet the hypotheses of the statements -/

/-- Targets at both ends of the own CLM; registers that order differently with and without sign. -/
theorem witness_ConditionalBranches : let s := one (regs [(1, -1), (2, 1)])
    GoodTarget s.cur (s.me.pc + (0#16).signExtend 64 * 4#64) ∧ GoodTarget s.cur (s.me.pc + (0x3FFF#16).signExtend 64 * 4#64)
    ∧ s.me.get 1#5 = s.me.get 1#5 ∧ s.me.get 1#5 ≠ s.me.get 2#5 ∧ (s.me.get 1#5).toInt < (s.me.get 2#5).toInt
    ∧ (s.me.get 2#5).toNat ≤ (s.me.get 1#5).toNat ∧ (s.me.get 1#5).toInt ≤ (s.me.get 2#5).toInt
    ∧ (s.me.get 2#5).toNat < (s.me.get 1#5).toNat := by
  unfold GoodTarget; decide +kernel

theorem witness_JumpsAndLoop : let s := one (regs [(1, 0x4100000001#64), (2, 1)])
    GoodTarget s.cur (s.me.pc + (0x3FFF#21).signExtend 64 * 4#64) ∧ GoodTarget s.cur (s.me.get 1#5 + (0xFFFF#16).signExtend 64)
    ∧ s.me.get 1#5 ≠ 1 ∧ GoodTarget s.cur (s.me.pc + (0#16).signExtend 64 * 4#64) ∧ s.me.get 2#5 = 1 := by
  unfold GoodTarget; decide +kernel

/-- One word past either end of the own CLM, and an address that is no multiple of 4; conditions as in the branches. -/
theorem witness_BadTargetsTrap : let s := one { regs [(1, 0x4100000000#64), (2, 5), (3, -1), (4, 1)] with epc := 0x4100010000#64 }
    s.me.it = false ∧ s.me.get 1#5 ≠ 1 ∧ s.me.get 1#5 ≠ s.me.get 2#5 ∧ (s.me.get 1#5 + (3#16).signExtend 64).toNat % 4 ≠ 0
    ∧ (s.me.get 3#5).toInt < (s.me.get 4#5).toInt ∧ (s.me.get 4#5).toNat < (s.me.get 3#5).toNat ∧ s.me.get 4#5 = 1
    ∧ s.me.prv = true ∧ s.me.epc.toNat % 4 = 0 ∧ ¬GoodTarget s.cur s.me.epc
    ∧ (s.me.pc + (0x4000#16).signExtend 64 * 4#64).toNat % 4 = 0
    ∧ ¬GoodTarget s.cur (s.me.pc + (0x4000#16).signExtend 64 * 4#64)
    ∧ ¬GoodTarget s.cur (s.me.pc + (0xFFFF#16).signExtend 64 * 4#64)
    ∧ ¬GoodTarget s.cur (s.me.pc + (0x1FFFFF#21).signExtend 64 * 4#64) := by
  unfold GoodTarget; decide +kernel

theorem witness_TrapInstructions : (one (regs [])).me.it = false := by decide +kernel

theorem witness_NestedTrapsHalt : (one { regs [] with status := 0x5#4 }).me.it = true := by decide +kernel

theorem witness_ReturnFromTrap : let s := one { regs [] with status := 0x5#4, epc := 0x410000FFFC#64 }
    s.me.prv = true ∧ GoodTarget s.cur s.me.epc := by
  unfold GoodTarget; decide +kernel

/-- An unprivileged thread, and a write that would make it privileged. -/
theorem witness_PrivilegeTraps : let s := one { regs [(1, 1)] with status := 0#4 }
    s.me.prv = false ∧ s.me.it = false ∧ 0x00A ≤ (0x00A#11).toNat ∧ (0x00D#11).toNat ≤ 0x00D
    ∧ (s.me.get 1#5).extractLsb' 0 3 ≠ s.me.status.extractLsb' 0 3 := by decide +kernel

theorem witness_SystemRegisterReads : let s := one (regs [])
    s.me.prv = true ∧ s.me.it = false ∧ 0x010 < (0x011#11).toNat ∧ (0x00F#11).toNat = 0x00F := by decide +kernel

/-- Rounding modes 4 and 5 stand at the limit; an unprivileged thread sets SEN alone. -/
theorem witness_SystemRegisterWrites : let s := one (regs [(1, 4), (2, 5)])
    let u := one { regs [(1, 8)] with status := 0#4 }
    (u.me.prv = false ∧ (u.me.get 1#5).extractLsb' 0 3 = u.me.status.extractLsb' 0 3 ∧ (u.me.get 1#5).setWidth 4 ≠ u.me.status)
    ∧ s.me.prv = true ∧ s.me.it = false ∧ ((s.me.get 1#5).setWidth 3).toNat < 5 ∧ 5 ≤ ((s.me.get 2#5).setWidth 3).toNat := by decide +kernel

/-- A privileged thread beside a pan with an armed time and a table entry that waits for placement. -/
theorem witness_HaltAndTladj : let s := { one (regs [(1, 5)]) with entries := [(3, { Entry.blank with st := .ready, rtime := 7 })] }
    s.me.prv = true ∧ (s.entries.find? 3).isSome = true := by decide +kernel

/-- The last bytes of each size in the own CLM. -/
theorem witness_LocalLoads : let s := one (regs [])
    OwnClm 0x410000FFFF 1 .read s ∧ OwnClm 0x410000FFFE 2 .read s ∧ OwnClm 0x410000FFFC 4 .read s ∧ OwnClm 0x410000FFF8 8 .read s := by
  unfold OwnClm OwnAt InOwn; decide +kernel

theorem witness_LocalStores : let s := one (regs [])
    MemInv s ∧ MemInv { s with bad := [0x410000FFF8 / 8] } ∧ OwnAt 0x410000FFFF 1 .write { s with bad := [0x410000FFF8 / 8] }
    ∧ OwnClm 0x4100000000 1 .write s ∧ OwnClm 0x410000FFFE 2 .write s ∧ OwnClm 0x410000FFFC 4 .write s
    ∧ OwnClm 0x410000FFF8 8 .write s := by
  unfold MemInv OwnClm OwnAt InOwn; decide +kernel

theorem witness_MisalignedTraps : let s := one (regs [(1, 0x4100000007#64)])
    s.me.it = false ∧ (s.me.get 1#5 + (0#16).signExtend 64).toNat % 2 ≠ 0 ∧ (s.me.get 1#5 + (0#16).signExtend 64).toNat % 4 ≠ 0
    ∧ (s.me.get 1#5 + (0xFFFF#16).signExtend 64).toNat % 8 ≠ 0 ∧ (s.me.get 1#5 + (0x7FF#11).signExtend 64).toNat % 8 ≠ 0
    ∧ (s.me.get 1#5).toNat % 8 ≠ 0 ∧ (s.me.get 1#5).toNat % 4 ≠ 0 ∧ (s.me.get 1#5).toNat % 128 ≠ 0 ∧ (s.me.get 1#5).toNat % 64 ≠ 0
    ∧ { s with ready1 := 1 }.mdReady = true ∧ s.failover = false := by decide +kernel

/-- A page of the first memory element, mapped to itself, as the one entry of a thread's translation cache. -/
def page : TlbEntry := { va := 0x4000000000, pa := 0x4000000000, size := 0x10000, r := true, w := true, a := true }

/-- Thread 0 with that page. -/
def mapped (l : List (GReg × Word)) : State := one { regs l with tlb := [page] }

/-- A page that lets nothing through, at an aligned address; the own CLM with a table that grants nothing; an image in it; a page of an
ME whose table grants nothing. -/
theorem witness_MisalignedTraps_refusals :
    (let s := one { regs [] with tlb := [{ page with r := false, w := false }] }
     0x4000000000 % 8 = 0 ∧ ∀ k ∈ [Acc.read, .write, .atomic, .readWrite], (s.me.lookupAll 0x4000000000 k).1 = .fault)
    ∧ (let s := { one (regs []) with tables := [(16 * 24576, (0, 0))] }
       InOwn 0x410000FFF8 s ∧ s.grants (24576 + coreOf s.cur) s.cur 0x410000FFF8 .read = false
        ∧ (s.me.lookupAll 0x410000FFD8 .read).1 = .pa 0x410000FFD8 ∧ 8 < 40 ∧ 0x410000FFD8 + 40 ≤ s.pageEnd 0x410000FFD8
        ∧ s.accepts s.cur 0x410000FFD8 .read = false)
    ∧ (let s := { mapped [] with tables := [(0, (0, 0))] }
       (s.me.lookupAll 0x400000FFF8 .read).1 = .pa 0x400000FFF8 ∧ 0x400000FFF8 + 8 ≤ s.pageEnd 0x400000FFF8
        ∧ s.accepts s.cur 0x400000FFF8 .read = false ∧ s.home 0x400000FFF8 = .me 0 ∧ s.inCopy 0x400000FFF8 = false
        ∧ s.reqs.all (fun q => q.2.owner ≠ .ctx s.cur) = true ∧ ¬InOwn 0x400000FFF8 s) := by
  unfold InOwn; decide +kernel

/-- A home of memory that takes atomics. -/
def inMemory (s : State) (pa : Nat) : Bool :=
  match s.home pa with
  | .me _ => true
  | .dram _ _ => true
  | _ => false

theorem inMemory_home {s : State} {pa : Nat} (h : inMemory s pa = true) :
    (∃ m, s.home pa = .me m) ∨ ∃ c k, s.home pa = .dram c k := by
  unfold inMemory at h
  split at h
  · exact .inl ⟨_, ‹_›⟩
  · exact .inr ⟨_, _, ‹_›⟩
  · cases h

/-- `Reaches` and `Mapped` as checks. -/
def reaches (ea n pa : Nat) (k kt : Acc) (s : State) : Bool :=
  ea % n = 0 && decide (ea + n ≤ s.pageEnd ea) && (s.me.lookup ea kt).1 = .pa pa && inClm ea = false && s.accepts s.cur pa k
    && inMemory s pa && s.inCopy pa = false && s.reqs.all (fun q => q.2.owner ≠ .ctx s.cur) && s.isBad pa n = false

theorem reaches_of {ea n pa : Nat} {k kt : Acc} {s : State} (h : reaches ea n pa k kt s = true) : Reaches ea n pa k kt s := by
  simp only [reaches, Bool.and_eq_true, decide_eq_true_eq] at h
  obtain ⟨⟨⟨⟨⟨⟨⟨⟨h1, h2⟩, h3⟩, h4⟩, h5⟩, h6⟩, h7⟩, h8⟩, h9⟩ := h
  exact ⟨⟨h1, h2, h3, h4, h5, inMemory_home h6, h7, by simpa using h8⟩, h9⟩

def mappedBy (e : TlbEntry) (as : List Nat) (n : Nat) (k : Acc) (s : State) : Bool :=
  s.me.tlb = [e] && e.r && e.w && e.a && s.reqs.all (fun q => q.2.owner ≠ .ctx s.cur)
    && as.all (fun a => inClm a = false && decide (a < 2 ^ 52) && e.covers a && s.accepts s.cur (e.to a) k
        && inMemory s (e.to a) && s.isBad (e.to a) n = false && s.inCopy (e.to a) = false)

theorem mapped_of {e : TlbEntry} {as : List Nat} {n : Nat} {k : Acc} {s : State} (h : mappedBy e as n k s = true) :
    Mapped e as n k s := by
  simp only [mappedBy, Bool.and_eq_true, decide_eq_true_eq, List.all_eq_true] at h
  obtain ⟨⟨⟨⟨⟨h1, h2⟩, h3⟩, h4⟩, h5⟩, h6⟩ := h
  refine ⟨h1, h2, h3, h4, by simpa using h5, fun a ha => ?_⟩
  obtain ⟨⟨⟨⟨⟨⟨a1, a2⟩, a3⟩, a4⟩, a5⟩, a6⟩, a7⟩ := h6 a ha
  exact ⟨a1, a2, a3, a4, inMemory_home a5, a6, a7⟩

theorem witness_RemoteLoads :
    Reaches 0x400000FFFF 1 0x400000FFFF .read .read (mapped []) ∧ Reaches 0x400000FFFE 2 0x400000FFFE .read .read (mapped [])
    ∧ Reaches 0x4000000004 4 0x4000000004 .read .read (mapped []) ∧ Reaches 0x400000FFF8 8 0x400000FFF8 .read .read (mapped []) :=
  ⟨reaches_of (by decide +kernel),
   reaches_of (by decide +kernel),
   reaches_of (by decide +kernel),
   reaches_of (by decide +kernel)⟩

theorem witness_RemoteStores : MemInv (mapped []) ∧
    (MemInv { mapped [] with bad := [0x400000FFF8 / 8] }
      ∧ Lands 0x400000FFF8 8 0x400000FFF8 .write .write { mapped [] with bad := [0x400000FFF8 / 8] }) ∧
    Reaches 0x400000FFFF 1 0x400000FFFF .write .write (mapped []) ∧ Reaches 0x400000FFFE 2 0x400000FFFE .write .write (mapped [])
    ∧ Reaches 0x4000000004 4 0x4000000004 .write .write (mapped []) ∧ Reaches 0x400000FFF8 8 0x400000FFF8 .write .write (mapped []) :=
  ⟨by unfold MemInv; decide +kernel,
   ⟨by unfold MemInv; decide +kernel, by decide +kernel, by decide +kernel, rfl, rfl, by decide +kernel, .inl ⟨0, by decide +kernel⟩,
     by decide +kernel, rfl⟩,
   reaches_of (by decide +kernel),
   reaches_of (by decide +kernel),
   reaches_of (by decide +kernel),
   reaches_of (by decide +kernel)⟩

/-- The last image of 40 bytes in the own CLM and in a page of an ME. -/
theorem witness_VectorLoadsAndStores : let s := mapped []
    MemInv s ∧ ImageAt 0x410000FFD8 0x410000FFD8 .read s ∧ ImageAt 0x410000FFD8 0x410000FFD8 .write s
    ∧ ImageAt 0x400000FFD8 0x400000FFD8 .read s ∧ ImageAt 0x400000FFD8 0x400000FFD8 .write s := by
  unfold MemInv ImageAt; decide +kernel

/-- With NX enabled: the sum of 2^24 and 2^24 in each lane raises nothing, that of 2^24 and 1 traps. -/
theorem witness_VopCompletes : let one1 : VReg := { lanes := 0x3FF800000#288, lm := 1#8 }
    let s := one ((((Ctx.reset 0).setV 1#4 sumReg).setV 2#4 { sumReg with lm := 1#8 }).setV 5#4 one1)
    let w : LaneW := { laneAB 1 2 0 7 with xen := Num.nx }
    let res (vb : VNum) := laneOp .fadd w (s.me.mode w.rnd) (operand .fadd w 0 w.asel (prefixReg s.me 1 vb 0) VReg.zeros)
      (operand .fadd w 1 w.bsel (prefixReg s.me 1 vb 0) VReg.zeros) (operand .fadd w 2 w.csel (prefixReg s.me 1 vb 0) VReg.zeros)
      VReg.zeros (prefixReg s.me 1 vb 0 0)
    laneLegal true .fadd w = true ∧ s.me.it = false ∧ (s.me.getV 3#4).lanes = 0
    ∧ trapped w (res 2#4).2 = 0#5 ∧ trapped w (res 5#4).2 ≠ 0#5 := by decide +kernel

/-- Words of one, two and three operands on registers, with no flag enabled, of each format and kind. -/
theorem witness_VopCompletes_values :
    let un (f : Nat) : LaneW := { laneAB 1 0 0 0 with fmt := BitVec.ofNat 4 f }
    let bin (f : Nat) : LaneW := { laneAB 1 2 0 0 with fmt := BitVec.ofNat 4 f }
    let tri (f : Nat) : LaneW := { laneAB 1 2 0 0 with csel := 3, fmt := BitVec.ofNat 4 f }
    (∀ w ∈ [un 0, bin 1, tri 2], w.asel = 1#3 ∧ w.xen = 0#5) ∧ (bin 0).bsel = 2#3 ∧ (tri 0).bsel = 2#3 ∧ (tri 0).csel = 3#3
    ∧ (∀ o ∈ [LOp.fneg, .fabs, .fsqrt, .frcp, .frsq, .fexp2, .flog2, .ftanh, .fsig, .cvtfd, .cvtdf, .lsum, .lmax, .lperm, .lbcast, .lext],
        laneLegal true o (un 0) = true)
    ∧ (∀ o ∈ [LOp.fadd, .fsub, .fmul, .fmin, .fmax, .fdiv, .fcmp, .lshift, .lins], laneLegal true o (bin 0) = true)
    ∧ (∀ o ∈ [LOp.dadd, .dsub, .dmul, .dmin, .dmax, .ddiv, .fcmp], laneLegal true o (bin 1) = true)
    ∧ (∀ o ∈ [LOp.dsqrt, .lsum, .lmax], laneLegal true o (un 1) = true)
    ∧ (∀ o ∈ [LOp.lsum, .lmax, .iabs, .cvtfi, .cvtif, .cvtin, .cvtout], laneLegal true o (un 2) = true)
    ∧ (∀ o ∈ [LOp.cvtfi, .cvtif], laneLegal true o (un 3) = true)
    ∧ (∀ o ∈ [LOp.fma, .fnma, .sel], laneLegal true o (tri 0) = true) ∧ (∀ o ∈ [LOp.dfma, .sel], laneLegal true o (tri 1) = true)
    ∧ (∀ o ∈ [LOp.imad, .sel], laneLegal true o (tri 2) = true)
    ∧ (∀ o ∈ [LOp.icmp, .imulh, .isadd], laneLegal true o (bin 2) = true) ∧ (∀ o ∈ [LOp.imulh, .isadd], laneLegal true o (bin 3) = true) := by
  decide +kernel

/-- R107 at exact arguments: 1 / 8, the root of 9 / 4, and log2 of 2^-3. -/
theorem test_exact_functions : Num.divR Num.ff36 .rne (.fin false 1 0) (.fin false 1 3) = Num.roundTo Num.ff36 .rne false 1 (-3) false
    ∧ Num.packFF (Num.sqrtR Num.ff36 .rne (.fin false 9 (-2))).1 = Num.packFF (.fin false 3 (-1))
    ∧ Num.packFF (Num.log2R Num.ff36 .rne (.fin false 1 (-3))).1 = Num.packFF (.fin true 3 0) := by decide +kernel

theorem witness_IntegerLanes : let w := { laneAB 1 2 0 0 with fmt := 2 }
    w.asel = 1#3 ∧ w.bsel = 2#3
    ∧ ∀ o ∈ [LOp.iadd, .isub, .imul, .iand, .ior, .ixor, .ishl, .ishr, .isar, .imin, .imax, .iminn, .imaxn],
        laneLegal true o w = true := by decide +kernel

theorem witness_ThreadInstructions : let s := one (regs [])
    let t := { s with ctxs := s.ctxs.put 1 { Ctx.reset 1 with st := .free } }
    (t.freeCtxs (coreOf t.cur)).head? = some 1 ∧ 1 ≠ t.cur ∧ s.freeCtxs (coreOf s.cur) = [] ∧ s.me.slotsIdle = true
    ∧ t.groupsOf 1 = [] ∧ s.groupsOf s.cur = [] := by decide +kernel

/-- A channel of core 0 that holds one message. -/
def oneMsg (ch : Nat) : Map CoreSt := [(0, { CoreSt.reset 0 with chans := [(ch, [[7, 8]])] })]

/-- An island that is ready, and channels 0 and 63 of the own core. -/
theorem witness_Messages : let s := { one (regs [(4, 63), (3, 0x8000000000000000#64)]) with ready0 := 1, cores := oneMsg 63 }
    let chan := ((s.me.get 4#5).extractLsb' 0 6).toNat
    s.sendRefused s.cur 0 = false ∧ s.msgs.all (fun x => x.2.src ≠ s.cur) = true ∧ s.inReset 0 = false
    ∧ (s.chan 0 chan).length < 4 ∧ (s.core 0).recvq.getD chan [] = [] ∧ (List.range 8).all (fun i => (s.ctx (0 * 8 + i)).wait = .none) = true
    ∧ s.chan (coreOf s.cur) 63 = [7, 8] :: [] ∧ (28#5).toNat + 3 < 32 ∧ s.ready (coreOf s.cur) (s.me.get 3#5) ≠ 0 := by
  decide +kernel

theorem witness_Groups : let s := one (regs [(7, 0xFFFF)])
    let t := { s with sync := [(0, [.group 0xFFFF 1#32 0])] }
    s.findSync (islandOf s.cur) (isGroup 0xFFFF) = none ∧ (s.table (islandOf s.cur)).length < 64
    ∧ t.findSync (islandOf t.cur) (isGroup 0xFFFF) = some (.tab 0, .group 0xFFFF (1#32 <<< (t.cur % 32)) 0)
    ∧ t.me.rn = none ∧ t.me.bf = .none ∧ t.me.stop = false ∧ t.me.st = .runnable := by decide +kernel

/-- A count that SEMACQ takes whole, one that it does not meet, and slots at 0 and 1. -/
theorem witness_SemaphoresAndSlots :
    let s := { one ((regs [(5, 3), (6, 4)]).setD 2 { count := 1, err := false }) with cores := [(0, { CoreSt.reset 0 with sems := [(3, 3)] })] }
    (s.core (coreOf s.cur)).semq.getD 3 [] = [] ∧ s.me.stop = false ∧ s.me.st = .runnable ∧ s.me.prv = true
    ∧ ((s.me.get 5#5).setWidth 32).toNat ≤ (s.sem (coreOf s.cur) 3).toNat
    ∧ ¬((s.me.get 6#5).setWidth 32).toNat ≤ (s.sem (coreOf s.cur) 3).toNat
    ∧ (∀ i : BitVec 3, (3#8).getLsbD i.toNat = true → (s.me.getD i).count = 0)
    ∧ (∃ i : BitVec 3, (4#8).getLsbD i.toNat = true ∧ (s.me.getD i).count ≠ 0) := by decide +kernel

/-- The last ring of the own CLM, with the largest slot; a full ring and one that lacks a slot. -/
theorem witness_RingInstructions :
    let h : Handle := { base := 0x4100000100#64, slot := 8, count := 2, p := 0xFFFFFFFF#32, c := 0xFFFFFFFE#32, valid := true }
    let s := one ((regs [(4, 0x4100000000#64), (5, 0x18000#64)]).setH 2#4 h)
    let x := s.me.getH 2#4
    let slot := ((s.me.get 5#5).extractLsb' 0 16).toNat
    let cnt := ((s.me.get 5#5).extractLsb' 16 12).toNat + 1
    (s.me.get 5#5).toNat < 2 ^ 28 ∧ slot % 8 = 0 ∧ 0 < slot ∧ slot ≤ 32768 ∧ (s.me.get 4#5).toNat % 8 = 0 ∧ s.cur < 2048
    ∧ clmBase (coreOf s.cur) ≤ (s.me.get 4#5).toNat ∧ (s.me.get 4#5).toNat + cnt * slot ≤ clmBase (coreOf s.cur) + 0x10000
    ∧ s.ringNamed s.cur 2#4 = false ∧ x.valid = true ∧ (1#11).toNat ≤ x.count.toNat ∧ (1#11).toNat ≤ (x.p - x.c).toNat
    ∧ (1#11).toNat ≤ x.count.toNat - (x.p - x.c).toNat ∧ (x.p - x.c).toNat + (1#11).toNat ≤ x.count.toNat := by decide +kernel

/-- A full word for LDF and LDFE, and an empty one for STF. -/
theorem witness_SynchronisingAccesses :
    let s := { mapped [(6, 0x4000000008#64)] with full := [0x4000000008 / 8] }
    MemInv s ∧ (∃ m, s.home 0x4000000008 = .me m) ∧ s.waitersOf (0x4000000008 / 8) = [] ∧ s.isFull 0x4000000008 = true
    ∧ (s.me.get 6#5).toNat = 0x4000000008 ∧ Reaches 0x4000000008 8 0x4000000008 .read .read s
    ∧ Reaches 0x4000000008 8 0x4000000008 .read .readWrite s ∧ s.accepts s.cur 0x4000000008 .write = true
    ∧ Reaches 0x4000000008 8 0x4000000008 .write .write s :=
  ⟨by unfold MemInv; decide +kernel, ⟨0, by decide +kernel⟩, by decide +kernel, by decide +kernel, by decide +kernel,
   reaches_of (by decide +kernel),
   reaches_of (by decide +kernel),
   by decide +kernel,
   reaches_of (by decide +kernel)⟩

theorem witness_Atomics : let s := mapped [(6, 0x4000000008#64)]
    MemInv s ∧ s.dbg = [] ∧ (s.me.get 6#5).toNat = 0x4000000008 ∧ Reaches 0x4000000008 8 0x4000000008 .atomic .atomic s
    ∧ Reaches 0x400000000C 4 0x400000000C .atomic .atomic s
    ∧ s.cmds.all (fun c => c.2.src ≠ some s.cur || c.2.accepted) = true ∧ 3 ≤ (3#3).toNat ∧ (2#3).toNat < 3 :=
  ⟨by unfold MemInv; decide +kernel, rfl, by decide +kernel,
   reaches_of (by decide +kernel),
   reaches_of (by decide +kernel),
   by decide +kernel⟩

/-- A free lock word, and one that thread 0 holds. -/
theorem witness_Locks : let s := mapped [(9, 0x4000000008#64)]
    let t := { s with mem := [(0x400000000F, 0x80#8)] }
    MemInv s ∧ MemInv t ∧ s.dbg = [] ∧ (s.me.get 9#5).toNat = 0x4000000008 ∧ Reaches 0x4000000008 8 0x4000000008 .atomic .atomic s
    ∧ Reaches 0x4000000008 8 0x4000000008 .atomic .atomic t ∧ s.cur < 2048 ∧ s.readMem 0x4000000008 8 = 0
    ∧ t.readMem 0x4000000008 8 = 2 ^ 63 + t.link.devid.toNat * 2 ^ 11 + t.cur :=
  ⟨by unfold MemInv; decide +kernel, by unfold MemInv; decide +kernel, rfl, by decide +kernel,
   reaches_of (by decide +kernel),
   reaches_of (by decide +kernel),
   by decide +kernel⟩

/-- The last area of the own CLM, a halted context 7, and an area of zeros. -/
theorem witness_ContextMoves : let s := one (regs [(9, 0x410000FA00#64)])
    s.me.prv = true ∧ s.cur / 8 * 8 + 7 ≠ s.cur ∧ 0x410000FA00 % 64 = 0 ∧ (s.ctx 7).st = .halted ∧ MemInv s
    ∧ OwnBlock 0x410000FA00 1536 .write s ∧ OwnBlock 0x410000FA00 1536 .read s ∧ (s.ctx 7).slotsIdle = true ∧ s.noProbe 7 = true
    ∧ areaOk ((List.range 1536).map (fun i => Memory.get s.mem (0x410000FA00 + i))) = true := by
  unfold MemInv OwnBlock OwnClm OwnAt InOwn
  decide +kernel

/-- The root, an open scope 5 below it, a closed one that counts nothing (6) and one that counts work (7). -/
def someScopes : Map Scope :=
  [(0, { Scope.init 0 with kids := 3 }), (5, { Scope.init 5 with inUse := true }),
   (6, { Scope.init 6 with inUse := true, closed := true }), (7, { Scope.init 7 with inUse := true, count := 1 })]

/-- Every entry of the scope table in use. -/
def fullScopes : Map Scope := (List.range 256).map (fun i => (i, { Scope.init i with inUse := true }))

theorem witness_Scopes : let s := { one (regs []) with ready1 := 1, scopes := someScopes }
    let t := { s with scopes := fullScopes }
    s.mdReady = true ∧ s.failover = false ∧ s.liveScope 0 = some 0 ∧ (s.scope 0).closed = false ∧ (s.scope 1).inUse = false
    ∧ s.liveScope 0xFFFFFF05 = none ∧ s.liveScope 6 = some 6 ∧ (s.scope 6).closed = true
    ∧ t.mdReady = true ∧ t.failover = false ∧ t.liveScope 255 = some 255 ∧ (t.scope 255).closed = false
    ∧ (List.range 256).all (fun j => j = 0 || (t.scope j).inUse) = true
    ∧ s.liveScope 5 = some 5 ∧ (s.scope 5).count = 0 ∧ (s.scope 5).kids = 0 ∧ s.liveScope 7 = some 7 ∧ (s.scope 7).count ≠ 0 := by
  decide +kernel

/-- An empty record of shape 5, and one of 16 predecessors too many. -/
theorem witness_Launches :
    let rec' (npred : Nat) : List Host.Cell := if npred = 0 then [(0x4000000012, 5#8)] else [(0x4000000012, 5#8), (0x4000000013, 9#8)]
    let s := { mapped [(9, 0x4000000000#64)] with ready1 := 1, mem := rec' 0 }
    let t := { mapped [(9, 0x4000000000#64)] with ready1 := 1, mem := rec' 9 }
    let bs (s : State) := (List.range 8).flatMap (fun i => bytesOf 8 (s.readMem (page.to 0x4000000000 + 8 * i) 8))
    (s.mdReady = true ∧ s.failover = false ∧ (s.me.get 9#5).toNat % 64 = 0 ∧ Mapped page (dwordsOf 0x4000000000 64) 8 .read s
      ∧ Mapped page (dwordsOf 0x4000000000 64) 8 .read t)
    ∧ launchRecord (bs t) t.cur = none
    ∧ launchRecord (bs s) s.cur = some ({ Entry.blank with nimg := 1, shape := 5, owner := 0 }, [])
    ∧ s.liveScope 0 = some 0 ∧ (s.scope 0).closed = false ∧ s.freeEntry = some 0 := by
  exact ⟨⟨rfl, rfl, by decide +kernel, mapped_of (by decide +kernel), mapped_of (by decide +kernel)⟩, by decide +kernel⟩

/-- A table that lists each of `n` entries finds every one, so a search for one that it lacks finds none. -/
theorem find_range (e : Entry) : ∀ n lo i, lo ≤ i → i < lo + n → Map.find? ((List.range' lo n).map (fun i => (i, e))) i = some e := by
  intro n
  induction n with
  | zero => intro lo i h1 h2; omega
  | succ n ih =>
    intro lo i h1 h2
    rw [List.range'_succ, List.map_cons, Map.find?_cons]
    split
    · rfl
    · exact ih (lo + 1) i (by omega) (by omega)

theorem firstFrom_none {p : Nat → Bool} : ∀ n lo, (∀ i, lo ≤ i → i < lo + n → p i = false) → firstFrom p lo n = none := by
  intro n
  induction n with
  | zero => intro lo _; rfl
  | succ n ih =>
    intro lo h
    rw [firstFrom, h lo (by omega) (by omega)]
    exact ih (lo + 1) (fun i a b => h i (by omega) (by omega))

/-- A record of one predecessor, entry 3, which waits and has one link left, in an open scope under the root; the same with no entry
free, in a closed scope, and in a scope that is not live. -/
theorem witness_Launches_results :
    let rec' (scope : BitVec 8) : List Host.Cell :=
      [(0x4000000012, 5#8), (0x4000000013, 1#8), (0x4000000014, scope), (0x4000000018, 3#8)]
    let busy : Entry := { Entry.blank with st := .waiting, nimg := 1, succ := List.replicate 7 9 }
    let s (scope : BitVec 8) := { mapped [(9, 0x4000000000#64)] with
      ready1 := 1, mem := rec' scope, scopes := someScopes, entries := [(3, busy)] }
    let full := { s 5#8 with entries := (List.range' 0 4096).map (fun i => (i, busy)) }
    let bs (s : State) := (List.range 8).flatMap (fun i => bytesOf 8 (s.readMem (page.to 0x4000000000 + 8 * i) 8))
    let got (s : State) := (launchRecord (bs s) s.cur).map (fun x => (x.1.scope, x.2))
    Mapped page (dwordsOf 0x4000000000 64) 8 .read (s 5#8)
    ∧ (got (s 5#8) = some (5, [3]) ∧ (s 5#8).liveScope 5 = some 5 ∧ ((s 5#8).scope 5).closed = false ∧ (s 5#8).freeEntry = some 0
      ∧ [3].filterMap (s 5#8).pendingEntry = [3] ∧ ((s 5#8).entry 3).succ.length < 8 ∧ ((s 5#8).scope 5).parent % 256 = 0)
    ∧ (got (s 6#8) = some (6, [3]) ∧ (s 6#8).liveScope 6 = some 6 ∧ ((s 6#8).scope 6).closed = true)
    ∧ (got (s 9#8) = some (9, [3]) ∧ (s 9#8).liveScope 9 = none)
    ∧ full.freeEntry = none := by
  refine ⟨mapped_of (by decide +kernel), by decide +kernel, by decide +kernel, by decide +kernel, ?_⟩
  refine firstFrom_none _ _ (fun i a b => ?_)
  simp only [State.entry, Map.getD, find_range _ _ _ _ a b]
  rfl

/-! A small region for the statements of the fabric. -/

/-- An element record at a site. -/
def elemRec (x y kind : Nat) (word : BitVec 64) : ElemRec :=
  { x := x, y := y, kind := kind, word := word, ii := 1, oqx := 0, sce := false, ldir := false }

/-- The word of an AG stream: wide port, direction and storage format. -/
def portWord (wp out sfmt stream : Nat) : BitVec 64 :=
  BitVec.ofNat 64 (wp * 2 ^ 58 + out * 2 ^ 57 + sfmt * 2 ^ 53 + stream * 2 ^ 9)

def route (sx sy sport dx dy dport slack : Nat) : RouteRec :=
  { sx := sx, sy := sy, sport := sport, sstr := 0, br := [{ dx := dx, dy := dy, dport := dport, slack := slack, dstr := 0 }] }

def ropRec (x y op mode rank : Nat) : RopRec := { x := x, y := y, op := op, mode := mode, rank := rank }

/-- Words of the region's elements: FADD with NX enabled, ACCF, LUT of tile 3, MADD, PANQ; CNT of one level of four. -/
def faddW : LaneW := { laneAB 1 2 0 0 with xen := Num.nx }
def accfW : LaneW := { laneAB 1 0 0 0 with emit := 1 }
def lutW : LaneW := { laneAB 1 0 0 0 with fmt := 2, param := 3 }
def maddW : LaneW := { laneAB 1 2 0 0 with fmt := 2 }
def panqW : LaneW := laneAB 1 0 0 0

def cntWord : BitVec 64 := laneBits .cnt { laneAB 0 0 0 0 with fmt := 1, emit := 1, param := 3 }

/-- The image: a reading port, five elements, a writing port, and one operator of each kind. -/
def fabricImage : Image :=
  { shape := 0, prank := 0, mper := 256,
    elems := [elemRec 0 1 2 (portWord 0 0 1 0), elemRec 1 1 0 (laneBits .fadd faddW), elemRec 2 1 0 (laneBits .accf accfW),
              elemRec 5 1 1 (laneBits .lut lutW), elemRec 5 2 1 (laneBits .madd maddW), elemRec 3 1 0 (laneBits .panq panqW),
              elemRec 0 2 2 (portWord 1 1 1 0), elemRec 6 1 0 cntWord],
    routes := [route 0 1 0 1 1 0 4, route 2 1 0 0 2 0 4, route 1 4 1 4 4 0 4, route 1 4 2 4 5 0 4, route 2 4 1 4 6 0 4,
               route 3 4 1 4 7 0 4, route 3 5 1 5 7 0 4, route 1 1 0 2 1 0 4, route 3 6 1 6 7 0 4],
    rops := [ropRec 1 4 0 0 0, ropRec 2 4 1 0 0, ropRec 3 4 2 0 0, ropRec 3 5 2 1 0, ropRec 3 6 3 0 2,
             ropRec 4 4 1 0 0, ropRec 4 5 1 0 0, ropRec 4 6 1 0 0, ropRec 4 7 1 0 0, ropRec 5 7 1 0 0, ropRec 6 7 1 0 0],
    ords := [], ctls := [{ node := 0, type := 3, parent := 0, iter := 1, lx := 6, ly := 1, lstr := 0 }], mes := [] }

/-- A plan without checks. -/
def planOf (im : Image) : Plan :=
  { img := im, conns := im.conns, stores := [], bufs := [], ins := [], outs := [], topo := im.topo }

/-- The region at the origin of island 0, as launch id 0, with its units changed. -/
def region (im : Image) (f : Residency → Residency) : Residency :=
  f ((Residency.blank 0 0 0 0 0 0 [] (planOf im)).configure (planOf im) 0)

/-- The package with one residency. -/
def placedIn (r : Residency) : State := { one (regs []) with ready0 := 1, ready1 := 1, res := [(0, r)] }

/-- A token with an END rank. -/
def tok (v : VReg) (rank : Nat) : Token := { v := v, rank := rank, cut := false, prb := false }

/-- Lane 0 with 32 bits, and 1.0 in lane 0. -/
def lane0 (n : BitVec 36) : VReg := { lanes := n.setWidth 288, lm := 1#8 }
def unitOne : VReg := lane0 0x3FF800000#36

/-- Tokens at the inputs of a unit. -/
def feed (u : Nat) (ts : List (List Token)) (r : Residency) : Residency :=
  r.onUnit u (fun x => { x with inp := ts.map (·.map ChWord.tok) })

/-- A unit of a region. -/
def unitOf (r : Residency) (u : Nat) : UnitSt := r.units.getD u (UnitSt.init (.rop (ropRec 0 0 0 0 0)))

/-- FADD of 1 and 1, and of 2^24 and 1, which raises NX. -/
def fadds (v : VReg) : Residency := region fabricImage (feed 1 [[tok v 2], [tok unitOne 0], []])

/-- ACCF in a run, at a token of END 0 and of END 7. -/
def accfs (rank : Nat) : Residency :=
  region fabricImage (fun r => (feed 2 [[tok unitOne rank], [], []] r).onUnit 2 (fun x => { x with core := { x.core with fresh := false } }))

def luts : Residency := region fabricImage (feed 3 [[tok { lanes := 7#288 + (8#288 <<< 36), lm := 3#8 } 0], [], []])
def madds : Residency := region fabricImage (feed 4 [[tok (lane0 0x1FFFC#36) 0], [tok (lane0 5#36) 0], []])
def panqs : Residency := region fabricImage (feed 5 [[tok { lanes := 9#288, lm := 0x0F#8 } 0], [], []])

/-- Tile 3 of ME 1 of island 0, READY, of one unit of 64 bytes. -/
def lutTile : Map Tile := [(16 * 1 + 3, { defd := true, st := 2, base := 0, size := 1 })]

/-- A pan of eight entries in ME 3 of island 0, with a bittern area of four, owned by thread 0. -/
def somePan : Pan :=
  { owner := 0, tmpl := 0x4100001000, ringVa := 0x4000060000, ring := 0x4000060000, rcnt := 8, f := 4, pri := 1, whome := 0, age := 100,
    bitt := 0x4000061000, bcnt := 4, fbk := 0, fbdev := 0, fbpan := 0, bcap := 64, fbtmpl := 0, wxfer := 0, buf := 0x4100002000,
    rpos := 0, rlen := 0, bpos := 0, blen := 0, taken := 0, times := [], fired := false, held := none, readyAt := none,
    bufs := [.free, .free], present := true, fetch := none, waiting := [], c0 := 0, thr := 0, tim := 0, c2 := 0, c3 := 0,
    scope := some 0, away := [], also := [], stopped := false }

/-- Each of the four windows on that pan, and no window. -/
theorem witness_SystemRegisterReads_windows : let s (i : Nat) := { one (regs []) with pans := [(9, somePan)], cores := [(0, { CoreSt.reset 0 with window := some (9, i) })] }
    (∀ i, i < 4 → ((s i).core (coreOf (s i).cur)).window = some (9, i) ∧ (s i).pans.find? 9 = some somePan)
    ∧ ((one (regs [])).core 0).window = none := by decide +kernel

/-- FADD without and with an enabled flag; ACCF that emits and that does not; LUT inside and outside its tile; MADD at the last word
of an ME; PANQ to a defined pan. -/
theorem witness_ElementFirings :
    MayFire (placedIn (fadds unitOne)) 0 1 (fadds unitOne) (unitOf (fadds unitOne) 1)
      (elemRec 1 1 0 (laneBits .fadd faddW)) .fadd faddW
    ∧ MayFire (placedIn (fadds (lane0 0x417800000#36))) 0 1 (fadds (lane0 0x417800000#36))
      (unitOf (fadds (lane0 0x417800000#36)) 1) (elemRec 1 1 0 (laneBits .fadd faddW)) .fadd faddW
    ∧ MayFire (placedIn (accfs 0)) 0 2 (accfs 0) (unitOf (accfs 0) 2)
      (elemRec 2 1 0 (laneBits .accf accfW)) .accf accfW
    ∧ MayFire (placedIn (accfs 7)) 0 2 (accfs 7) (unitOf (accfs 7) 2)
      (elemRec 2 1 0 (laneBits .accf accfW)) .accf accfW
    ∧ MayFire { placedIn luts with tiles := lutTile } 0 3 luts (unitOf luts 3)
      (elemRec 5 1 1 (laneBits .lut lutW)) .lut lutW
    ∧ MayFire (placedIn madds) 0 4 madds (unitOf madds 4)
      (elemRec 5 2 1 (laneBits .madd maddW)) .madd maddW
    ∧ MayFire { placedIn panqs with pans := [(9, somePan)] } 0 5 panqs (unitOf panqs 5)
      (elemRec 3 1 0 (laneBits .panq panqW)) .panq panqW := by
  refine ⟨?_, ?_, ?_, ?_, ?_, ?_, ?_⟩ <;>
  · unfold MayFire Ready Uncut; decide +kernel

/-- Two lanes. -/
def lane01 (a b : BitVec 36) : VReg := { lanes := a.setWidth 288 ||| (b.setWidth 288 <<< 36), lm := 3#8 }

/-- MADD of two lanes on one word; ACCF at a probe's token below its EMIT; CNT in a pass, at its first and last token. -/
def madds2 : Residency := region fabricImage (feed 4 [[tok (lane01 8 8) 0], [tok (lane01 5 6) 0], []])
def probedR : Residency := region fabricImage (fun r => (feed 2 [[{ tok unitOne 0 with prb := true }], [], []] r).onUnit 2
  (fun x => { x with core := { x.core with fresh := false } }))
def cntR (k : Nat) : Residency := region fabricImage (fun r => r.onUnit 7 (fun x => { x with core := { x.core with pass := true, cnt := k } }))
def cntW : LaneW := { laneAB 0 0 0 0 with fmt := 1, emit := 1, param := 3 }

/-- KMERGE in element 1's place, with keys at both inputs and its sides open or closed. -/
def kmergeW : LaneW := { laneAB 1 2 0 0 with fmt := 2 }
def kmergeImage : Image := { fabricImage with elems := fabricImage.elems.set 1 (elemRec 1 1 0 (laneBits .kmerge kmergeW)) }
def kmergeR (a b : BitVec 36) (oa ob : Bool) : Residency := region kmergeImage (fun r => (feed 1 [[tok (lane0 a) 1], [tok (lane0 b) 0], []] r).onUnit 1
  (fun x => { x with core := { x.core with openA := oa, openB := ob } }))

theorem witness_ElementFirings_more :
    (MayFire (placedIn madds2) 0 4 madds2 (unitOf madds2 4) (elemRec 5 2 1 (laneBits .madd maddW)) .madd maddW
      ∧ MemInv (placedIn madds2) ∧ rmwFull (unitOf madds2 4) 3#8 = false ∧ madds2.draining (unitOf madds2 4) = false ∧ 8 < 2 ^ 17 ∧ 8 % rmwBytes .madd 2 = 0
      ∧ (placedIn madds2).isBad (meBase (madds2.meAt 5 2) + 8) 4 = false
      ∧ (placedIn madds2).accepts (resMaster 0) (meBase (madds2.meAt 5 2) + 8) .atomic = true)
    ∧ (MayFire (placedIn probedR) 0 2 probedR (unitOf probedR 2) (elemRec 2 1 0 (laneBits .accf accfW)) .accf accfW
      ∧ ((unitOf probedR 2).head 0).map (fun a => (a.rank, a.prb)) = some (0, true)
      ∧ (let c := { newCmd (some 0) (.probe (.start 5) (setHdr 1) 0 2 1 4) (.region 0) 0 (some 1) with accepted := true, job := .probe 0 2 }
         List.find? (fun c => c.2.job = .probe 0 2) [(5, c)] = some (5, c) ∧ c.src = some 0))
    ∧ (∀ k ∈ [0, 3], let r := cntR k; let x := unitOf r 7
      Ready (placedIn r) 0 7 r x (elemRec 6 1 0 cntWord) .cnt cntW ∧ x.core.pass = true ∧ x.core.cnt = k ∧ r.ending = false
        ∧ k < prod (cntExtents cntW) ∧ r.sourceMay x (cntAt cntW k).rank = true ∧ Uncut x [])
    ∧ (∀ c ∈ [(1#36, 2#36, true, true), (2, 1, true, true), (2, 1, true, false), (1, 2, false, true)],
      let r := kmergeR c.1 c.2.1 c.2.2.1 c.2.2.2; let x := unitOf r 1
      Ready (placedIn r) 0 1 r x (elemRec 1 1 0 (laneBits .kmerge kmergeW)) .kmerge kmergeW ∧ inputSels .kmerge kmergeW = [(0, 0), (1, 1)]
        ∧ x.core.openA = c.2.2.1 ∧ x.core.openB = c.2.2.2 ∧ x.head 0 = some (tok (lane0 c.1) 1) ∧ x.head 1 = some (tok (lane0 c.2.1) 0)
        ∧ Uncut x [0] ∧ Uncut x [1]) := by
  unfold MayFire Ready Uncut MemInv
  refine ⟨?_, ?_, ?_, ?_⟩ <;> decide +kernel

/-- Bytes at an address, as memory lists them. -/
def cells (a : Nat) (bs : List Byte) : List Host.Cell :=
  (bs.zipIdx.filter (fun p => p.1 ≠ 0#8)).map (fun p => (a + p.2, p.1))

/-- A dense level of one feature in F32 over one dimension of two cells: T 10, base in the page. -/
def gridBytes : List Byte :=
  bytesOf 8 (2 ^ 63 + 0x4000001000) ++ bytesOf 8 (10 * 256) ++ List.replicate 48 0#8 ++ bytesOf 4 2 ++ List.replicate 60 0#8

def someGrid : Region := { base := 0x4000001000, d := 1, l := 1, f := 1, t := 10, ef := 0, res := [2] }

/-- The descriptor at the start of ME 0; g5 is the address of the coordinate 0.5, g6 the descriptor's address. -/
def gridState : State :=
  { mapped [(5, 0x4100000800#64), (6, 0x4000000000#64)] with mem := cells 0x4000000000 gridBytes ++ [(0x4100000803, 0x3F#8)] }

theorem witness_CrystalAccesses : let s := gridState
    let bs := (List.range 16).flatMap (fun i => bytesOf 8 (s.readMem (page.to 0x4000000000 + 8 * i) 8))
    let xs : List Num.FV := [.fin false 8388608 (-24)]
    let ks := someGrid.corners 0 xs
    let as := someGrid.touched 0 ks.1
    let adds := (someGrid.adds 0 ks.1 [some (.fin false 1 0)]).1
    ((s.me.get 6#5).toNat % 128 = 0 ∧ Mapped page (dwordsOf 0x4000000000 128) 8 .read s ∧ Mapped page as 4 .read s
      ∧ Mapped page (adds.map (·.1)) 4 .atomic s ∧ MemInv s)
    ∧ (regionOf bs = some someGrid ∧ (s.gridCoord s.cur 1 (s.me.get 5#5)).toOption = some (xs, 0#5) ∧ as = [0x4000001004, 0x4000001008] ∧ adds.map (·.1) = as ∧ s.dbg = []
      ∧ adds.Pairwise (fun p p' => page.to p.1 + 4 ≤ page.to p'.1 ∨ page.to p'.1 + 4 ≤ page.to p.1))
    ∧ (s.me.it = false ∧ (0x4100000801#64).toNat % 4 ≠ 0 ∧ (0x410000FFFC#64).toNat % 4 = 0
      ∧ clmBase (coreOf s.cur) + 0x10000 < (0x410000FFFC#64).toNat + 4 * 2 ∧ (0x40FFFFFFFC#64).toNat < clmBase (coreOf s.cur)) := by
  refine ⟨⟨by decide +kernel, mapped_of (by decide +kernel), mapped_of (by decide +kernel), mapped_of (by decide +kernel),
    by unfold MemInv; decide +kernel⟩, by decide +kernel⟩

/-- A slot that has room for one more, and the largest ME number and tile. -/
theorem witness_CommandsIssue : let s := { placedIn (region fabricImage id) with ctxs := [(0, { (regs []).setD 1 { count := 62, err := false } with st := .runnable })] }
    hdrOk (setHdr 1) = true ∧ (s.me.getD 1).count.toNat < 63 ∧ s.queueRoom (.engine (islandOf s.cur)) = true
    ∧ s.portDispatcher 0 1 = .ag 0 0 2 ∧ s.portDispatcher 0 7 = .md ∧ s.regionDispatcher 0 = .region 0 ∧ s.regionDispatcher 8 = .md
    ∧ s.queueRoom (.ag 0 0 2) = true ∧ s.queueRoom (.me 383) = true ∧ s.queueRoom (.region 0) = true ∧ s.queueRoom .md = true ∧ s.cmds = []
    ∧ (383#9).toNat < 384 ∧ 1 ≤ (1#12).toNat ∧ (2048#12).toNat ≤ 2048 ∧ (false = true ∨ (0#10 : BitVec 10) = 0)
    ∧ (0xC03FFFFF#32) &&& ~~~0xC03FFFFF#32 = 0 := by decide +kernel

/-- Registers at and above the limit of 32 bits, ME 384, a slot that its own WAIT names, a full slot. -/
theorem witness_IssueChecks :
    let s := one ((regs [(1, 0xFFFFFFFF#64), (2, 0x100000000#64)]).setD 1 { count := 63, err := false })
    let t := { one (regs [(1, 0xFFFFFFFF#64)]) with ready1 := 1 }
    s.me.it = false ∧ hdrOk (setHdr 1) = true ∧ 1#5 ≠ 0#5 ∧ (s.me.get 1#5).toNat < 2 ^ 32 ∧ 2 ^ 32 ≤ (s.me.get 2#5).toNat
    ∧ 384 ≤ (384#9).toNat ∧ ({ setHdr 1 with wait := 2 } : CmdHdr).wait.getLsbD (setHdr 1).setslot.toNat = true
    ∧ (setHdr 1).seten = true ∧ (s.me.getD (setHdr 1).setslot).count = 63
    ∧ (t.me.getD (setHdr 1).setslot).count.toNat < 63 ∧ t.queueRoom (t.regionDispatcher 0xFFFFFFFF) = true ∧ t.cmds = [] := by decide +kernel

/-- A command of thread 0 that has been accepted. -/
def oneCmd (i : Instr) (d : Disp) : Map Cmd := [(5, { newCmd (some 0) i d 0 (some 1) with accepted := true })]

/-- A page table in core 1's CLM that maps the GiB from 0x4000000000 to itself. -/
def tables : List Host.Cell := cells 0x4100010000 (bytesOf 8 0x4100020001) ++ cells 0x4100020800 (bytesOf 8 0x400000001F)

/-- A pan descriptor in the own CLM: its ring in ME 3. -/
def panBytes : List Byte :=
  layout 128 [(0, 8, 0x4100001000), (8, 8, 0x4000060000), (16, 2, 7), (18, 2, 3), (20, 3, 100), (24, 8, 0x4100004000), (32, 4, 4),
              (42, 2, 63), (64, 8, 0x4100002000)]

/-- For commands of MEs: a defined EMPTY tile 3, one that is READY (4) and none (5). -/
def someTiles : Map Tile :=
  [(16 * 1 + 3, { defd := true, st := 0, base := 0, size := 1 }), (16 * 1 + 4, { defd := true, st := 2, base := 1, size := 1 })]

theorem witness_CommandStarts :
    let go := CmdAt.start 5
    let s := { one (regs []) with ready0 := 1, ready1 := 1, tiles := someTiles, cmds := oneCmd (.barrier go (setHdr 1) 0 1 8#16) (.me 1) }
    let t := { one (regs []) with ready0 := 1, ready1 := 1, pans := [(9, somePan), (10, { somePan with rlen := 1, fbtmpl := 64, wxfer := 64 })],
                                  cmds := oneCmd (.pandrain go (setHdr 1) 9) .md }
    let w := t.setCmd 5 (fun c => { c with job := .unit })
    let d := { t with cmds := oneCmd (.pandrain go (setHdr 1) 10) .md }
    let p := { t with mem := cells 0x4100005000 panBytes ++ tables, ptroot := 0x4100010000#64 }
    (((p.fetch mdMaster 0x4100005000 128).bind (fun bs => p.panOf bs 0)).isSome = true ∧ p.pans.find? 8 = none ∧ p.mayStart 5 = true)
    ∧ (∀ u ∈ [s, t, d], ∃ c, u.cmds.find? 5 = some c ∧ u.mayStart 5 = true ∧ c.src = some somePan.owner)
    ∧ (s.islandReady 0 = true ∧ s.tileUsed 1 8#16 = false ∧ s.meTaken 1 = false ∧ (0x7FF#11).toNat + (1#12).toNat ≤ 2048
      ∧ 2048 < (0x7FF#11).toNat + (2#12).toNat ∧ (s.tile 1 3).st = 0 ∧ (s.tile 1 4).defd = true ∧ (s.tile 1 5).defd = false
      ∧ s.inReset 0 = false ∧ (s.core 0).semq.getD 3 [] = [])
    ∧ (t.pans.find? 8 = none ∧ t.pans.find? 9 = some somePan ∧ somePan.count = 0 ∧ ({ somePan with rlen := 1 } : Pan).count ≠ 0
      ∧ 8 ≤ somePan.rcnt ∧ 8 ≤ somePan.bcap ∧ somePan.rcnt < 9 ∧ somePan.held = none ∧ t.refused.all (fun r => r.2 ≠ 9) = true
      ∧ (0x40000000#32).toNat / 2 ^ 30 = 1 ∧ (0x80000000#32).toNat / 2 ^ 30 = 2 ∧ (0xC0000000#32).toNat / 2 ^ 30 = 3
      ∧ somePan.wxfer = 0 ∧ somePan.fbtmpl = 0 ∧ somePan.also = [] ∧ ({ somePan with held := some .spill } : Pan).also = [] ∧ some 1 ≠ some somePan.owner)
    ∧ (let f := { somePan with rlen := 1, times := [0], tmpl := 0x4100001000 }
       let q := { t with pans := [(9, f)], ptroot := 0x4100010000#64, cmds := oneCmd (.pandrain go (setHdr 1) 9) .md,
                         mem := cells 0x4100001000 (layout 64 [(0, 8, 0x4100002000), (18, 1, 16)]) ++ tables }
       let w := q.setCmd 5 (fun c => { c with job := .unit })
       q.mayStart 5 = true ∧ w.panNext = some 9 ∧ w.draining 9 = some 5 ∧ (∀ x ∈ q.cmds, ∀ b, b < 2 → x.2.job ≠ .drain b) ∧ f.present = true
        ∧ (q.traceCore 0).mode = 0 ∧ f.bufs.findIdx? (· = .free) = some 0
        ∧ ((q.fetch mdMaster f.tmpl 64).bind (fun bs => launchRecord bs f.owner)).map (fun e => (e.1.scope, e.2)) = some (0, [])
        ∧ q.liveScope 0 = some 0 ∧ (q.scope 0).closed = false ∧ q.freeEntry = some 0)
    ∧ (w.panNext ≠ some 10 ∧ (d.setCmd 5 (fun c => { c with job := .unit })).panNext = some 10) := by
  refine ⟨by decide +kernel, ?_, by decide +kernel, by decide +kernel, by decide +kernel, by decide +kernel⟩
  intro u hu
  simp only [List.mem_cons, List.not_mem_nil, or_false] at hu
  obtain rfl | rfl | rfl := hu <;> exact ⟨_, rfl, by decide +kernel, by decide +kernel⟩

/-- Two patterns of four words, and the transfer records of a copy, a gather and a scatter between them. -/
def patternBytes (base : Nat) : List Byte := layout 64 [(0, 8, base), (8, 1, 1), (16, 4, 4), (20, 4, 4)]
def moveMem : List Host.Cell :=
  cells 0x4100006000 (patternBytes 0x4100000100 ++ patternBytes 0x4100000200
    ++ layout 64 [(0, 8, 0x4100006000), (8, 8, 0x4100006040), (28, 1, 2)]
    ++ layout 64 [(0, 8, 0x4100000300), (8, 8, 0x4100006040), (16, 8, 0x4100000400), (24, 4, 4), (28, 1, 2)]
    ++ layout 64 [(0, 8, 0x4100006000), (8, 8, 0x4100000300), (16, 8, 0x4100000400), (24, 4, 4), (28, 1, 2)])
  ++ cells 0x4100007000 gridBytes

/-- A command of thread 0 beside the small region, whose entry is PLACED. -/
def startState (f : Residency → Residency) : State :=
  { placedIn (region fabricImage f) with entries := [(0, { Entry.blank with st := .placed, nimg := 1 })], mem := moveMem,
                                         cmds := oneCmd (.mark (.start 5) (setHdr 1) 0) (.region 0) }

/-- The region with a shadow loaded, and with an accumulator that a probe can reach. -/
def shadowed (r : Residency) : Residency := { r with shadow := some (planOf fabricImage) }

theorem witness_StreamCommandStarts : let s := startState id
    let c := { newCmd (some 0) (.mark (.start 5) (setHdr 1) 0) (.region 0) 0 (some 1) with accepted := true }
    let r := region fabricImage id
    let rec' (indexed remote : Bool) (at' : Nat) := ((s.fetchWith c.got c.master at' 64).bind (transferOf indexed remote))
    let planned (k : MoveKind) (indexed remote : Bool) (at' : Nat) : Bool :=
      match (rec' indexed remote at') with
      | some t => t.via == 0 && (s.askRecords c.master 5 c.got (s.moveRecords c k at')).isNone && (match s.planMove c k t with
        | some m => m.n != 0 && (match s.moveTiles m with
          | some l => l.isEmpty
          | none => false)
        | none => false)
      | none => false
    (s.cmds.find? 5 = some c ∧ s.mayStart 5 = true ∧ (4#3).toNat < 5)
    ∧ (planned .copy false false 0x4100006080 = true ∧ planned .rcopy false true 0x4100006080 = true
      ∧ planned .fetchw false false 0x4100006080 = true ∧ planned .gather true false 0x41000060C0 = true
      ∧ planned .scatter true false 0x4100006100 = true ∧ s.fetchWith c.got c.master 0x7000000000 64 = none
      ∧ (s.askRecords c.master 5 c.got [(0x7000000000, 64), (0x4100007000, 128)]).isNone = true ∧ c.exact = none
      ∧ (s.askRecords c.master 5 c.got (s.bindingRecords c 0x4100006000 ++ s.bindingRecords c 0x4100006040)).isNone = true)
    ∧ ((s.fetchWith c.got c.master 0x4100007000 128).bind regionOf = some someGrid)
    ∧ (s.res.find? 0 = some r ∧ r.lid = 0 ∧ r.agAt 0 = some 0 ∧ r.agAt 1 = some 6 ∧ s.listFirst 0 0 r = false ∧ s.listFirst 0 1 r = false ∧ (r.ag 0).isSome = true ∧ (r.ag 6).isSome = true
      ∧ (r.streams.find? 0).isSome = true ∧ r.switch = none ∧ s.switchBefore 5 0 = false ∧ (shadowed r).shadow = some (planOf fabricImage)
      ∧ r.shadow = none ∧ r.probed 2 1 = some 2 ∧ r.probed 1 1 = none)
    ∧ ((match r.ag 0, r.ag 6 with
        | some v, some w => v.p.out = false && s.portFree r 0 v && w.p.out && s.portFree r 6 w
            && (match s.bindingOf c.got c.master r 0 v 0x4100006000, s.bindingOf c.got c.master r 6 w 0x4100006040 with
                | .ok (.pattern p), .ok (.pattern q) => p.tile.isNone && q.tile.isNone
                | _, _ => false)
        | _, _ => false) = true)
    ∧ (match s.target 0, s.target 1 with
        | .here q, .gone => q = r
        | _, _ => False) := by
  refine ⟨?_, ?_, ?_, ?_, ?_, rfl⟩ <;> decide +kernel

/-- A word on a route: in the slack buffer or on hop stage `j`. -/
def onRoute (i : Nat) (slack : List ChWord) (hops : List (Option ChWord)) (r : Residency) : Residency :=
  { r with branches := r.branches.set i { slack := slack, hops := hops } }

/-- The operators' units follow the eight elements; the words of the tests. -/
def ropU (op : Nat) : Nat := 8 + op
def someWord : ChWord := .tok (tok unitOne 0)

def onCore (u : Nat) (f : UnitCore → UnitCore) (r : Residency) : Residency := r.onUnit u (fun x => { x with core := f x.core })

/-- Circuit moves: a word in the slack buffer of route 1 (three sites long), on its first and on its last hop stage; a result of
element 1; operators with a token at each input, CARRY in either phase, MERGE with either predicate. -/
theorem witness_CircuitMoves :
    let a := region fabricImage (onRoute 1 [someWord] [none, none])
    let b := region fabricImage (onRoute 1 [] [some someWord, none])
    let c := region fabricImage (onRoute 1 [] [none, some someWord])
    let d := region fabricImage (onCore 1 (fun k => { k with out := [someWord] }))
    (∀ r ∈ [a, b, c, d], (placedIn r).res.find? 0 = some r ∧ r.flowing = true ∧ (placedIn r).dbg = [])
    ∧ (a.connOf 1 0).map (·.1) = some 1 ∧ (a.branches[1]?) = some { slack := [someWord], hops := [none, none] }
    ∧ (b.branches[1]?).map (fun x => (x.hops[0]?, x.hops[1]?)) = some (some (some someWord), some none)
    ∧ (c.branches[1]?).map (fun x => (x.hops[1]?, x.hops.length)) = some (some (some someWord), 1 + 1)
    ∧ (c.connOf 1 0).map (fun p => (c.plan.storeOn p.2, c.inputRoom p.2.dst p.2.dport, (unitOf c p.2.dst).inp.length)) = some (none, true, 3)
    ∧ d.routeSource 7 = some 1 ∧ (unitOf d 1).core.out = someWord :: [] ∧ d.outRoom 1 false = true := by decide +kernel

/-- Route 7, of one site, with a word in its buffer; with a full buffer before a result; the same where it has no buffer. -/
def bufferless : Image := { fabricImage with routes := fabricImage.routes.set 7 (route 1 1 0 2 1 0 0) }

theorem witness_CircuitMoves_oneSite :
    let a := region fabricImage (onRoute 2 [someWord] [])
    let b := region fabricImage (fun r => onCore 1 (fun k => { k with out := [someWord] }) (onRoute 2 (List.replicate 4 someWord) [] r))
    let c := region bufferless (onCore 1 (fun k => { k with out := [someWord] }))
    (∀ r ∈ [a, b, c], (placedIn r).res.find? 0 = some r ∧ r.flowing = true ∧ (placedIn r).dbg = [] ∧ r.halts 1 = false
      ∧ (r.connOf 7 0).map (fun p => (p.1, p.2.dst, p.2.dport)) = some (2, 2, 0)
      ∧ (r.connOf 7 0).map (fun p => (r.plan.storeOn p.2, r.inputRoom p.2.dst p.2.dport)) = some (none, true)
      ∧ ((r.units[2]?).map (·.inp.length)) = some 3)
    ∧ a.branches[2]? = some { slack := [someWord], hops := [] }
    ∧ (∀ r ∈ [b, c], r.routeSource 7 = some 1 ∧ (unitOf r 1).core.out = [someWord] ∧ r.outRoom 1 false = true)
    ∧ (b.branches[2]?).map (fun x => (x.slack.length, x.hops)) = some (4, []) ∧ (c.branches[2]?) = some { slack := [], hops := [] } := by
  refine ⟨?_, ?_, ?_, ?_, ?_⟩ <;> decide +kernel

/-- Operator `op` with a token at each of three inputs. -/
def ropsFed (op : Nat) (f : UnitCore → UnitCore) (d : Token) : Residency :=
  region fabricImage (fun r => onCore (ropU op) f (feed (ropU op) [[d], [tok unitOne 0], [d]] r))

theorem witness_CircuitMoves_operators :
    let take (op : Nat) (f : UnitCore → UnitCore) (d : Token) (ports : List Nat) : Prop :=
      let r := ropsFed op f d
      r.flowing = true ∧ (placedIn r).dbg = [] ∧ (placedIn r).res.find? 0 = some r ∧ r.halts (ropU op) = false
        ∧ (placedIn r).replaying 0 = false ∧ r.plan.img.rops[op]? = some (fabricImage.rops.getD op (ropRec 0 0 0 0 0)) ∧ r.units[ropU op]? = some (unitOf r (ropU op))
        ∧ (unitOf r (ropU op)).switched = false ∧ r.outRoom (ropU op) false = true ∧ r.outRoom (ropU op) true = true
        ∧ ((unitOf r (ropU op)).consume false ports).core.savesDue = false ∧ ((unitOf r (ropU op)).consume false ports).overflowed = false
    take 0 id (tok unitOne 1) [0, 1] ∧ take 1 id (tok unitOne 1) [0, 1] ∧ take 2 id (tok unitOne 1) [1]
    ∧ take 2 (fun c => { c with pred := some true }) (tok unitOne 1) [2] ∧ take 3 id (tok unitOne 1) [0]
    ∧ take 4 id (tok unitOne 1) [0] ∧ take 4 (fun c => { c with loop := true }) (tok unitOne 1) [2]
    ∧ take 4 (fun c => { c with loop := true }) (tok unitOne 2) [2]
    ∧ (∀ p ∈ [0, 2], let r := region fabricImage (feed (ropU 3) ([[], [], []].set p [tok unitOne 1]))
      MayTake (placedIn r) 0 3 r (ropRec 3 5 2 1 0) (unitOf r (ropU 3)) [p] ∧ (unitOf r (ropU 3)).head p = some (tok unitOne 1)
        ∧ (unitOf r (ropU 3)).head (2 - p) = none) := by
  unfold MayTake Uncut
  refine ⟨?_, ?_, ?_, ?_, ?_, ?_, ?_, ?_, ?_⟩ <;> decide +kernel

/-- A record of thread 0 about residency 0, as bytes. -/
def recordBytes (kind act : Nat) : List Byte := layout 128 [(4, 1, kind), (88, 1, act), (96, 1, 1), (127, 1, 1)]

/-- The small region held after a fault, with its record at the last place of the own CLM, and its stream 0 frozen. -/
def heldState (kind act : Nat) (hold : Hold) : State :=
  { placedIn (region fabricImage (fun r => { (feed 1 [[tok unitOne 0], [tok unitOne 0], []] r).onStream 0 (fun st => { st with frozen := true }) with
      hold := hold, recs := [{ addr := 0x410000FF80, kind := kind, stream := 0 }] })) with mem := cells 0x410000FF80 (recordBytes kind act) }

/-- Every action on the record that it is for, and a record that names another owner. -/
theorem witness_WstepActions : let ga := 0x410000FF80
    (ga % 128 = 0 ∧ OwnBlock ga 128 .read (heldState 1 0 .fault) ∧ OwnBlock ga 128 .write (heldState 1 0 .fault))
    ∧ (∀ p ∈ [(1, 0, Hold.fault), (1, 1, .fault), (2, 1, .running), (1, 2, .fault), (1, 3, .fault), (3, 3, .running)],
      let s := heldState p.1 p.2.1 p.2.2
      MemInv s ∧ s.readMem (ga + 88) 1 = p.2.1 ∧ ∃ r, s.wstepRec s.cur ga = some (0, r, { addr := ga, kind := p.1, stream := 0 })
        ∧ s.res.find? 0 = some r ∧ r.hold = p.2.2 ∧ ∃ st, r.streams.find? 0 = some st ∧ st.frozen = true)
    ∧ { heldState 1 0 .fault with cur := 1 }.wstepRec 1 ga = none := by
  refine ⟨by unfold OwnBlock OwnClm OwnAt InOwn; decide +kernel, ?_, by decide +kernel⟩
  intro p hp
  simp only [List.mem_cons, List.not_mem_nil, or_false] at hp
  obtain rfl | rfl | rfl | rfl | rfl | rfl := hp <;>
    exact ⟨by unfold MemInv; decide +kernel, by decide +kernel, _, by decide +kernel, rfl, rfl, _, rfl, rfl⟩

/-- An image of shape 0 whose one element, a CNT of one level of four at (1, 1), is the root of the controller tree. -/
def imageBytes : List Byte :=
  let body := bytesOf 16 (2 ^ 122 + 2 ^ 116 + cntWord.toNat * 2 ^ 50) ++ bytesOf 16 (3 * 2 ^ 121 + 2 ^ 86 + 2 ^ 80)
  let head := layout 32 [(0, 4, 0x56584346), (4, 2, 1), (8, 2, 1), (16, 1, 1), (20, 4, 256), (24, 4, 96)]
  head ++ Hash.sha256 (head ++ List.replicate 32 0#8 ++ body) ++ body

/-- The small region with other controllers, and with a store of blocks of four elements, one a token, before ACCF. -/
def treeImage : Image :=
  { fabricImage with ctls := [{ node := 0, type := 0, parent := 0, iter := 2, lx := 0, ly := 0, lstr := 0 },
                              { node := 1, type := 3, parent := 0, iter := 1, lx := 6, ly := 1, lstr := 0 }] }

def aStore : StorePlan :=
  { dst := 2, dport := 0, ty := 0, shared := [], bp := [{ dim := 0, ext := 4, lane := false, rag := false }],
    bc := [{ dim := 0, ext := 4, lane := false, rag := false }], slots := 32, mes := [(5, 1)] }

def regionOn (p : Plan) (f : Residency → Residency) : Residency :=
  f ((Residency.blank 0 0 0 0 0 0 [] p).configure p 0)

def storePlan : Plan := { planOf fabricImage with stores := [aStore] }

def onStore0 (f : StoreSt → StoreSt) (r : Residency) : Residency := { r with stores := modifyAt r.stores 0 f }

/-- The small region before a cut-only word, a store's write and read, a go, a done, the root's done, a configuration step that
loads an image and one that finds none, a switch that is due and one that has fired. -/
def cutOnlyR : Residency :=
  region fabricImage (fun r => onCore 1 (fun c => { c with cut := 1 }) (r.onUnit 1 (fun x => { x with inp := [[.cutOnly, someWord], [], []] })))
def storeWriteR : Residency := regionOn storePlan (onStore0 (fun x => { x with inp := [someWord] }))
def slotOf (e : Nat) : Map SlotVal := [(0, { block := 0, elem := e, lane := 5, set := true })]
def storeReadR : Residency := regionOn storePlan (onStore0 (fun x => { x with core := { x.core with wtok := 2, slots := slotOf 0 } }))
def storeLastR : Residency :=
  regionOn storePlan (onStore0 (fun x => { x with core := { x.core with wblock := 1, rtok := 3, slots := slotOf 3 } }))
def treeR (ended started finished : Nat) : Residency :=
  regionOn (planOf treeImage) (fun r => onCore 7 (fun c => { c with begun := 1 })
    { r with nodes := [(0, { ended := ended, started := [started], finished := [finished] })] })
def nextCfgR (va : Nat) : Residency := region fabricImage (fun r => { r with images := [0, va], rootDone := true })
def switchR (fired : Bool) : Residency :=
  region fabricImage (fun r => { r with switch := some { t := 0, plan := planOf fabricImage, fired := fired, cmd := 5 } })
def withImage (r : Residency) : State := { placedIn r with mem := cells 0x4100001000 imageBytes }

theorem witness_RegionSteps :
    (∀ r ∈ [cutOnlyR, storeWriteR, storeReadR, storeLastR, treeR 0 0 0, treeR 0 1 0, treeR 1 2 2, nextCfgR 0x4100001000, switchR false],
      (withImage r).res.find? 0 = some r ∧ r.flowing = true ∧ (withImage r).dbg = [])
    ∧ (let x := unitOf cutOnlyR 1
       cutOnlyR.units[1]? = some x ∧ x.inp.getD 0 [] = .cutOnly :: [someWord] ∧ 0 < x.core.cuts.length
        ∧ (x.consume false [0]).core.savesDue = false ∧ cutOnlyR.answering 1 = false ∧ 1 < cutOnlyR.plan.img.units.length)
    ∧ ((storeWriteR.stores[0]?).map (·.inp) = some [someWord]
        ∧ ((storeWriteR.stores[0]?).bind (fun x => aStore.write x.core (tok unitOne 0))).isSome = true)
    ∧ (((storeReadR.stores[0]?).bind (fun x => aStore.next x.core)).map (fun p => (p.2.1, p.2.2)) = some (false, 0)
        ∧ ((storeLastR.stores[0]?).bind (fun x => aStore.next x.core)).map (fun p => (p.2.1, p.2.2)) = some (true, 0))
    ∧ ((treeR 0 0 0).plan.img.ctl 1 ≠ none ∧ (treeR 0 0 0).mayGo 0 0 = true ∧ ((treeR 0 0 0).node 0).started.length = 1
        ∧ (treeR 0 1 0).carried 1 = 1 ∧ ((treeR 0 1 0).node 0).finished = [0] ∧ (treeR 1 2 2).carried 0 = 1 ∧ (treeR 1 2 2).rootDone = false
        ∧ (withImage (treeR 0 1 0)).leafBusy 0 (treeR 0 1 0) 1 = false ∧ (withImage (treeR 1 2 2)).leafBusy 0 (treeR 1 2 2) 0 = false)
    ∧ (∀ va ∈ [0x4100001000, 0x7000000000], let r := nextCfgR va
        r.images[r.cfg + 1]? = some va ∧ r.drained = true ∧ (withImage r).flushed 0 r = true ∧ r.switch = none)
    ∧ (match (withImage (nextCfgR 0x4100001000)).listedImage 0 1 0x4100001000 with
        | .ok im => (checkImage im 0 0).toOption.isSome
        | .error _ => false) = true
    ∧ (match (withImage (nextCfgR 0x7000000000)).listedImage 0 1 0x7000000000 with
        | .ok _ => false
        | .error _ => true) = true
    ∧ 0 ≤ (withImage (switchR false)).since 0
    ∧ (let r := switchR true
       (unitOf r 7).switched = false ∧ r.isSource 7 = true ∧ r.fed 7 = [] ∧ 7 < r.plan.img.elems.length
        ∧ (unitOf r 7).core.out.length < ((r.rec' 7).map Unit'.depth).getD 0) := by
  refine ⟨?_, ?_, ?_, ?_, ?_, ?_, ?_, ?_, ?_, ?_⟩ <;> decide +kernel

theorem witness_StreamCommandStarts_cfgload : let s := { startState id with mem := cells 0x4100001000 imageBytes }
    (region fabricImage id).switch = none ∧ s.switchBefore 5 0 = false
    ∧ (match s.readImage 0x4100001000 with
        | .ok im => im.shape == 0 && (checkImage im 0 0).toOption.isSome
        | .error _ => false) = true := by
  decide +kernel

/-- Eight words from the own CLM on. -/
def somePattern : Pattern := { base := 0x4100000100, dims := [(8, 4)], scale := 0, kind := 0, tile := none }

/-- Stream `u` of the small region in a pass, with the page of the first ME. -/
def streaming (u : Nat) (b : Binding) (f : StreamSt → StreamSt) (r : Residency) : Residency :=
  r.onStream u (fun st => f { st with core := { st.core with bound := some b, active := true }, entry := some page })

def readingR : Residency := region fabricImage (streaming 0 (.pattern somePattern) id)
def deliverR (k : Nat) : Residency := region fabricImage (streaming 0 (.pattern somePattern)
  (fun st => { st with core := { st.core with tokens := k, issued := 8 }, answers := [(2 * k, 0x3F800000)] }))
def writingR (issued : Nat) : Residency := region fabricImage (fun r => streaming 6 (.pattern somePattern)
  (fun st => { st with core := { st.core with issued := issued } }) (feed 6 [[tok unitOne 0], [], []] r))
/-- 0.5 in lane 0. -/
def half : VReg := lane0 0x3FE800000#36
def lookupR (held : List Token) (answers : Map Nat) : Residency := region fabricImage (fun r => streaming 0 (.grid someGrid)
  (fun st => { st with core := { st.core with held := held }, answers := answers }) (feed 0 [[tok half 0], [], []] r))
def scatterR (held : List Token) : Residency := region fabricImage (fun r => streaming 6 (.grid someGrid)
  (fun st => { st with core := { st.core with held := held } }) (feed 6 [[tok unitOne 0], [], []] r))

/-- Stream `u` as an action sees it. -/
def actsOn (u : Nat) (r : Residency) (p : AgView → Prop) : Prop :=
  let s := placedIn r
  s.res.find? 0 = some r ∧ r.lid = 0 ∧ r.flowing = true ∧ s.dbg = [] ∧ r.halts u = false
    ∧ ∃ v, r.ag u = some v ∧ v.st.frozen = false ∧ v.st.walking = false ∧ v.st.core.active = true ∧ v.x.switched = false ∧ p v

def calm (v : AgView) : Prop := (v.x.consume false [0]).core.savesDue = false ∧ (v.x.consume false [0]).overflowed = false

/-- A read, a token in the middle of a pass and its last, an element, a token taken, a lookup query, a scatter query's token and
one of its adds, an answer. -/
theorem witness_StreamActions :
    actsOn 0 readingR (fun v => v.st.core.bound = some (.pattern somePattern) ∧ v.p.out = false ∧ v.p.bs = false
      ∧ (v.elemAt somePattern 0).1 = 0x4100000100 ∧ v.size = 4 ∧ 0 < somePattern.count ∧ 0 < (v.taken + 64) * v.lanes
      ∧ (placedIn readingR).issued' 0 0 v.st 0 = false ∧ (placedIn readingR).streamPlace false v.st 0x4100000100 .read = .pa 0x4100000100)
    ∧ (∀ k ∈ [0, 7], actsOn 0 (deliverR k) (fun v => v.st.core.tokens = k ∧ v.lanes = 1 ∧ k * v.lanes < somePattern.count
      ∧ (v.st.answers.find? (2 * k)).isSome = true ∧ (deliverR k).queueRoom 0 = true
      ∧ (deliverR k).ending = false ∧ (deliverR k).sourceMay v.x (v.tokenOf somePattern k).1.rank = true ∧ (k = 7 → (v.tokenOf somePattern k).1.rank = 7)))
    ∧ actsOn 6 (writingR 0) (fun v => v.p.out = true ∧ v.p.bs = false ∧ v.p.sfmt ≠ 6 ∧ v.p.rnd ≠ 5 ∧ v.x.head 0 = some (tok unitOne 0)
      ∧ v.st.core.held = [] ∧ (v.positions somePattern [tok unitOne 0]).find? (fun x => 0 ≤ x.1) = some (0, tok unitOne 0, 0)
      ∧ 0x4100000100 % v.size = 0 ∧ v.x.buf.length < 4096 ∧ (writingR 0).draining v.x = false ∧ (placedIn (writingR 0)).streamPlace false v.st 0x4100000100 .write = .pa 0x4100000100
      ∧ (placedIn (writingR 0)).placeRefused (resMaster 0) 0x4100000100 v.size = false ∧ (placedIn (writingR 0)).home 0x4100000100 ≠ .reg)
    ∧ actsOn 6 (writingR 1) (fun v => (v.positions somePattern [tok unitOne 0]).find? (fun x => v.st.core.issued ≤ x.1) = none ∧ calm v)
    ∧ (∀ l ∈ [[], List.replicate 63 (tok half 0)], actsOn 0 (lookupR l []) (fun v => v.st.core.bound = some (.grid someGrid) ∧ v.p.out = false
      ∧ v.st.core.held.length < 64 ∧ (v.st.core.held.all (fun q => q.rank ≠ 7)) = true ∧ v.x.head 0 = some (tok half 0) ∧ calm v))
    ∧ actsOn 0 (lookupR [tok half 0] []) (fun v => ((placedIn (lookupR [tok half 0] [])).nextRead 0 0 v).map (fun x => (x.1, x.2.1, x.2.2.1)) = some (0, 0x4000001004, 4)
      ∧ (placedIn (lookupR [tok half 0] [])).streamPlace false v.st 0x4000001004 .read = .pa 0x4000001004)
    ∧ (∀ k ∈ [0, 7], let r := lookupR [tok half k] [(0, 0x3F800000), (2, 0)]
      actsOn 0 r (fun v => v.st.core.held = [tok half k] ∧ r.queueRoom 0 = true ∧ r.ending = false
      ∧ v.st.core.tokens = 0 ∧ someGrid.width = 1 ∧ (someGrid.queryWords (tok half k)).length = 2
      ∧ ∀ k, k < 2 → (v.st.answers.find? (2 * k)).isSome = true))
    ∧ actsOn 6 (scatterR []) (fun v => v.p.out = true ∧ v.st.core.held.length < someGrid.width ∧ (tok unitOne 0).cut = false ∧ calm v)
    ∧ actsOn 6 (scatterR [tok half 0]) (fun v => v.st.core.held.length = someGrid.width ∧ 0 < someGrid.width
      ∧ ((someGrid.scatter (tok half 0) [tok unitOne 0]).1[0]?).map (·.1) = some 0x4000001004 ∧ 0x4000001004 % featureBytes 0 = 0
      ∧ v.x.buf.length < 4096 ∧ (scatterR [tok half 0]).draining v.x = false ∧ (placedIn (scatterR [tok half 0])).streamPlace false v.st 0x4000001004 .atomic = .pa 0x4000001004
      ∧ (placedIn (scatterR [tok half 0])).addRefused (resMaster 0) 0 0x4000001004 = false)
    ∧ (let q : Req := { master := resMaster 0, owner := .stream 0 0 2, op := .read 4, pa := 0x4100000104, split := 40, pa2 := 0,
                        ea := 0x4100000104, st := .answered (.value 7 0#5) }
       List.find? (fun p : Nat × Req => match p.2.owner, p.2.st with
          | .stream i j _, .answered _ => decide (i = 0) && decide (j = 0)
          | _, _ => false) [(9, q)] = some (9, q)) := by
  refine ⟨?_, ?_, ?_, ?_, ?_, ?_, ?_, ?_, ?_, by decide +kernel⟩
  · exact ⟨by decide +kernel, rfl, by decide +kernel, rfl, by decide +kernel, _, rfl, by decide +kernel⟩
  · intro k hk
    simp only [List.mem_cons, List.not_mem_nil, or_false] at hk
    obtain rfl | rfl := hk <;> exact ⟨by decide +kernel, rfl, by decide +kernel, rfl, by decide +kernel, _, rfl, by decide +kernel⟩
  · exact ⟨by decide +kernel, rfl, by decide +kernel, rfl, by decide +kernel, _, rfl, by decide +kernel⟩
  · exact ⟨by decide +kernel, rfl, by decide +kernel, rfl, by decide +kernel, _, rfl, by unfold calm; decide +kernel⟩
  · intro l hl
    simp only [List.mem_cons, List.not_mem_nil, or_false] at hl
    obtain rfl | rfl := hl <;> exact ⟨by decide +kernel, rfl, by decide +kernel, rfl, by decide +kernel, _, rfl, by unfold calm; decide +kernel⟩
  · exact ⟨by decide +kernel, rfl, by decide +kernel, rfl, by decide +kernel, _, rfl, by decide +kernel⟩
  · intro k hk
    simp only [List.mem_cons, List.not_mem_nil, or_false] at hk
    obtain rfl | rfl := hk <;> exact ⟨by decide +kernel, rfl, by decide +kernel, rfl, by decide +kernel, _, rfl, by decide +kernel⟩
  · exact ⟨by decide +kernel, rfl, by decide +kernel, rfl, by decide +kernel, _, rfl, by unfold calm; decide +kernel⟩
  · exact ⟨by decide +kernel, rfl, by decide +kernel, rfl, by decide +kernel, _, rfl, by decide +kernel⟩

/-- A buffered write of window 1. -/
def bufEntry (a : Nat) : BufEntry := { win := 1, pa := a, va := a, k := 0, op := .write 4 0xFFFFFFFF }

/-- The small region with a buffered write of the closed window 1, with a complete cut, about to complete one, after an element
fault, about to be saved; a region of one CNT that has finished. -/
def bufferedR : Residency :=
  region fabricImage (fun r => { r.onUnit 6 (fun x => { x with buf := [bufEntry 0x4100000100] }) with cut := 1 })
def cutR : Residency := region fabricImage (fun r => { r with cut := 1 })
def closingR : Residency :=
  region fabricImage (fun r => { r with preReq := true, units := r.units.map (fun x => { x with core := { x.core with fires := 1 } }) })
def brokenR : Residency := region fabricImage (fun r => r.elementFault 1 1 0 0)
def savingR : Residency := region fabricImage (fun r => { r with hold := .saving })
def countImage : Image := { fabricImage with elems := [elemRec 6 1 0 cntWord], routes := [], rops := [] }
def finishedR : Residency :=
  region countImage (fun r => { onCore 0 (fun c => { c with begun := 1 }) r with rootDone := true, images := [0] })

theorem witness_WindowsAndEnds :
    (let s := placedIn bufferedR
     MemInv s ∧ s.res.find? 0 = some bufferedR ∧ s.commitChoice bufferedR = some (6, 0)
      ∧ (unitOf bufferedR 6).buf[0]? = some (bufEntry 0x4100000100)
      ∧ s.home 0x4100000100 = .clm 0 ∧ s.inCopy 0x4100000100 = false)
    ∧ ((placedIn cutR).commitChoice cutR = none ∧ cutR.committed < cutR.cut ∧ cutR.streams ≠ [] ∧ (∀ p ∈ cutR.streams, (placedIn cutR).streamBusy 0 p.1 = false ∧ p.2.back = []))
    ∧ (let s := placedIn closingR
       s.commitChoice closingR = none ∧ closingR.committed = closingR.cut ∧ closingR.flushAll = false ∧ closingR.flowing = true
      ∧ s.closes closingR (closingR.cut + 1) = true ∧ closingR.cutReady (closingR.cut + 1) = true)
    ∧ (brokenR.broken.isSome = true ∧ ((unitOf brokenR 1).saves.find? (fun v => v.k = brokenR.cut)).isSome = true
      ∧ (placedIn brokenR).stopHolds 0 = false)
    ∧ (let s := { placedIn savingR with poolbase := 0x4000000000#64, poolsize := 0x100000#64 }
       s.savable 0 savingR = true ∧ s.underRepair 0 = false ∧ s.saveArea savingR.plan.saveSize = some 0x4000000000)
    ∧ ((placedIn finishedR).mayFinish 0 finishedR = true) := by
  unfold MemInv
  refine ⟨?_, ?_, ?_, ?_, ?_, ?_⟩ <;> decide +kernel

/-- Entry 0 READY with an image at `va`, READY since cycle 0, and a master distributor that works. -/
def readyState (va : Nat) : State :=
  { one (regs []) with ready0 := 1, ready1 := 1, mem := cells 0x4100001000 imageBytes, gcyc := 65536#64,
                         entries := [(0, { Entry.blank with st := .ready, img := va, nimg := 1 })] }

/-- What a pass chooses, as data. -/
def chosen (s : State) : Option (Bool × Nat × Nat × (Nat × Nat) × List Nat) :=
  (s.choice s.readyOrder).map (fun c => match c with
    | .place i isl o l _ => (true, i, isl, o, l)
    | .refuse i cfg _ => (false, i, cfg, (0, 0), []))

/-- The image of the first entry to be placed can be planned and its bindings made. -/
def placeable (s : State) : Bool :=
  match s.choice s.readyOrder with
  | some (.place i isl o l im) =>
    (origins im.shape)[0]? == some o && (s.entry i).saved.isNone &&
      (match planOn im o.1 o.2, s.wanted (s.lidOf i) (s.entry i) with
       | .ok p, .ok w =>
         (match s.bindAll ((Residency.blank (s.lidOf i) (s.entry i).owner isl o.1 o.2 s.nextId l p).configure p 0) 0 w with
          | .ok _ => true
          | .error _ => false)
       | _, _ => false)
  | _ => false

/-- Three reports of site (1, 1) of island 0 within 2^24 cycles, under a residency that holds the site. -/
def failingState : State := { placedIn (region fabricImage id) with reports := [(65, [0, 1, 16777216])] }

theorem witness_Placement : let u := readyState 0x4100001000
    let s := u.reserve
    let t := (readyState 0x7000000000).reserve
    let rep : Repair := { island := 0, column := 1, lids := [0] }
    (u.mdWorks = true ∧ (readyState 0x7000000000).mdWorks = true)
    ∧ (chosen s = some (true, 0, 0, (0, 0), [0x4100001000]) ∧ placeable s = true) ∧ chosen t = some (false, 0, 0, (0, 0), [])
    ∧ (u.readyOrder = [0] ∧ 65536 ≤ u.since (u.entry 0).rtime ∧ u.reserved = [] ∧ u.grant ≠ 0#64)
    ∧ (failingState.mdWorks = true ∧ failingState.repair = none ∧ failingState.columnFails 0 1 = true
      ∧ (failingState.columns.getD 0 []).length < 2 ∧ failingState.onColumn 0 1 = [0])
    ∧ (let u := { placedIn savingR with repair := some rep }
       u.mdWorks = true ∧ u.repair = some rep ∧ u.res.find? 0 = some savingR ∧ u.savable 0 savingR = true) := by
  refine ⟨?_, ?_, ?_, ?_, ?_, ?_⟩ <;> decide +kernel

/-- A command that has nothing left to do, and the walks of a thread of core 1 at its first level and at a leaf, of a word in error, of
an entry at a peer; a request to a peer since cycle 0. -/
def doneCmd (count : Option Count) : Map Cmd :=
  [(5, { newCmd (some 0) (.barrier (.start 5) (setHdr 1) 0 1 8#16) (.me 1) 0 (some 1) with accepted := true, job := .done, count := count })]

def walkOf (lvl base va : Nat) (k : Acc) : Walk :=
  { island := 0, who := .ctx 0, va := va, kind := k, lvl := lvl, base := base, asked := false }

/-- Device 1, with a valid route to device 2 through port 3 and a page table. -/
def linkState : State :=
  { one (regs []) with ready0 := 1, ready1 := 1, mem := tables, ptroot := 0x4100010000#64, expects := [(8, 5), (10, 5), (11, 5)],
                       link := { (one (regs [])).link with devid := 1#10, route := [(2, 0x83#64)], lanes := [(0, 3), (23, 4)] } }

/-- A walk of thread 0 in flight, where a page of the device-register window has no W, and with a slot of device 2 whose port is
ready. -/
def walkState (w : Walk) : State :=
  { linkState with mem := tables ++ cells 0x4100020808 (bytesOf 8 0x4200000007), ready1 := 1 ||| (1#64 <<< 25), walks := [(3, w)] }

/-- What the walk's next level gives. -/
def walkGives (w : Walk) (s : State) (p : WalkGot → Bool) : Bool :=
  s.walks.find? 3 = some w && s.inFlight 3 && !w.asked && !s.inCopy (pteAddr w.lvl w.base w.va) && !(s.ctx 0).it && (match (s.readPte (pteAddr w.lvl w.base w.va)).2 with
    | .entry v => p (walkEntry w.lvl w.va v w.kind)
    | .ends g => p g
    | .ask => false)

theorem witness_CompletionsAndWalks :
    (let s := { one (regs []) with cmds := doneCmd none }
     ∃ c, s.cmds.find? 5 = some c ∧ c.job = .done ∧ c.follow = 0 ∧ c.count = none ∧ c.ownFetch = false ∧ c.src = some 0 ∧ c.slot = some 1#3)
    ∧ (let s := { one (regs []) with ready0 := 1, cmds := doneCmd (some { dev := none, core := 3, sem := 63, n := 2 ^ 32 - 1 }) }
       (∃ c, s.cmds.find? 5 = some c ∧ c.job = .done ∧ c.follow = 0) ∧ s.inReset 3 = false ∧ (s.core 3).semq.getD 63 [] = [])
    ∧ (let w := walkOf 1 0x4100010000 0x4000000000 .read
       walkGives w (walkState w) (fun g => match g with
        | .next l b => l == 2 && b == 0x4100020000
        | _ => false) = true)
    ∧ (let w := walkOf 2 0x4100020000 0x4000000000 .read
       walkGives w (walkState w) (fun g => match g with
        | .page e => e.pa == 0x4000000000
        | _ => false) = true)
    ∧ (let w := walkOf 2 0x4100020000 0x5000000000 .read
       walkGives w (walkState w) (fun g => match g with
        | .fault => true
        | _ => false) = true)
    ∧ (let w := walkOf 2 0x4100020000 0x4044000000 .write
       walkGives w (walkState w) (fun g => match g with
        | .denied => true
        | _ => false) = true)
    ∧ (let w := walkOf 2 0x4100020000 0x4000000000 .read
       walkGives w { walkState w with bad := [0x4100020800 / 8] } (fun g => match g with
        | .ecc => true
        | _ => false) = true)
    ∧ (let w := walkOf 2 (2 ^ 47 + 2 * 2 ^ 41) 0x4000000000 .read
       (walkState w).inFlight 3 = true ∧ (walkState w).inCopy (pteAddr 2 w.base w.va) = false ∧ (match ((walkState w).readPte (pteAddr 2 w.base w.va)).2 with
        | .ask => true
        | _ => false) = true)
    ∧ (let r : Req := { master := 0, owner := .ctx 0, op := .read 8, pa := 0, split := 40, pa2 := 0, ea := 0x8000000000, st := .remote 1 0 0 }
       let s := { one (regs []) with cy := 2 ^ 22, reqs := [(9, r)] }
       s.reqs.find? 9 = some r ∧ 0 + 2 ^ 22 ≤ s.cy) := by
  refine ⟨⟨_, rfl, by decide +kernel⟩, ⟨⟨_, rfl, by decide +kernel⟩, by decide +kernel⟩, ?_, ?_, ?_, ?_, ?_, ?_, ?_⟩ <;> decide +kernel

/-- Thread 0 at the words in its CLM, which its core fetches. -/
def fetching (ws : List Byte) : State := { one (regs []) with mem := cells 0x4100000000 ws }

/-- A lock record of thread 1, and a wake for it. -/
def wakeState : State :=
  let c : Ctx := { regs [] with st := .waiting, wait := .lock 64 }
  { (one (regs [])).setCtx 1 c with sync := [(0, [.lock 64 2#32])], wakes := [(0, 64)] }

theorem witness_CoreEvents :
    (let s := fetching (bytesOf 4 0x08630001)
     s.choose 0 (s.eligibleOn 0) = some (0, 0) ∧ s.fetchAt 0 = .run (.addi 3#5 3#5 1#16) 1 ∧ (s.ctx 0).held = none)
    ∧ (let s := fetching (bytesOf 4 0xFC000000)
       s.choose 0 (s.eligibleOn 0) = some (0, 0) ∧ s.fetchAt 0 = .trap 1 0xFC000000#64 ∧ (s.ctx 0).held = none ∧ (s.ctx 0).it = false)
    ∧ (one (regs [])).eligibleOn 1 = []
    ∧ (let c := ({ regs [] with waited := 4096, pend := 0x2000#15, st := .runnable } : Ctx)
       4096 ≤ c.waited ∧ c.st = .runnable ∧ c.held = none ∧ c.wait = .none ∧ c.stop = false ∧ c.it = false ∧ c.lowestCause = some 13)
    ∧ (let c : Ctx := { (regs []).setD 1 { count := 1, err := true } with st := .runnable, status := statusOf true false true false }
       c.st = .runnable ∧ c.held = none ∧ c.wait = .none ∧ c.stop = false ∧ c.it = false ∧ c.lowestCause = some 14)
    ∧ (let r : Req := { master := 0, owner := .ctx 0, op := .ldf true, pa := 0x4000000000, split := 40, pa2 := 0, ea := 0x4000000000, st := .refused }
       ({ one (regs []) with reqs := [(9, r)] } : State).reqs.find? 9 = some r)
    ∧ (wakeState.wakes.contains (0, 64) = true ∧ wakeState.sync.find? 0 = some [.lock 64 2#32] ∧ (2#32).getLsbD 1 = true
      ∧ (wakeState.ctx (0 * 32 + 1)).wait = .lock 64)
    ∧ ((State.reset.ctx 7).st = .halted ∧ (State.reset.ctx 7).slotsIdle = true ∧ (one (regs [])).me.st = .runnable
      ∧ (one (regs [])).me.held = none ∧ (one (regs [])).me.wait = .none)
    ∧ State.reset.busyCore 255 = false := by
  refine ⟨?_, ?_, ?_, ?_, ?_, ?_, ?_, ?_, ?_⟩ <;> decide +kernel

/-- An entry on its way from unit 5 of the small region to a pan; the table that maps the pan's memory. -/
def flightState (p : Map Pan) : State :=
  { placedIn (region fabricImage id) with flights := [(4, { rid := 0, unit := 5, pan := 9, word := 7#96 })], pans := p }

def panState (p : Pan) : State :=
  { one (regs []) with ready0 := 1, ready1 := 1, gcyc := 100#64, pans := [(9, p)], ptroot := 0x4100010000#64,
                       mem := cells 0x4100001000 (layout 64 [(0, 8, 0x4100002000), (18, 1, 16)]) ++ tables }

/-- A held pan whose memory is full; pans with four entries in the ring, of which none, two or all are taken; with a spilled entry;
with a fetch that has ended. -/
def fullPan : Pan := { somePan with rlen := 8, blen := 4 }
def duePan : Pan := { somePan with rlen := 4, times := [0, 1, 2, 3], readyAt := some 100 }
def oldPan : Pan := { somePan with rlen := 1, times := [0] }
def takenPan : Pan := { duePan with taken := 4, fired := true, bufs := [.writing 5 4, .free], readyAt := none }
def spilledPan : Pan := { somePan with rlen := 7, blen := 1 }
def fetchedPan : Pan := { somePan with fetch := some 5, present := false, waiting := [5] }
def fetchedState : State :=
  { panState fetchedPan with entries := [(5, { Entry.blank with st := .waiting, pcnt := 1 })],
                             cmds := [(5, { newCmd none (.fetchw (.start 5) (setHdr 1) 0 9) .md 0 none with accepted := true, job := .done })] }

/-- The state in which the distributor fires. -/
def turn (s : State) : State := s.inTurn 1 fireRank (fireRank + 1)

/-- A write of a pan's entry that is under way, and a batch that is being written. -/
def entryWrite : MdWrite := { pan := 9, buf := none, pa := 0x4000060000, va := 0x4000060000, n := 4, v := 7 }
def flushPan : Pan := { duePan with taken := 4, fired := true, bufs := [.flushing 5 4, .free], readyAt := none }

theorem witness_PanEvents_writes :
    (let s := { panState somePan with mdWrites := [entryWrite] }
     MemInv s ∧ s.mdWrites[0]? = some entryWrite ∧ (s.mdWrites.take 0).any (·.covers 0x4000060000 4) = false ∧ s.inCopy 0x4000060000 = false
      ∧ s.mdHome 0x4000060000 .write = true ∧ s.home 0x4000060000 ≠ .host)
    ∧ (let s := { panState somePan with mdWrites := [{ entryWrite with buf := some 1 }], tables := [(16 * 3, (0, 0))] }
       s.mdHome 0x4000060000 .write = false ∧ s.pans.find? 9 = some somePan ∧ somePan.held = none ∧ somePan.also = [])
    ∧ (let s := { panState flushPan with entries := [(5, { Entry.blank with st := .waiting, pcnt := 1 })] }
       flushPan.bufs[0]? = some (.flushing 5 4) ∧ s.mdWrites = [] ∧ (s.entry 5).st = .waiting ∧ (s.entry 5).pcnt = 1
        ∧ [{ entryWrite with buf := some 0 }].any (fun w => decide (w.pan = 9) && decide (w.buf = some 0)) = true)
    ∧ (let s := panState { duePan with bufs := [.writing 5 4, .writing 6 4] }
       (turn s).panNext ≠ some 9) := by
  unfold MemInv; decide +kernel

theorem witness_PanEvents :
    (∀ m ∈ [[], [(9, somePan)], [(9, fullPan)]], let s := flightState m
      s.flights.find? 4 = some { rid := 0, unit := 5, pan := 9, word := 7#96 } ∧ (∀ q ∈ s.flights, ¬q.1 < 4) ∧ s.pans = m)
    ∧ (let s := flightState [(9, somePan)]
       MemInv s ∧ s.replaying 0 = false ∧ s.reqs = [] ∧ somePan.held = none ∧ somePan.blen = 0 ∧ somePan.rlen < somePan.rcnt ∧ somePan.scope.isSome = true
        ∧ ∀ j, j < 3 → s.mdHome (somePan.ring + 4 * j) .write = true ∧ s.home (somePan.ring + 4 * j) = .me 3)
    ∧ (let r := region fabricImage id
       r.units[5]? = some (unitOf r 5) ∧ r.broken = none ∧ r.masked = none ∧ r.opOf 5 = some (elemRec 3 1 0 (laneBits .panq panqW), .panq, panqW)
        ∧ trapped panqW Num.nv = 0#5 ∧ trapped { panqW with xen := Num.nv } Num.nv ≠ 0#5)
    ∧ (let log (m : Nat) := { TraceCore.reset with recctl := BitVec.ofNat 64 m, rsize := 64#64, rwr := 4#64 }
       let s := { panState duePan with traces := [(0, log 1)] }
       (turn s).panNext = some 9 ∧ (turn s).panWants 9 duePan = true ∧ s.replaying 0 = false ∧ (s.traceCore 0).mode = 1
        ∧ ringRoom (s.traceCore 0).rsize ((s.traceCore 0).rwr + 1) (s.traceCore 0).rrd 0 = false)
    ∧ (let s := { panState { duePan with tmpl := 0x7000000000 } with ptroot := 0x4100010000#64 }
       (turn s).panNext = some 9 ∧ (((turn s).fetch mdMaster 0x7000000000 64).bind (fun bs => launchRecord bs duePan.owner)).isNone = true
        ∧ duePan.bufs.findIdx? (· = .free) = some 0)
    ∧ (fullPan.held = none ∧ ¬(fullPan.blen = 0 ∧ fullPan.rlen < fullPan.rcnt) ∧ fullPan.blen = fullPan.bcnt)
    ∧ (oldPan.fired = false ∧ 0 < oldPan.count ∧ (oldPan.age : Int) ≤ ((panState oldPan).gcyc - 0).toInt ∧ oldPan.readyAt = none)
    ∧ (let s := panState duePan
       (turn s).panNext = some 9 ∧ (turn s).panWants 9 duePan = true ∧ duePan.present = true ∧ s.replaying 0 = false ∧ (s.traceCore 0).mode = 0
        ∧ duePan.bufs.findIdx? (· = .free) = some 0
        ∧ (((turn s).fetch mdMaster duePan.tmpl 64).bind (fun bs => launchRecord bs duePan.owner)).map (fun e => (e.1.scope, e.2)) = some (0, [])
        ∧ (turn s).liveScope 0 = some 0 ∧ ((turn s).scope 0).closed = false ∧ (turn s).freeEntry = some 0)
    ∧ (let s := panState takenPan
       takenPan.bufs[0]? = some (.writing 5 4) ∧ takenPan.mayWork = true
        ∧ takenPan.stuck (.buffer 0) = false
        ∧ (match (s.oldest takenPan 4).2 with
           | .ok ws => ws.length = 4 ∧ (takenPan.bufWords 0 ws).length = 48 ∧ (takenPan.bufWords 0 ws).all (· < 2 ^ 32) = true
           | .error _ => False)
        ∧ ∀ i, i < 48 → s.mdPlace (takenPan.bufVa 0 + 4 * i) .write = .ok (takenPan.bufVa 0 + 4 * i)
            ∧ s.mdHome (takenPan.bufVa 0 + 4 * i) .write = true)
    ∧ (let s := panState spilledPan
       spilledPan.refillDue = true ∧ spilledPan.mayWork = true
        ∧ (let va := spilledPan.bitt + 12 * spilledPan.bpos
           let got := (s.threeMend va .read).mdWords (s.threeAt va .read)
           match got.2 with
           | .ok ws => (match got.1.mdStore 9 none (spilledPan.slotAt (spilledPan.rpos + spilledPan.rlen)) ws with
             | .ok _ => True
             | .error _ => False)
           | .error _ => False))
    ∧ (∃ c, fetchedState.cmds.find? 5 = some c ∧ fetchedPan.fetch = some 5 ∧ c.job = .done ∧ c.follow = 0 ∧ c.count = none ∧ c.err = false) := by
  unfold MemInv
  refine ⟨?_, ?_, ?_, ?_, ?_, ?_, ?_, ?_, ⟨rfl, rfl, rfl, ?_, ?_⟩, ⟨rfl, rfl, trivial⟩, _, rfl, rfl, rfl, rfl, rfl, rfl⟩
  case refine_9 => exact ⟨by decide +kernel, by decide +kernel⟩
  all_goals decide +kernel

/-- The last word of the last ME, a reserved bit, an ME in reorder mode, an uncorrectable word. -/
theorem witness_ApertureUpdates : let s := one (regs [])
    let v : Word := 0x100007FFF#64
    let pa := meBase 24575 + 4 * 0x7FFF
    let r := { region fabricImage id with modes := [3] }
    MemInv s ∧ 24575 < 24576 ∧ (v.extractLsb' 0 15).toNat = 0x7FFF ∧ v.extractLsb' 15 17 = 0#17 ∧ s.meTaken 24575 = false
    ∧ s.isBad pa 4 = false ∧ s.watches = [] ∧ s.waitersOf (pa / 8) = [] ∧ (0x8000#64 : Word).extractLsb' 15 17 ≠ 0#17
    ∧ (placedIn r).meTaken 3 = true ∧ ({ s with bad := [pa / 8] } : State).isBad pa 4 = true := by
  unfold MemInv; decide +kernel

/-- A ring of 64 bytes in the own CLM with `wr` and `rd`, its descriptor, and what the descriptor of a notice on channel 63 of
core 3 names. -/
def ringState (wr rd : Nat) : State :=
  { one (regs []) with ready0 := 1, ready1 := 3,
                       mem := cells 0x4100009000 (layout 64 [(0, 8, 0x410000A000), (8, 4, 64), (12, 4, wr), (16, 4, rd), (32, 2, 64 * 3 + 63), (34, 1, 1)]),
                       link := { (one (regs [])).link with mbox := 0x4100009000#64 } }

def ringAt (wr rd : Nat) : RingDesc := { base := 0x410000A000, size := 64, wr := wr, rd := rd, note := 64 * 3 + 63, octx := 1 }

/-- A message that fits to the end of the ring, one larger than the ring, one that finds no room; a pending notice; an overdue
message; the mailbox; a doubleword of an ME. -/
theorem witness_RingsAndHost : let s := ringState 16 16
    let full := ringState 64 0
    let msg (n : Nat) : List Byte := List.replicate n 7#8
    MemInv s ∧ MemInv full
    ∧ (s.ringDesc 0x4100009000 = some (ringAt 16 16) ∧ s.inReset 3 = false ∧ (s.chan 3 63).length < 4 ∧ (s.core 3).recvq.getD 63 [] = []
      ∧ (∀ m ∈ s.ringq, m.desc ≠ 0x4100009000))
    ∧ ((msg 48).length % 8 = 0 ∧ (msg 48).length ≤ (ringAt 16 16).free ∧ 16 % 64 + (msg 48).length ≤ 64 ∧ 0x4100009000 + 64 ≤ 0x410000A000
      ∧ s.mayStore hostMaster (0x410000A000 + 16) = true ∧ s.mayStore hostMaster (0x4100009000 + 12) = true
      ∧ s.mayStore hostMaster (0x4100009000 + 28) = true)
    ∧ (64 < (msg 72).length ∧ (msg 72).length % 8 = 0 ∧ s.recordAddr 3 (s.core 3).recSeq + 128 ≤ 0x4100009000 + 28)
    ∧ (full.ringDesc 0x4100009000 = some (ringAt 64 0) ∧ (ringAt 64 0).free < (msg 8).length)
    ∧ ({ s with notices := [0x4100009000] } : State).notices.contains 0x4100009000 = true
    ∧ (let m : RingMsg := { desc := 0x4100009000, msg := msg 8, from_ := 0, noted := false, host := true }
       ({ s with cy := 2 ^ 20, ringq := [m] } : State).ringq.findIdx? (fun m => m.desc = 0x4100009000
          && ({ s with cy := 2 ^ 20, ringq := [m] } : State).overdue m) = some 0)
    ∧ (s.link.mbox ≠ 0 ∧ 8 ≤ (msg 8).length ∧ (msg 4096).length ≤ 4096 ∧ s.readyBit 1 = true)
    ∧ (8 ∈ [1, 2, 4, 8] ∧ 0x4000000008 % 8 = 0 ∧ s.home 0x4000000008 = .me 0 ∧ s.isBad 0x4000000008 8 = false ∧ s.accepts hostMaster 0x4000000008 .read = true
      ∧ s.accepts hostMaster 0x4000000008 .write = true) := by
  refine ⟨?_, ?_, ?_, ?_, ?_, ?_, ?_, ?_, ?_, ?_⟩ <;> first | decide +kernel | (unfold MemInv; decide +kernel)

/-- What the host sends behind a message that waits, and behind what waits already. -/
theorem witness_RingsAndHost_order : let s := ringState 16 16
    let m : RingMsg := { desc := 0x4100009000, msg := List.replicate 72 7#8, from_ := 0, noted := false, host := true }
    s.hostBusy = false ∧ s.hostq = [] ∧ s.readyBit 1 = true ∧ ({ s with ringq := [m] } : State).hostBusy = true
    ∧ { s with hostq := [.mail [7#8]] }.hostq ≠ [] ∧ { s with link := { s.link with mbox := 0 } }.link.mbox = 0 := by decide +kernel

/-- A flit from device 2. -/
def flitOf (op cls dst addr len : Nat) (payload : List Byte) : Flit :=
  { op := op, cls := cls, src := 2, dst := dst, seq := 5, len := len, addr := addr, payload := payload }

/-- Requests to device 2 with sequence number 5. -/
def askedState (op : AccOp) : State :=
  { linkState with reqs := [(9, { master := 0, owner := .ctx 0, op := op, pa := 0, split := 40, pa2 := 0, ea := 0x8000000000,
                                   st := .remote 2 5 0 })] }

/-- An entry sent to device 2 that has been refused, or not yet. -/
def awayPan (back : Bool) : Pan :=
  { somePan with fbk := 1, fbdev := 2, fbpan := 9, away := [{ dev := 2, pan := 9, seq := 5, ents := [7#96], fire := 0, thr := true, back := back }] }

theorem witness_FlitArrivals : let s := linkState
    let own := s.link.devid.toNat
    (own = 1 ∧ s.routeTo 2 = some 3 ∧ s.soundReady 3 = false)
    ∧ (∀ x ∈ [(0, 0), (0, 3), (1, 0), (1, 3), (2, 0), (3, 0), (4, 1), (5, 1), (6, 2), (7, 2), (8, 1), (9, 1)],
        (flitOf x.1 x.2 2 0 0 []).dst ≠ own ∧ (flitOf x.1 x.2 1 0 0 []).dst = own)
    ∧ (∀ x ∈ [(0, 0), (1, 3), (6, 2), (7, 2)], (flitOf x.1 x.2 1 0 0 []).seq = s.expectedSeq 2 x.2) ∧ s.early = []
    ∧ (s.parked = [] ∧ s.unacked = [] ∧ ({ s with unacked := [(4, flitOf 0 0 2 0 0 [])] } : State).inFlightOn 4 ≠ [] ∧ s.inFlightOn 4 = [])
    ∧ ((6 + 4096 - s.expectedSeq 2 0) % 4096 = 1 ∧ (2052 + 4096 - s.expectedSeq 2 0) % 4096 = 2047)
    ∧ (inClm 0x4000000000 = false ∧ inClm 0x4100000000 = true ∧ s.grants (24976 + 4) 0x3000 0x4100000000 .read = true
      ∧ 0x4000000004 % 8 ≠ 0 ∧ ({ s with tables := [(16 * 24980, (0, 0))] } : State).grants (24976 + 4) 0x3000 0x4100000000 .read = false)
    ∧ ((askedState (.read 8)).outstanding 2 5 false).isSome = true ∧ ((askedState (.write 8 0)).outstanding 2 5 true).isSome = true
    ∧ (s.inReset 4 = true ∧ s.inReset 3 = false ∧ (s.core 3).semq.getD 63 [] = [] ∧ (64 * 3 + 63) / 64 % 256 = 3 ∧ (64 * 3 + 63) % 64 = 63)
    ∧ (s.holdsBack 3 { flitOf 6 2 1 0 0 [] with src := 1, dst := 2, cls := 1 } = false ∧ s.replaying 0 = false ∧ s.flights = [] ∧ s.reqs = [])
    ∧ (s.pans.find? 9 = none ∧ s.refused.contains (2, 9) = false ∧ ({ somePan with held := some .spill } : Pan).held.isSome = true
      ∧ (∀ j, j < 3 → s.mdHome (somePan.ring + 4 * j) .write = true ∧ s.home (somePan.ring + 4 * j) = .me 3))
    ∧ ((awayPan false).away.all (fun a => a.dev = 2 && a.pan = 9 && a.seq = 5) = true ∧ s.peerBars = [] ∧ (awayPan false).held = none ∧ 5 = fieldAt (bytesOf 2 5) 0 2 % 4096 ∧ 9 / 4096 % 2 = 0 ∧ (awayPan true).fbpan = 9 % 4096
      ∧ (awayPan true).away.all (·.back) = true)
    ∧ (s.link.lanes.getD 23 0 = 4 ∧ s.link.lanes.getD 0 0 ≠ 4) := by
  refine ⟨?_, ?_, ?_, ?_, ?_, ?_, ?_, ?_, ?_, ?_, ?_, ?_, ?_, ?_⟩ <;> decide +kernel

/-- A pan whose refused entries a PRESUME sends again: port 3 ready, no route. -/
theorem witness_FlitArrivals_resume :
    (let s := { linkState with ready1 := 1 ||| (1#64 <<< 25) }
     s.routeTo 2 = some 3 ∧ s.soundReady 3 = true)
    ∧ { linkState with link := { linkState.link with route := [] } }.routeTo 2 = none ∧ (awayPan true).held = none ∧ (awayPan true).also = []
    ∧ (0x4000000002 % 4 = 2 ∧ 0x4000000001 % 4 ≠ 0) := by decide +kernel

/-- A failed check; watch slot 15; values at the limits of the registers that check theirs. -/
theorem witness_PackageEvents_registers :
    (let s : State := { State.reset with ready1 := 6, bootstat := 3 }
     s.bootReady = true ∧ s.bootstat ≠ 1 ∧ s.bootstat ≠ 2)
    ∧ ((State.reset.dbgBlk 63).slots[15]?).isSome = true ∧ (State.reset.traceCore 3).dropped = 0
    ∧ (1000 ≤ (1000#64).toNat ∧ (3200#64).toNat ≤ 3200 ∧ (999#64).toNat < 1000 ∧ 3200 < (3201#64).toNat)
    ∧ ((1023#64).toNat < 1024 ∧ (0x40000000#64).toNat % 2 ^ 30 = 0 ∧ 0x97#64 &&& 0xFFFFFFFFFFFFFF60#64 = 0 ∧ ((0x97#64).extractLsb' 0 5).toNat < 24) := by
  decide +kernel

/-- A boot check under way; the device's hash and nonce; the small region with no fault; a watch slot that breaks, and a stop. -/
theorem witness_PackageEvents :
    (let s : State := { State.reset with ready1 := 6, bootLen := some 1024 }
     s.bootReady = true ∧ s.bootstat = 0 ∧ State.reset.bootReady = false ∧ ({ State.reset with bootstat := 1 } : State).bootstat = 1
      ∧ s.bootLen = some 1024 ∧ MemInv s)
    ∧ (let c : RowCopy := { channel := 63, bank := 0, row := 7, whole := true }
       let s : State := { State.reset with copying := [c], single := [3], spares := [(2 * 63 + 1, 0)] }
       s.copying.filter (fun c => c.channel = 63) = [c] ∧ s.copying.filter (fun c => c.channel = 0) = [] ∧ c.key = 127)
    ∧ (let s : State := { State.reset with ready1 := 4, single := [3] }
       s.needsSpare 3 = true ∧ s.spares.getD (copyOf 3 true).key 0 < 1 ∧ s.spares.getD (copyOf 3 false).key 0 < 64
        ∧ ({ s with spares := [(1, 1)] } : State).spares.getD (copyOf 3 true).key 0 = 1)
    ∧ ((63 : Nat) < 64 ∧ (23 : Nat) < 24 ∧ (15 : Nat) < 16 ∧ (3 : Nat) < 4)
    ∧ (State.reset.imgHash.length = 32 ∧ State.reset.qnonce.length = 4)
    ∧ ((104 : Nat) < 105 ∧ (105 : Nat) ≤ 105 ∧ (114 : Nat) < 115 ∧ (115 : Nat) ≤ 115)
    ∧ ((25001 : Nat) < 25002 ∧ (15 : Nat) < 16 ∧ (1 : Word) ≠ 0 ∧ (2 ≠ 4 ∧ 2 ≠ 8) ∧ 0x420E000014 % 8 ≠ 0)
    ∧ ([] : List Nat).contains (64 / 8) = false
    ∧ (let r := region fabricImage id
       (placedIn r).res.find? 0 = some r ∧ r.units[1]? = some (unitOf r 1) ∧ r.broken = none ∧ r.hold = .running) := by
  refine ⟨?_, ?_, ?_, ?_, ?_, ?_, ?_, ?_, ?_⟩ <;> first | decide +kernel | (unfold MemInv; decide +kernel)

/-- A copy of the row of word 3 has that word, and its bank's copy too; word 40 lies in another channel. -/
theorem test_copyOf_has : (copyOf 3 false).has 3 = true ∧ (copyOf 3 true).has 3 = true ∧ (copyOf 3 true).has 40 = false := by
  simp [copyOf, RowCopy.has, dramChannel]

/-- Slot 1 breaks the small region, which a stop holds. -/
def slotState : State :=
  { placedIn (region fabricImage (fun r => { r with dbg := true })) with
      dbg := [(0, { DebugBlk.reset with stops := [3], slots := DebugBlk.reset.slots.set 1 (0x8000000000000000#64, 0#64) })],
      stops := [(3, { islands := [0], regions := [0], ctxs := [], hits := [], complete := true })] }

/-- A stop that has reached the controller tree; one whose regions and contexts stand still; slot 1's break, with its region gone, and
there. -/
theorem witness_DebugAndTrace_stops :
    (let r := region fabricImage (fun r => { r with halted := [r.treeNo] })
     (placedIn r).res.find? 0 = some r ∧ r.hold = .running ∧ r.broken = none ∧ r.dbg = false ∧ r.treeNo ∈ r.halted
      ∧ r.joined r.treeNo 1 = true)
    ∧ (let x : Stop := { islands := [0], regions := [0], ctxs := [7], hits := [(0, 1)], complete := false }
       let s := { slotState with stops := [(3, x)] }
       s.stops.find? 3 = some x ∧ (s.res.find? 0).map (·.dbg) = some true ∧ (s.ctx 7).st = .halted
        ∧ ((s.dbgBlk 0).slots[1]?).map slotMode = some 2)
    ∧ (let s := { slotState with stops := [], res := [] }
       s.stops.find? s.nextId = none ∧ s.nextId ∉ ({ s with dbg := [] }.dbgBlk 0).stops ∧ s.res.find? 0 = none)
    ∧ (let s := { placedIn (region fabricImage id) with nextId := 4, dbg := slotState.dbg }
       (s.dbgBlk 0).slots[1]? = some (0x8000000000000000#64, 0#64) ∧ s.stops.find? 4 = none ∧ 4 ∉ (s.dbgBlk 0).stops
        ∧ slotLid (0x8000000000000000#64, 0#64) = 0 ∧ (region fabricImage id).hold ≠ .fault) := by
  decide +kernel

/-- A trace core with one record and the filter `code`. -/
def traceState (code : List (BitVec 16)) (size : Word) : State :=
  { one (regs []) with traces := [(1, { TraceCore.reset with queue := [7#128], inForce := code, tbase := 0x4100008000#64, tsize := size })] }

theorem witness_DebugAndTrace :
    (slotState.res.find? 0 = some (region fabricImage (fun r => { r with dbg := true })) ∧ (slotState.dbgBlk 0).stops = [3]
      ∧ slotState.stops.find? 3 = some { islands := [0], regions := [0], ctxs := [], hits := [], complete := true } ∧ (slotState.stops.map (·.1)).Nodup
      ∧ (∀ y ∈ slotState.stops, y.1 ∉ [3] → 0 ∉ y.2.regions)
      ∧ (slotState.dbgBlk 0).slots[1]? = some (0x8000000000000000#64, 0#64) ∧ slotMode (0x8000000000000000#64, 0#64) = 2
      ∧ slotStop (0x8000000000000000#64, 0#64) = 0 ∧ slotLid (0x8000000000000000#64, 0#64) = 0)
    ∧ (∀ p ∈ [([0xE000#16], 0#64), ([0xB00#12 ++ 15#4], 0), ([], 0), ([], 65536)], let s := traceState p.1 p.2
        (s.traceCore 1).queue = [7#128] ∧ (s.traceCore 1).inForce = p.1 ∧ (s.traceCore 1).dropped = 0)
    ∧ (let c := (traceState [] 0).traceCore 1; ringRoom c.tsize c.twr c.trd 1 = false)
    ∧ (let s := traceState [] 65536
       let c := s.traceCore 1
       ringRoom c.tsize c.twr c.trd 1 = true ∧ s.accepts (traceMaster 1) 0x4100008000 .write = true ∧ MemInv s)
    ∧ (let c (n : Nat) : TraceCore := { (traceState [] 65536).traceCore 1 with dropped := 3, twr := BitVec.ofNat 64 n }
       (c 0).dropped ≠ 0 ∧ ringRoom (c 4095).tsize (c 4095).twr (c 4095).trd 1 = true
        ∧ ringRoom (c 4095).tsize ((c 4095).twr + 1) (c 4095).trd 1 = false ∧ ringRoom (c 0).tsize ((c 0).twr + 1) (c 0).trd 1 = true)
    ∧ ((64#7).toNat ≤ 64 ∧ ¬(65#7).toNat ≤ 64 ∧ TraceCore.reset.filter.all koroOk = true)
    ∧ (let s := placedIn (region fabricImage id)
       s.holder 0 1 1 = some (0, region fabricImage id) ∧ (region fabricImage id).elemOn 1 1 = some 1) := by
  refine ⟨?_, ?_, ?_, ?_, ?_, ?_, ?_⟩ <;> first | decide +kernel | (unfold MemInv; decide +kernel)

/-- A step from reset, and one in which the host writes. -/
theorem witness_StepsKeepMemory : (MemInv State.reset ∧ ∃ t, step State.reset = .next t)
    ∧ (let s := { State.reset with ready1 := 2, inputs := [.hostAccess (.write 0x4000000008 [1#8])] }
       MemInv s ∧ ∃ t, step s = .next t ∧ t.mem = [(0x4000000008, 1#8)]) := by
  refine ⟨⟨by unfold MemInv; decide +kernel, _, rfl⟩, ⟨by unfold MemInv; decide +kernel, _, rfl, ?_⟩⟩
  rw [State.passed_mem]
  decide +kernel

/-- The one agent is core 0, whose context 0 stands at an ADDI. -/
theorem witness_StepRunsDecoded : let s := fetching (bytesOf 4 0x08630001)
    s.inputs = [] ∧ s.agents ≠ [] ∧ s.agents.getD (Config.pick (2 * s.tick) % s.agents.length) .pass = .core 0
    ∧ s.choose 0 (s.eligibleOn 0) = some (0, 0) ∧ (s.ctx 0).held = none ∧ GoodTarget 0 (s.ctx 0).pc
    ∧ (s.ctx 0).pc.toNat + 4 * 1 ≤ clmBase (coreOf 0) + 0x10000 ∧ s.grants (24576 + coreOf 0) 0 (s.ctx 0).pc.toNat .fetch = true
    ∧ s.isBad (s.ctx 0).pc.toNat 4 = false ∧ fetchLength (BitVec.ofNat 32 (s.readMem (s.ctx 0).pc.toNat 4)) = 1
    ∧ decode (s.wordsAt (s.ctx 0).pc.toNat 1) = .ok (.addi 3#5 3#5 1#16) := by
  have h : (fetching (bytesOf 4 0x08630001)).agents = [.core 0] := by decide +kernel
  unfold GoodTarget
  dsimp only
  rw [h]
  refine ⟨rfl, by simp, by simp [Nat.mod_one], ?_⟩
  decide +kernel

/-- A word of the highest opcode decodes to nothing. -/
theorem witness_ReservedEncodingTraps : let s := fetching (bytesOf 4 0xFC000000)
    s.choose 0 (s.eligibleOn 0) = some (0, 0) ∧ (s.ctx 0).held = none ∧ (s.ctx 0).it = false ∧ GoodTarget 0 (s.ctx 0).pc
    ∧ (s.ctx 0).pc.toNat + 4 * 1 ≤ clmBase (coreOf 0) + 0x10000 ∧ s.grants (24576 + coreOf 0) 0 (s.ctx 0).pc.toNat .fetch = true
    ∧ s.isBad (s.ctx 0).pc.toNat 4 = false ∧ fetchLength (BitVec.ofNat 32 (s.readMem (s.ctx 0).pc.toNat 4)) = 1
    ∧ ∀ i, decode (s.wordsAt (s.ctx 0).pc.toNat 1) ≠ .ok i := by
  have h : (decode ((fetching (bytesOf 4 0xFC000000)).wordsAt 0x4100000000 1)).toOption = none := by decide +kernel
  unfold GoodTarget
  refine ⟨?_, ?_, ?_, ?_, ?_, ?_, ?_, ?_, fun i hi => ?_⟩
  iterate 8 decide +kernel
  rw [show (((fetching (bytesOf 4 0xFC000000)).ctx 0).pc.toNat) = 0x4100000000 from by decide +kernel] at hi
  rw [hi] at h
  cases h

/-- Every operand at its highest value, and the action of WSTEP that its shared word does not name. -/
theorem witness_DecodeAndEncode :
    (wellFormed (.addi 31#5 31#5 0xFFFF#16) = true ∧ encode (.addi 31#5 31#5 0xFFFF#16) = some [0x0BFFFFFF#32]
      ∧ (decode [0x0BFFFFFF#32]).toOption = some (.addi 31#5 31#5 0xFFFF#16))
    ∧ (wellFormed (.wstepEnd 1#5 2#5) = true ∧ (encode (.wstepEnd 1#5 2#5)).isSome = true
      ∧ Instr.asDecoded (.wstepEnd 1#5 2#5) = .wstepStep 1#5 2#5)
    ∧ ((.addi 31#5 31#5 0xFFFF#16 : Instr).isEvent = false ∧ (.fadd (.fire 0 1) faddW : Instr).isEvent = true ∧ Instr.packageReset.isEvent = true) := by
  decide +kernel

end Sys2Proof.Tests
end

section
/-! SUPPORT. Rules of the operations that the sequential machine's statements share: targets, traps, completion of an
instruction, and system registers (R14 to R23, R62, R66, R67, R71). -/

namespace Sys2Proof.Machine

/-! ### Targets -/

theorem extractLow2_eq_zero_iff (a : Word) : a.extractLsb' 0 2 = 0#2 ↔ a.toNat % 4 = 0 := by
  simp [← BitVec.toNat_inj]

/-- A target that R62 permits raises nothing. -/
theorem targetFault_of_good {t : Nat} {a : Word} (h : GoodTarget t a) : targetFault t a = none := by
  obtain ⟨aligned, low, high⟩ := h
  have range : ¬(a.toNat < clmBase (coreOf t) ∨ clmBase (coreOf t) + 0x10000 ≤ a.toNat) := by omega
  simp [targetFault, (extractLow2_eq_zero_iff a).mpr aligned, range]

/-! ### Traps and completion -/

/-- An illegal-instruction trap of a context that is in no handler (R20). -/
theorem illegal_spec {s : State} (h : s.me.it = false) :
    ∃ t, illegal s = .next t ∧ Trapped 1 (BitVec.ofNat 64 (s.readMem s.me.pc.toNat 4)) s.me.pc s t :=
  raise_spec 1 _ s h

/-- A trap inside a handler only halts the context (R21). -/
theorem Ctx.trapEntry_nested {c : Ctx} (h : c.it = true) (cause : Nat) (addr resume : Word) :
    c.trapEntry cause addr false resume
      = { c with tcause := c.tcause ||| 0x200#64, st := .halted, held := none, wait := .none, stop := false, pages := [],
                 peeked := none, waited := 0 } := by
  simp [Ctx.trapEntry, h, Ctx.boundary]

/-- Completion moves the PC and what says how the context executes, and nothing else of it. -/
theorem Ctx.retire_only (c : Ctx) (n : Nat) :
    c.retire n = { c.runAs (c.retire n) with pc := c.pc + BitVec.ofNat 64 (4 * n) } := by
  unfold Ctx.retire
  rw [Ctx.boundary_only]
  rfl

/-- An instruction of `n` words whose whole effect is `f` on its context, which leaves how the context executes. -/
theorem retireWith_spec (n : Nat) (f : Ctx → Ctx) (s : State) (run : f s.me = (f s.me).runAs s.me) :
    ∃ t, retireWith n f s = .next t ∧ Alone s t ∧ AtBoundary s.me t.me
      ∧ t.me = { (f s.me).runAs t.me with pc := (f s.me).pc + BitVec.ofNat 64 (4 * n) } := by
  refine ⟨_, rfl, alone_setMe _ _, ?_, ?_⟩
  · rw [State.me_setMe]
    exact Ctx.boundary_at _ _ (by rw [run]; rfl) (by rw [run]; rfl) (by rw [run]; rfl)
  · rw [State.me_setMe]
    exact Ctx.retire_only _ _

/-! ### SYSR and SYSW -/

/-- SYSR of a register that the thread may read (R66). -/
theorem sysr_reads {s : State} {r : BitVec 11} {v : Word} (d : GReg) (value : s.sysreg r.toNat = some v)
    (permitted : sysPrv r.toNat = true → s.me.prv = true) : ∃ t, exec (.sysr d r) s = .next t ∧ Wrote d v 1 s t := by
  have run : execSysr d r s = writeReg d (fun _ => v) s := by
    unfold execSysr
    rw [value]
    exact if_neg (fun ⟨p, q⟩ => by simp [permitted p] at q)
  rw [exec_sysr, run]
  exact writeReg_spec d (fun _ => v) s

/-- SYSR of a number without a register (R66). -/
theorem execSysr_missing {s : State} {r : BitVec 11} (d : GReg) (missing : s.sysreg r.toNat = none) :
    execSysr d r s = illegal s := by
  unfold execSysr
  rw [missing]

/-- SYSR of a privileged register without privilege (R15). -/
theorem execSysr_denied {s : State} {r : BitVec 11} (d : GReg) (reg : sysPrv r.toNat = true) (prv : s.me.prv = false) :
    execSysr d r s = illegal s := by
  unfold execSysr
  split
  · exact if_pos ⟨reg, by simp [prv]⟩
  · rfl

/-- SYSW of a privileged register or of sy.gcyc without privilege (R15, R67). -/
theorem execSysw_denied {s : State} {r : BitVec 11} (a : GReg) (reg : sysPrv r.toNat = true ∨ r.toNat = 0x006)
    (prv : s.me.prv = false) : execSysw a r s = illegal s := by
  unfold execSysw
  exact if_pos (.inr ⟨reg, by simp [prv]⟩)

/-- The numbers above the table and the one that it leaves out name no register (R14). -/
theorem sysreg_missing (s : State) {n : Nat} (h : 0x010 < n ∨ n = 0x00F) : s.sysreg n = none := by
  obtain above | rfl := h
  · obtain ⟨k, rfl⟩ := Nat.exists_eq_add_of_le' above
    rfl
  · rfl

theorem getLsbD_lowMask (k : Nat) {i : Nat} (h : i < 64) : (BitVec.ofNat 64 (2 ^ k - 1)).getLsbD i = decide (i < k) := by
  rw [BitVec.getLsbD_ofNat, Nat.testBit_two_pow_sub_one]
  simp [h]

/-- The bits of sy.ready (R414). -/
theorem getLsbD_syReady (s : State) (die : Nat) {i : Nat} (h : i < 64) :
    (s.syReady die).getLsbD i = if i < 46 then s.readyBit i
      else if i < 62 then s.islandReady (16 * die + (i - 46)) else false := by
  have low : (0x3FFFFFFFFFFF#64).getLsbD i = decide (i < 46) := getLsbD_lowMask 46 h
  have high : (0xFFFF#64).getLsbD (i - 46) = decide (i - 46 < 16) := getLsbD_lowMask 16 (by omega)
  simp only [State.syReady, State.readyBit, State.islandReady, BitVec.getLsbD_or, BitVec.getLsbD_and, BitVec.getLsbD_shiftLeft,
    BitVec.getLsbD_ushiftRight, low, high, h]
  by_cases below : i < 46
  · simp [below]
  · have island : (i - 46 < 16) = (i < 62) := propext (by omega)
    by_cases b : i < 62 <;> simp [below, island, b]

theorem popc_eq_countP (x : Word) : popc x = (List.range 64).countP (fun i => x.getLsbD i) :=
  (List.countP_eq_length_filter).symm

theorem pancnt_none {s : State} {core : Nat} (h : (s.core core).window = none) : s.pancnt core = 0 := by
  simp [State.pancnt, h]

theorem pancnt_some {s : State} {core p i : Nat} {x : Pan} (h : (s.core core).window = some (p, i))
    (pan : s.pans.find? p = some x) : s.pancnt core = x.counter i := by
  simp [State.pancnt, h, pan]

/-! ### SYSW, register by register (R67) -/

section

variable (s : State) (a : GReg)

theorem execSysw_status
    (h : s.me.prv = true ∨ (s.me.get a).extractLsb' 0 3 = s.me.status.extractLsb' 0 3) :
    execSysw a 0x000#11 s = retireWith 1 (fun c => { c with status := (s.me.get a).setWidth 4 }) s := by
  obtain prv | same := h
  · simp [execSysw, State.sysreg, sysPrv, sysStatus, prv]
  · simp [execSysw, State.sysreg, sysPrv, sysStatus, same]

theorem execSysw_pri : execSysw a 0x007#11 s = retireWith 1 (fun c => { c with pri := (s.me.get a).setWidth 2 }) s := by
  simp [execSysw, State.sysreg, sysPrv]

theorem execSysw_fpctl : execSysw a 0x008#11 s =
    if 5 ≤ ((s.me.get a).setWidth 3).toNat then illegal s
    else retireWith 1 (fun c => { c with fpctl := (s.me.get a).setWidth 3 }) s := by
  simp [execSysw, State.sysreg, sysPrv, sysFpctl, BitVec.setWidth_eq_extractLsb']

theorem execSysw_fflags :
    execSysw a 0x009#11 s = retireWith 1 (fun c => { c with fflags := (s.me.get a).setWidth 5 }) s := by
  simp [execSysw, State.sysreg, sysPrv]

/-- A write of a read-only register is ignored (R15). -/
theorem execSysw_readOnly {n : BitVec 11}
    (h : n ∈ [0x001#11, 0x002#11, 0x003#11, 0x004#11, 0x005#11, 0x00E#11, 0x010#11]) :
    execSysw a n s = retireWith 1 id s := by
  simp only [List.mem_cons, List.not_mem_nil, or_false] at h
  obtain rfl | rfl | rfl | rfl | rfl | rfl | rfl := h <;> simp [execSysw, State.sysreg, sysPrv]

variable {s} (prv : s.me.prv = true)

include prv

theorem execSysw_gcyc : execSysw a 0x006#11 s = retireWith 1 id { s with gcyc := s.me.get a } := by
  simp [execSysw, State.sysreg, sysPrv, prv]

theorem execSysw_tvec :
    execSysw a 0x00A#11 s = retireWith 1 (fun c => { c with tvec := s.me.get a &&& ~~~3#64 }) s := by
  simp [execSysw, State.sysreg, sysPrv, prv]

theorem execSysw_epc : execSysw a 0x00B#11 s = retireWith 1 (fun c => { c with epc := s.me.get a }) s := by
  simp [execSysw, State.sysreg, sysPrv, prv]

theorem execSysw_tcause :
    execSysw a 0x00C#11 s = retireWith 1 (fun c => { c with tcause := s.me.get a &&& 0x3FF#64 }) s := by
  simp [execSysw, State.sysreg, sysPrv, prv]

theorem execSysw_taddr : execSysw a 0x00D#11 s = retireWith 1 (fun c => { c with taddr := s.me.get a }) s := by
  simp [execSysw, State.sysreg, sysPrv, prv]

end

/-- SYSW whose whole effect is `f` on its context. -/
theorem sysw_spec {s : State} {a : GReg} {r : BitVec 11} {f : Ctx → Ctx} (run : execSysw a r s = retireWith 1 f s)
    (keeps : f s.me = (f s.me).runAs s.me) (pc : (f s.me).pc = s.me.pc) :
    ∃ t, exec (.sysw a r) s = .next t ∧ Alone s t ∧ AtBoundary s.me t.me
      ∧ t.me = { (f s.me).runAs t.me with pc := s.me.pc + 4#64 } := by
  rw [exec_sysw, run, ← pc]
  exact retireWith_spec 1 f s keeps

end Sys2Proof.Machine
end

section
/-! SUPPORT. The reset state, the fetch of a core and the turn of a step (R9, R11, R25 to R27, R135, R136, R419, R435). -/

namespace Sys2Proof.Machine

/-! ### The state at reset -/

/-- At reset entry 0 of every access table grants every access of every master to every address (R419). -/
theorem grants_reset (t : Nat) {m a : Nat} (k : Acc) (address : a < 2 ^ 52) (master : m < 2 ^ 16) :
    State.reset.grants t m a k = true := by
  have entry : State.reset.tableEntry t 0 = (0xF800000000000000#64, 0x000FFFFFFFFFFFFF#64) := rfl
  unfold State.grants
  rw [List.any_eq_true]
  refine ⟨0, by simp, ?_⟩
  have right : (0xF800000000000000#64).getLsbD k.bit = true := by cases k <;> decide
  have page : a / 65536 ≤ 2 ^ 36 - 1 := by omega
  have id : m ≤ 2 ^ 16 - 1 := by omega
  simpa [entry, right] using ⟨page, id⟩

theorem isBad_reset (a n : Nat) : State.reset.isBad a n = false :=
  List.any_eq_false.mpr (fun _ _ => Bool.false_ne_true)

/-- The general registers of a context at reset (R7). -/
theorem get_ctxReset (t : Nat) (r : GReg) : (Ctx.reset t).get r = 0 := by
  unfold Ctx.get
  split
  · rfl
  · exact Vector.getElem_replicate r.toFin.isLt

theorem prv_ctxReset (t : Nat) : (Ctx.reset t).prv = true := by simp [Ctx.prv, Ctx.reset]

theorem it_ctxReset (t : Nat) : (Ctx.reset t).it = false := by simp [Ctx.it, Ctx.reset]

/-! ### Fetching -/

theorem fetchLength_pos (w : BitVec 32) : 1 ≤ fetchLength w := by
  unfold fetchLength
  split <;> decide

/-- Bytes that lie in words without error lie so in every shorter range (R57). -/
theorem isBad_of_le {s : State} {a m n : Nat} (le : m ≤ n) (good : s.isBad a n = false) : s.isBad a m = false := by
  unfold State.isBad wordsOf at *
  simp only [List.any_eq_false, List.mem_map, List.mem_range] at good ⊢
  rintro w ⟨i, bound, rfl⟩
  exact good _ ⟨i, by omega, rfl⟩

/-- What a thread fetches where its PC may be fetched and the `n` words there decode (R11, R25, R27). -/
theorem fetchAt_run {s : State} {t n : Nat} {i : Instr} (target : GoodTarget t (s.ctx t).pc)
    (grant : s.grants (24576 + coreOf t) t (s.ctx t).pc.toNat .fetch = true)
    (length : fetchLength (BitVec.ofNat 32 (s.readMem (s.ctx t).pc.toNat 4)) = n)
    (window : (s.ctx t).pc.toNat + 4 * n ≤ clmBase (coreOf t) + 0x10000) (good : s.isBad (s.ctx t).pc.toNat (4 * n) = false)
    (decoded : decode (s.wordsAt (s.ctx t).pc.toNat n) = .ok i) : s.fetchAt t = .run i n := by
  have first : s.isBad (s.ctx t).pc.toNat 4 = false := by
    have pos : 1 ≤ n := length ▸ fetchLength_pos _
    exact isBad_of_le (by omega) good
  simp [State.fetchAt, targetFault_of_good target, grant, first, length, Nat.not_lt.mpr window, good, decoded]

/-- Fetching reads the PC of the thread, memory and the access tables, and nothing else of the state. -/
theorem fetchAt_congr {s u : State} {t : Nat} (pc : (u.ctx t).pc = (s.ctx t).pc) (mem : u.mem = s.mem) (bad : u.bad = s.bad)
    (tables : u.tables = s.tables) : u.fetchAt t = s.fetchAt t := by
  have grants (h m a : Nat) (k : Acc) : u.grants h m a k = s.grants h m a k := by
    unfold State.grants State.tableEntry
    rw [tables]
  have isBad (a n : Nat) : u.isBad a n = s.isBad a n := by simp only [State.isBad, bad]
  have readMem (a n : Nat) : u.readMem a n = s.readMem a n := by simp only [State.readMem, mem]
  have wordsAt (a n : Nat) : u.wordsAt a n = s.wordsAt a n := by simp only [State.wordsAt, readMem]
  simp only [State.fetchAt, pc, grants, isBad, readMem, wordsAt]

/-- Context `t` has become the current one and is now `c`; no other context and no byte changed. -/
def Issues (t : Nat) (c : Ctx) (s u : State) : Prop :=
  u.cur = t ∧ u.me = c ∧ SameMem s u ∧ ∀ v, v ≠ t → u.ctx v = s.ctx v

/-- The chosen context, whose wait counter and boost start anew (R136). -/
def State.issuing (s : State) (t : Nat) : Ctx := { s.ctx t with waited := 0, boosted := false }

/-- The state once core `core` has chosen context `x` at priority `p` (R135). -/
def State.withChosen (s : State) (core x p : Nat) : State :=
  { (s.setCore core { s.core core with last := (s.core core).last.setIfInBounds p (BitVec.ofNat 3 x) }).setCtx (core * 8 + x)
      (s.issuing (core * 8 + x)).wake with cur := core * 8 + x }

/-- What the fetch makes of thread `t`, now `c`: a trap, or an instruction held, for which single-bit errors of the words read are
corrected (R11, R25, R230). -/
def State.afterFetch (s : State) (t : Nat) (c : Ctx) : Fetched → State
  | .trap cause a => s.setCtx t (c.raise cause a)
  | .run i n => (s.corrected c.pc.toNat (4 * n)).setCtx t { c with held := some i }

@[simp] theorem Ctx.wake_pc (c : Ctx) : c.wake.pc = c.pc := by
  unfold Ctx.wake
  split <;> rfl

theorem issues_setCtx {s z : State} {t : Nat} (c : Ctx) (cur : z.cur = t) (mem : z.mem = s.mem)
    (others : ∀ v, v ≠ t → z.ctx v = s.ctx v) : Issues t c s (z.setCtx t c) := by
  subst cur
  refine ⟨rfl, State.me_setMe z c, fun a => by rw [State.setCtx_mem, mem], fun v ne => ?_⟩
  rw [State.ctx_setCtx_ne _ _ ne, others v ne]

section

variable {s : State} {core x p : Nat}

theorem withChosen_ctx_same : (s.withChosen core x p).ctx (core * 8 + x) = (s.issuing (core * 8 + x)).wake :=
  State.ctx_setCtx_same _ _ _

theorem withChosen_ctx_ne (v : Nat) (ne : v ≠ core * 8 + x) : (s.withChosen core x p).ctx v = s.ctx v :=
  State.ctx_setCtx_ne _ _ ne

theorem withChosen_fetchAt : (s.withChosen core x p).fetchAt (core * 8 + x) = s.fetchAt (core * 8 + x) :=
  fetchAt_congr (by rw [withChosen_ctx_same, Ctx.wake_pc]; rfl) rfl rfl rfl

variable (chosen : s.choose core (s.eligibleOn core) = some (x, p)) (idle : (s.ctx (core * 8 + x)).held = none)

include chosen idle

/-- What a core does that has chosen a context which holds no instruction (R9, R135). -/
theorem fetchNext_chosen : s.fetchNext core
    = some ((s.withChosen core x p).afterFetch (core * 8 + x) (s.issuing (core * 8 + x)) (s.fetchAt (core * 8 + x))) := by
  unfold State.fetchNext
  rw [chosen]
  dsimp only
  rw [if_neg (by simp [idle]), ← withChosen_fetchAt (s := s) (p := p)]
  split
  case h_1 cause a trapped => rw [show (s.withChosen core x p).fetchAt (core * 8 + x) = .trap cause a from trapped]; rfl
  case h_2 i n ran => rw [show (s.withChosen core x p).fetchAt (core * 8 + x) = .run i n from ran]; rfl

/-- A fetch of an instruction leaves the chosen context holding it (R9, R25). -/
theorem fetchNext_run {i : Instr} {n : Nat} (fetched : s.fetchAt (core * 8 + x) = .run i n) :
    ∃ u, s.fetchNext core = some u ∧ Issues (core * 8 + x) { s.issuing (core * 8 + x) with held := some i } s u := by
  rw [fetchNext_chosen chosen idle, fetched]
  exact ⟨_, rfl, issues_setCtx _ rfl rfl withChosen_ctx_ne⟩

/-- A fetch that is refused is a trap of the chosen context (R11, R27, R42). -/
theorem fetchNext_trap {cause : Nat} {a : Word} (fetched : s.fetchAt (core * 8 + x) = .trap cause a) :
    ∃ u, s.fetchNext core = some u ∧ Issues (core * 8 + x) ((s.issuing (core * 8 + x)).raise cause a) s u := by
  rw [fetchNext_chosen chosen idle, fetched]
  exact ⟨_, rfl, issues_setCtx _ rfl rfl withChosen_ctx_ne⟩

end

/-! ### The turn of a step -/

/-- Where no outside event is due, the agent that the free value picks acts. -/
theorem turn_of_agents {s : State} {a : Auto} (quiet : s.inputs = []) (any : s.agents ≠ [])
    (picked : s.agents.getD (Config.pick (2 * s.tick) % s.agents.length) .pass = a) : s.turn = .agent a := by
  unfold State.turn
  rw [quiet]
  match agents : s.agents with
  | [] => exact absurd agents any
  | [b] =>
    rw [agents] at picked
    simpa [Nat.mod_one] using picked
  | b :: c :: l =>
    rw [agents] at picked
    have bound : Config.pick (2 * s.tick) % (b :: c :: l).length < (b :: c :: l).length := Nat.mod_lt _ (by simp)
    rw [List.getD_eq_getElem _ _ bound] at picked
    exact congrArg Turn.agent ((List.getD_eq_getElem _ _ bound).trans picked)

/-- Taking a turn among the operations of a cycle moves the record of turns and the counters of cycles alone. -/
theorem State.inTurn_only (s : State) (key rank next : Nat) : s.inTurn key rank next =
    { s with turns := (s.inTurn key rank next).turns, gcyc := (s.inTurn key rank next).gcyc,
             cycle := (s.inTurn key rank next).cycle, cy := (s.inTurn key rank next).cy,
             frac := (s.inTurn key rank next).frac } := by
  unfold State.inTurn State.advance
  dsimp only
  repeat' split
  all_goals rfl

/-- An instruction either takes a turn at one arbiter or needs none (R13, R132, R209, R367). -/
theorem State.turnFor_cases (s : State) (i : Instr) :
    (∃ key rank next, s.turnFor i = s.inTurn key rank next) ∨ s.turnFor i = s := by
  unfold State.turnFor
  dsimp only
  repeat' split
  all_goals first
    | exact .inl ⟨_, _, _, rfl⟩
    | exact .inr rfl

theorem State.turnFor_only (s : State) (i : Instr) : s.turnFor i =
    { s with turns := (s.turnFor i).turns, gcyc := (s.turnFor i).gcyc, cycle := (s.turnFor i).cycle, cy := (s.turnFor i).cy,
             frac := (s.turnFor i).frac } := by
  obtain ⟨key, rank, next, served⟩ | unordered := s.turnFor_cases i
  · rw [served]
    exact s.inTurn_only key rank next
  · rw [unordered]

theorem runCore_of_fetch {s u : State} {k : Nat} {i : Instr} (fetched : s.fetchNext k = some u) (held : u.me.held = some i) :
    runCore k s = exec i (u.turnFor i) := by
  simp [runCore, fetched, held]

end Sys2Proof.Machine
end

section
/-! SUPPORT. The events of cores: trap entry, wakes, and the control block (R9, R21, R22, R131, R139, R265, R417). -/

namespace Sys2Proof.Machine

/-! ### Entering a handler -/

/-- A trap entry that is not within a handler, or is asynchronous, enters the handler (R21). -/
theorem Ctx.trapEntry_enters {c : Ctx} {async : Bool} (h : (c.it && !async) = false) (cause : Nat) (addr resume : Word) :
    c.trapEntry cause addr async resume =
      { c.runAs (c.trapEntry cause addr async resume) with
        epc := resume, tcause := BitVec.ofNat 64 (cause + if async then 256 else 0), taddr := addr, pc := c.tvec,
        status := statusOf c.sen true c.prv true, tlb := [] } := by
  simp only [Ctx.trapEntry, h, Bool.false_eq_true, if_false]
  rw [Ctx.boundary_only]
  rfl

/-- Taking a cause changes the slots, or the pending causes with their addresses, and nothing else (R22, R291). -/
theorem Ctx.takeCause_only (c : Ctx) (cause : Nat) :
    c.takeCause cause = { c with d := (c.takeCause cause).d, pend := (c.takeCause cause).pend,
                                 pendAddr := (c.takeCause cause).pendAddr } := by
  unfold Ctx.takeCause
  repeat' split
  all_goals rfl

/-- A cause that has been taken is no longer pending (R22). -/
theorem Ctx.takeCause_pend {c : Ctx} {cause : Nat} (h : cause ≠ 14) : (c.takeCause cause).pend.getLsbD cause = false := by
  simp [Ctx.takeCause, h]

/-- A context at a boundary outside a handler takes its lowest pending cause (R22). -/
theorem execAsyncTrapEntry_taken {s : State} {t cause : Nat} (st : (s.ctx t).st = .runnable) (held : (s.ctx t).held = none)
    (wait : (s.ctx t).wait = .none) (outside : (s.ctx t).it = false) (lowest : (s.ctx t).lowestCause = some cause) :
    execAsyncTrapEntry t s
      = .next (s.setCtx t (((s.ctx t).takeCause cause).trapEntry cause (s.causeAddr t cause) true (s.ctx t).pc)) := by
  have due : s.trapDue t = true := by simp [State.trapDue, st, held, wait, outside, lowest]
  have pc : ((s.ctx t).takeCause cause).pc = (s.ctx t).pc := by rw [Ctx.takeCause_only]
  simp [execAsyncTrapEntry, due, lowest, st, pc]

/-! ### Wakes of a lock record (R265) -/

/-- What a wake of lock `key` with waiters `w` does to context `i` of an island. -/
def State.wakeLocker (island key : Nat) (w : BitVec 32) (s : State) (i : Nat) : State :=
  if w.getLsbD i ∧ (s.ctx (island * 32 + i)).wait = .lock key then
    s.setCtx (island * 32 + i) (s.ctx (island * 32 + i)).wake
  else s

/-- The same to the contexts in `l`, one after another. -/
def State.wakeLockers (island key : Nat) (w : BitVec 32) (l : List Nat) (s : State) : State :=
  l.foldl (State.wakeLocker island key w) s

section

variable (island key : Nat) (w : BitVec 32)

theorem State.wakeLocker_only (s : State) (i : Nat) :
    s.wakeLocker island key w i = { s with ctxs := (s.wakeLocker island key w i).ctxs } := by
  unfold State.wakeLocker
  split <;> rfl

theorem State.wakeLockers_only (l : List Nat) (s : State) :
    s.wakeLockers island key w l = { s with ctxs := (s.wakeLockers island key w l).ctxs } := by
  unfold State.wakeLockers
  induction l generalizing s with
  | nil => rfl
  | cons i l ih => rw [List.foldl_cons, ih, State.wakeLocker_only]

theorem State.wakeLocker_ctx_ne (s : State) (i : Nat) {v : Nat} (ne : v ≠ island * 32 + i) :
    (s.wakeLocker island key w i).ctx v = s.ctx v := by
  unfold State.wakeLocker
  split
  · exact State.ctx_setCtx_ne s _ ne
  · rfl

theorem State.wakeLockers_ctx_ne {l : List Nat} (s : State) {v : Nat} (out : ∀ i ∈ l, v ≠ island * 32 + i) :
    (s.wakeLockers island key w l).ctx v = s.ctx v := by
  induction l generalizing s with
  | nil => rfl
  | cons i l ih =>
    obtain ⟨first, rest⟩ := List.forall_mem_cons.mp out
    exact (ih (s.wakeLocker island key w i) rest).trans (s.wakeLocker_ctx_ne island key w i first)

/-- A context of the record that waits in it is woken. -/
theorem State.wakeLockers_ctx_waiter {l : List Nat} {s : State} {i : Nat} (once : l.Nodup) (mem : i ∈ l)
    (bit : w.getLsbD i = true) (waits : (s.ctx (island * 32 + i)).wait = .lock key) :
    (s.wakeLockers island key w l).ctx (island * 32 + i) = (s.ctx (island * 32 + i)).wake := by
  induction l generalizing s with
  | nil => simp at mem
  | cons j l ih =>
    obtain ⟨fresh, once⟩ := List.nodup_cons.mp once
    show ((s.wakeLocker island key w j).wakeLockers island key w l).ctx (island * 32 + i) = _
    by_cases same : i = j
    · subst same
      have out : ∀ k ∈ l, island * 32 + i ≠ island * 32 + k := fun k hk e => fresh (by rwa [show i = k by omega])
      rw [State.wakeLockers_ctx_ne island key w _ out]
      simp [State.wakeLocker, bit, waits]
    · have kept : (s.wakeLocker island key w j).ctx (island * 32 + i) = s.ctx (island * 32 + i) :=
        s.wakeLocker_ctx_ne island key w j (by omega)
      rw [ih once ((List.mem_cons.mp mem).resolve_left same) (by rw [kept, waits]), kept]

end

/-- The wake of a word whose record is the one entry of the island's table frees the record and wakes its waiters. -/
theorem execLockWake_record {s : State} {island key : Nat} {w : BitVec 32} (due : s.wakes.contains (island, key) = true)
    (table : s.sync.find? island = some [.lock key w]) : execLockWake island key s =
      .next (State.wakeLockers island key w (List.range 32)
        { s with wakes := s.wakes.erase (island, key), sync := s.sync.put island [] }) := by
  have entries : State.table { s with wakes := s.wakes.erase (island, key) } island = [.lock key w] := by
    simp [State.table, Map.getD, table]
  have found : State.findSync { s with wakes := s.wakes.erase (island, key) } island (isLock key) = some (.tab 0, .lock key w) := by
    simp [State.findSync, entries, isLock]
  have dropped : State.dropSync { s with wakes := s.wakes.erase (island, key) } island (.tab 0)
      = { s with wakes := s.wakes.erase (island, key), sync := s.sync.put island [] } := by
    simp [State.dropSync, entries]
  simp only [execLockWake, due, if_true, found, dropped]
  rfl

/-! ### Leaving groups, and the start of a thread (R131, R139, R417) -/

/-- Every context keeps its handler's address and its pending causes. -/
def TrapSetupKept (s t : State) : Prop := ∀ u, (t.ctx u).tvec = (s.ctx u).tvec ∧ (t.ctx u).pend = (s.ctx u).pend

theorem trapSetupKept_of_ctxs {s t : State} (h : t.ctxs = s.ctxs) : TrapSetupKept s t := fun u => by
  simp [State.ctx, h]

theorem TrapSetupKept.trans {s t u : State} (h : TrapSetupKept s t) (k : TrapSetupKept t u) : TrapSetupKept s u := fun v =>
  ⟨(k v).1.trans (h v).1, (k v).2.trans (h v).2⟩

theorem trapSetupKept_setCtx {s : State} {t : Nat} {c : Ctx} (tvec : c.tvec = (s.ctx t).tvec) (pend : c.pend = (s.ctx t).pend) :
    TrapSetupKept s (s.setCtx t c) := fun u => by
  by_cases same : u = t
  · subst same
    simp [tvec, pend]
  · rw [State.ctx_setCtx_ne s c same]
    exact ⟨rfl, rfl⟩

theorem trapSetupKept_foldl {α : Type} (f : State → α → State) (step : ∀ s a, TrapSetupKept s (f s a)) (l : List α)
    (s : State) : TrapSetupKept s (l.foldl f s) := by
  induction l generalizing s with
  | nil => exact fun _ => ⟨rfl, rfl⟩
  | cons a l ih => exact (step s a).trans (ih (f s a))

theorem State.putSpill_ctxs (s : State) (a v : Nat) : (s.putSpill a v).ctxs = s.ctxs := by
  unfold State.putSpill State.store
  repeat' split
  all_goals rfl

theorem State.putSync_ctxs (s : State) (isl : Nat) (p : Place) (e : SyncEntry) : (s.putSync isl p e).ctxs = s.ctxs := by
  cases p with
  | tab i => rfl
  | spill a => exact s.putSpill_ctxs a _

theorem State.dropSync_ctxs (s : State) (isl : Nat) (p : Place) : (s.dropSync isl p).ctxs = s.ctxs := by
  cases p with
  | tab i => rfl
  | spill a => exact s.putSpill_ctxs a _

theorem State.mendSync_ctxs (s : State) (p : Place) : (s.mendSync p).ctxs = s.ctxs := by
  cases p <;> rfl

theorem Ctx.released_trapSetup (c : Ctx) (g : Nat) : (c.released g).tvec = c.tvec ∧ (c.released g).pend = c.pend := by
  unfold Ctx.released
  split
  · rw [Ctx.retire_only]
    exact ⟨rfl, rfl⟩
  · split <;> exact ⟨rfl, rfl⟩

theorem State.releaseAll_kept (s : State) (isl g : Nat) (members : BitVec 32) :
    TrapSetupKept s (s.releaseAll isl g members) := by
  refine trapSetupKept_foldl _ (fun s i => ?_) _ s
  split
  · obtain ⟨tvec, pend⟩ := (s.ctx (isl * 32 + i)).released_trapSetup g
    exact trapSetupKept_setCtx tvec pend
  · exact trapSetupKept_of_ctxs rfl

theorem State.checkGroup_kept (s : State) (isl : Nat) (p : Place) (g : Nat) (m a : BitVec 32) :
    TrapSetupKept s (s.checkGroup isl p g m a) := by
  unfold State.checkGroup
  split
  · exact trapSetupKept_of_ctxs (s.dropSync_ctxs isl p)
  · split
    · exact (trapSetupKept_of_ctxs (s.putSync_ctxs isl p _)).trans (State.releaseAll_kept _ isl g m)
    · exact trapSetupKept_of_ctxs (s.putSync_ctxs isl p _)

theorem State.leaveGroup_kept (s : State) (t g : Nat) : TrapSetupKept s (s.leaveGroup t g) := by
  unfold State.leaveGroup
  dsimp only
  have left : TrapSetupKept s (s.setCtx t { s.ctx t with
      bf := if (s.ctx t).bf.names g then .none else (s.ctx t).bf, rn := if (s.ctx t).rn = some g then none else (s.ctx t).rn }) :=
    trapSetupKept_setCtx rfl rfl
  split
  · split
    · exact left.trans (trapSetupKept_of_ctxs (State.mendSync_ctxs _ _))
    · exact left.trans (State.checkGroup_kept _ _ _ _ _ _)
  · exact left

theorem State.leaveAll_kept (s : State) (t : Nat) : TrapSetupKept s (s.leaveAll t) :=
  trapSetupKept_foldl _ (fun s g => s.leaveGroup_kept t g) _ s

/-- A thread of no group has none to leave. -/
theorem State.leaveAll_of_none {s : State} {t : Nat} (h : s.groupsOf t = []) : s.leaveAll t = s := by
  unfold State.leaveAll
  rw [h]
  rfl

/-- The groups of a thread are read from sync tables and spill records, and from no context. -/
theorem State.groupsOf_setCtx (s : State) (t u : Nat) (c : Ctx) : (s.setCtx t c).groupsOf u = s.groupsOf u := rfl

section

variable (c : Ctx) (tid : Nat) (entry arg parent : Word) (pri : BitVec 2) (fpctl : BitVec 3) (prv : Bool)

/-- The registers of a thread that starts: its argument, its parent's id and zeros (R131). -/
theorem Ctx.init_get_arg : (c.init tid entry arg parent pri fpctl prv).get 1#5 = arg := rfl
theorem Ctx.init_get_parent : (c.init tid entry arg parent pri fpctl prv).get 2#5 = parent := rfl

theorem Ctx.init_prv : (c.init tid entry arg parent pri fpctl prv).prv = prv := by
  show (statusOf false false false prv).getLsbD 0 = prv
  cases prv <;> decide

end

/-! ### INSTRUCTION_FETCH -/

theorem execInstructionFetch_of_next {s u : State} {core : Nat} (h : s.fetchNext core = some u) :
    execInstructionFetch core s = .next u := by
  simp [execInstructionFetch, h]

/-- No context is eligible, and the core does nothing. -/
theorem execInstructionFetch_idle {s : State} {core : Nat} (h : s.eligibleOn core = []) :
    execInstructionFetch core s = .next s := by
  simp [execInstructionFetch, State.fetchNext, State.choose, h]

/-! ### The control block (R417) -/

/-- START of a HALTED context makes it a thread with the control block's PC, argument, handler and privilege. -/
theorem ctx_ccmdStart {s : State} {core x : Nat} (halted : (s.ctx (core * 8 + x)).st = .halted) :
    ∃ c : Ctx, c.tvec = (s.core core).ctvec ∧ c.pend = 0
      ∧ (s.ccmdStart core x).ctx (core * 8 + x)
        = c.init (core * 8 + x) (s.core core).cpc (s.core core).carg (-1) 0 0 (s.core core).cprv := by
  unfold State.ccmdStart
  dsimp only
  rw [if_pos halted]
  unfold State.initCtx
  dsimp only
  refine ⟨_, ?_, ?_, State.ctx_setCtx_same _ _ _⟩
  · rw [(State.leaveAll_kept _ _ _).1]
    simp
  · rw [(State.leaveAll_kept _ _ _).2]
    simp

/-- START of a context of no group changes that context alone. -/
theorem ccmdStart_frame {s : State} {core x : Nat} (halted : (s.ctx (core * 8 + x)).st = .halted)
    (alone : s.groupsOf (core * 8 + x) = []) : SameMem s (s.ccmdStart core x)
      ∧ ∀ u, u ≠ core * 8 + x → (s.ccmdStart core x).ctx u = s.ctx u := by
  unfold State.ccmdStart
  dsimp only
  rw [if_pos halted]
  unfold State.initCtx
  rw [State.leaveAll_of_none (by rw [State.groupsOf_setCtx, alone])]
  refine ⟨fun _ => rfl, fun u ne => ?_⟩
  rw [State.ctx_setCtx_ne _ _ ne, State.ctx_setCtx_ne _ _ ne]

/-- RELEASE of a HALTED context whose slots are idle frees it and discards its pending causes (R133). -/
theorem ctx_ccmdRelease {s : State} {core x : Nat} (halted : (s.ctx (core * 8 + x)).st = .halted)
    (idle : (s.ctx (core * 8 + x)).slotsIdle = true) :
    ((s.ccmdRelease core x).ctx (core * 8 + x)).st = .free ∧ ((s.ccmdRelease core x).ctx (core * 8 + x)).pend = 0 := by
  unfold State.ccmdRelease State.release State.retireThread
  dsimp only
  rw [if_pos halted, if_pos idle, State.ctx_setCtx_same]
  exact ⟨rfl, rfl⟩

/-- STOP of a RUNNABLE context at a boundary halts it at once. -/
theorem ccmdStop_boundary {s : State} {core x : Nat} (runs : (s.ctx (core * 8 + x)).st = .runnable)
    (held : (s.ctx (core * 8 + x)).held = none) (wait : (s.ctx (core * 8 + x)).wait = .none) :
    s.ccmdStop core x = s.setCtx (core * 8 + x) { s.ctx (core * 8 + x) with st := .halted, waited := 0 } := by
  simp [State.ccmdStop, State.haltCtx, runs, held, wait]

/-- A gated core has no eligible context (R368). -/
theorem eligibleOn_gated {s : State} {core : Nat} (h : (s.core core).gated = true) : s.eligibleOn core = [] := by
  unfold State.eligibleOn
  rw [List.filter_eq_nil_iff]
  intro x member
  have own : coreOf (core * 8 + x) = core := by
    have := List.mem_range.mp member
    unfold coreOf
    omega
  simp [State.eligible, own, h]

end Sys2Proof.Machine
end

section
/-! PROOFS. The statements about the sequential machine. -/

namespace Sys2Proof

open Sys2Proof.Machine

/-- Settles O8: a trap entry inside a handler is a halt with sy.tcause bit 9, and the boundary leaves the rest. -/
theorem nestedTrapsHalt : Obligations.NestedTrapsHalt := by
  intro s cause addr inside
  refine ⟨_, rfl, alone_setMe _ _, ?_, ?_⟩ <;> rw [State.me_setMe, Ctx.raise, Ctx.trapEntry_nested inside]

/-- Settles O9: a good target raises nothing, so ERET is the return of R23 followed by a boundary. -/
theorem returnFromTrap : Obligations.ReturnFromTrap := by
  intro s prv target
  refine ⟨s.setMe s.me.trapReturn, ?_, alone_setMe _ _, ?_, ?_⟩
  · simp [exec_eret, execEret, prv, targetFault_of_good target]
  · rw [State.me_setMe]
    exact Ctx.boundary_at _ _ rfl rfl rfl
  · rw [State.me_setMe, Ctx.trapReturn, Ctx.jumped, Ctx.boundary_only]
    rfl

/-- Settles O10: each privileged form is an illegal-instruction trap, by the branch on PRV that it makes first. -/
theorem privilegeTraps : Obligations.PrivilegeTraps := by
  intro s d a sem x r prv outside
  have traps (i : Instr) (run : exec i s = illegal s) : ∃ t, exec i s = .next t
      ∧ Trapped 1 (BitVec.ofNat 64 (s.readMem s.me.pc.toNat 4)) s.me.pc s t := by
    rw [run]
    exact illegal_spec outside
  refine ⟨traps _ ?_, traps _ ?_, traps _ ?_, traps _ ?_, traps _ ?_, fun low high => ⟨traps _ ?_, traps _ ?_⟩, traps _ ?_,
    fun changes => traps _ ?_⟩
  · simp [exec_eret, execEret, prv]
  · simp [exec_tladj, execTladj, prv]
  · simp [exec_semset, execSemset, prv]
  · simp [exec_ctxsave, execCtxsave, moveChecks, prv]
  · simp [exec_ctxload, execCtxload, moveChecks, prv]
  · exact execSysr_denied d (by simp [sysPrv, low, high]) prv
  · exact execSysw_denied a (.inl (by simp [sysPrv, low, high])) prv
  · exact execSysw_denied a (.inr rfl) prv
  · simp [exec_sysw, execSysw, State.sysreg, sysPrv, sysStatus, prv, changes]

/-- Settles O11, register by register: SYSR writes gd with what `State.sysreg` gives, or traps where that is none. -/
theorem systemRegisterReads : Obligations.SystemRegisterReads := by
  intro s d reads
  have anyMode (r : BitVec 11) (v : Word) (value : s.sysreg r.toNat = some v) (reg : sysPrv r.toNat = false) : reads r v :=
    sysr_reads d value (by simp [reg])
  have privileged (prv : s.me.prv = true) (r : BitVec 11) (v : Word) (value : s.sysreg r.toNat = some v) : reads r v :=
    sysr_reads d value (fun _ => prv)
  have counter (v : Word) (value : s.pancnt (coreOf s.cur) = v) : reads 0x010#11 v := anyMode _ _ (congrArg some value) rfl
  refine ⟨anyMode _ _ rfl rfl, anyMode _ _ rfl rfl, anyMode _ _ rfl rfl, anyMode _ _ rfl rfl, anyMode _ _ rfl rfl,
    anyMode _ _ (congrArg (some <| BitVec.ofNat 64 ·) (popc_eq_countP s.grant)) rfl, anyMode _ _ rfl rfl, anyMode _ _ rfl rfl,
    anyMode _ _ rfl rfl, anyMode _ _ rfl rfl,
    fun prv => ⟨privileged prv _ _ rfl, privileged prv _ _ rfl, privileged prv _ _ rfl, privileged prv _ _ rfl⟩,
    ⟨_, anyMode _ _ rfl rfl, fun i h => getLsbD_syReady s _ h⟩, ⟨fun unset => counter _ (pancnt_none unset), ?_⟩, ?_⟩
  · intro p i x window pan
    have value := pancnt_some window pan
    refine ⟨?_, ?_, ?_, ?_⟩
    all_goals
      rintro rfl
      exact counter _ value
  · intro n missing outside
    rw [exec_sysr, execSysr_missing d (sysreg_missing s (by simpa using missing))]
    exact illegal_spec outside

/-- Settles O12, register by register, by the equation of SYSW for each. -/
theorem systemRegisterWrites : Obligations.SystemRegisterWrites := by
  intro s a v sets
  refine ⟨fun allowed => ?_, ?_, fun valid => ?_, fun reserved outside => ?_, ?_, fun n member => ?_,
    fun prv => ⟨?_, ?_, ?_, ?_, ?_⟩⟩
  · exact sysw_spec (execSysw_status s a allowed) rfl rfl
  · exact sysw_spec (execSysw_pri s a) rfl rfl
  · exact sysw_spec ((execSysw_fpctl s a).trans (if_neg (Nat.not_le.mpr valid))) rfl rfl
  · rw [exec_sysw, execSysw_fpctl, if_pos reserved]
    exact illegal_spec outside
  · exact sysw_spec (execSysw_fflags s a) rfl rfl
  · exact sysw_spec (execSysw_readOnly s a member) rfl rfl
  · exact sysw_spec (execSysw_tvec a prv) rfl rfl
  · exact sysw_spec (execSysw_epc a prv) rfl rfl
  · exact sysw_spec (execSysw_tcause a prv) rfl rfl
  · exact sysw_spec (execSysw_taddr a prv) rfl rfl
  · obtain ⟨t, next, passed⟩ := retire_spec 1 { s with gcyc := v }
    have whole := passed.1.1
    exact ⟨t, by rw [exec_sysw, execSysw_gcyc a prv, next], by rw [whole], passed⟩

/-- Settles O47, event by event: the core's fetch, the boost, trap entry, retry, lock wake, control block and power gate. -/
theorem coreEvents : Obligations.CoreEvents := by
  intro s
  refine ⟨fun core x p chosen => ⟨?_, ?_⟩, fun core idle => execInstructionFetch_idle idle, ?_, ?_, ?_, ?_, ?_, ?_, ?_⟩
  · intro i n fetched idle
    obtain ⟨u, next, cur, me, mem, others⟩ := fetchNext_run chosen idle fetched
    exact ⟨u, execInstructionFetch_of_next next, mem, cur, me, others⟩
  · intro cause a fetched idle outside
    obtain ⟨u, next, cur, me, mem, -⟩ := fetchNext_trap chosen idle fetched
    have entry : ((s.issuing (core * 8 + x)).it && !false) = false := by
      rw [show (s.issuing (core * 8 + x)).it = false from outside]
      rfl
    refine ⟨u, execInstructionFetch_of_next next, mem, cur, ?_⟩
    rw [me, Ctx.raise, Ctx.trapEntry_enters entry]
    exact ⟨rfl, rfl, rfl, rfl⟩
  · intro t waited runs ready
    simp [exec_contextBoost, execContextBoost, waited, runs, ready]
  · intro t cause c st held wait stop outside lowest
    refine ⟨_, execAsyncTrapEntry_taken st held wait outside lowest, fun _ => rfl, fun u ne => State.ctx_setCtx_ne s _ ne, ?_⟩
    rw [State.ctx_setCtx_same, Ctx.trapEntry_enters (Bool.and_false _), Ctx.takeCause_only]
    refine ⟨rfl, ?_, rfl, rfl, rfl, fun ne => Ctx.takeCause_pend ne, fun r => rfl⟩
    simp [Nat.add_comm]
  · intro q r found refused
    simp [exec_ldfRetry, execLdfRetry, Map.adjust, found, refused]
  · intro isl key w due table
    refine ⟨_, execLockWake_record due table, ?_, ?_, ?_, ?_⟩
    · rw [State.wakeLockers_only]
      exact fun _ => rfl
    · rw [State.wakeLockers_only]
    · rw [State.wakeLockers_only]
      exact Map.find?_put_same _ _ _
    · intro i bound bit waits
      exact State.wakeLockers_ctx_waiter isl key w List.nodup_range (List.mem_range.mpr bound) bit waits
  · intro core x bound tid k
    refine ⟨fun halted => ?_, fun halted idle => ?_, fun runs held wait => ?_⟩
    · obtain ⟨c, tvec, pend, started⟩ := ctx_ccmdStart halted
      refine ⟨s.ccmdStart core x, by rw [exec_ccmdStart, execCcmdStart, Nat.mod_eq_of_lt bound], ?_⟩
      rw [started]
      exact ⟨rfl, rfl, Ctx.init_get_arg .., Ctx.init_get_parent .., Ctx.init_prv .., tvec, by simp [Ctx.init, pend],
        ccmdStart_frame halted⟩
    · exact ⟨s.ccmdRelease core x, by rw [exec_ccmdRelease, execCcmdRelease, Nat.mod_eq_of_lt bound],
        ctx_ccmdRelease halted idle⟩
    · rw [exec_ccmdStop, execCcmdStop, Nat.mod_eq_of_lt bound, ccmdStop_boundary runs held wait]
  · intro core quiet
    refine ⟨s.setCore core { s.core core with gated := true }, ?_, State.core_setCore_same s core _, rfl, fun x => ?_⟩
    · simp [exec_corePowerGated, execCorePowerGated, quiet]
    · rw [eligibleOn_gated (by rw [State.core_setCore_same])]
      rfl
  · exact fun core => ⟨_, rfl, State.core_setCore_same s core _, rfl⟩

/-- Settles O54: the values are those of the reset state's definition; the access tables grant by their entry 0. -/
theorem resetValues : Obligations.ResetValues := by
  refine ⟨fun t => ⟨rfl, get_ctxReset t, fun v => Vector.getElem_replicate v.toFin.isLt,
      fun h => congrArg Handle.valid (Vector.getElem_replicate h.toFin.isLt), fun d => Vector.getElem_replicate d.toFin.isLt,
      rfl, prv_ctxReset t, it_ctxReset t, rfl, rfl, rfl, rfl, rfl, rfl, rfl⟩,
    fun _ _ => rfl, fun _ _ => rfl, fun _ _ _ => rfl, fun _ => rfl, isBad_reset, fun t m a address master k =>
      grants_reset t k address master,
    rfl, rfl, rfl, rfl, rfl, rfl, rfl, fun _ => rfl, fun _ => ⟨rfl, rfl⟩, rfl⟩

/-- Settles O57: the turn is the picked core's, whose fetch makes the chosen context current with its instruction held. -/
theorem stepRunsDecoded : Obligations.StepRunsDecoded := by
  intro s core x p i tid pc n quiet agents picked chosen idle target window grant good decoded
  have fetched := fetchAt_run target grant rfl window good decoded
  obtain ⟨u, next, cur, me, mem, others⟩ := fetchNext_run chosen idle fetched
  refine ⟨u, cur, me, mem, others, u.turnFor_only i, ?_⟩
  have turn := turn_of_agents quiet agents picked
  have run : s.turn.run s = exec i (u.turnFor i) := by
    rw [turn]
    exact runCore_of_fetch next (by rw [me])
  exact congrArg (afterwards s (s.turn.bystanders s)) run

end Sys2Proof
end

section
/-! SUPPORT. The fields of a word that is put together from fields, and the fields from which a word is put together (R28, R29, R40,
R94, R285). -/

namespace Sys2Proof

/-! ### Joining fields -/

/-- `hi` above `lo`, at a width of its own. The widths of `hi ++ lo` add up to a number, under which simp does not find a lemma
about `hi ++ lo` at widths that vary; it finds one about `joined`. -/
def joined {k m n : Nat} (h : k = m + n) (hi : BitVec m) (lo : BitVec n) : BitVec k := (hi ++ lo).cast h.symm

theorem append_eq_joined {m n : Nat} (hi : BitVec m) (lo : BitVec n) : hi.append lo = joined rfl hi lo := rfl

section

variable {k m n : Nat} (h : k = m + n) (hi : BitVec m) (lo : BitVec n)

@[simp] theorem extractLsb'_joined_low {s l : Nat} (le : s + l ≤ n) :
    (joined h hi lo).extractLsb' s l = lo.extractLsb' s l := by
  subst h
  exact BitVec.extractLsb'_append_eq_of_add_le le

@[simp] theorem extractLsb'_joined_high {s l : Nat} (le : n ≤ s) :
    (joined h hi lo).extractLsb' s l = hi.extractLsb' (s - n) l := by
  subst h
  exact BitVec.extractLsb'_append_eq_of_le le

@[simp] theorem getElem_joined {i : Nat} (lt : i < k) :
    (joined h hi lo)[i] = if i < n then lo.getLsbD i else hi.getLsbD (i - n) := by
  subst h
  exact (BitVec.getLsbD_eq_getElem lt).symm.trans BitVec.getLsbD_append

/-- A vector is joined of two parts exactly where these are its high and its low part. -/
theorem eq_joined_iff (x : BitVec k) : x = joined h hi lo ↔ x.extractLsb' n m = hi ∧ x.extractLsb' 0 n = lo := by
  constructor
  · rintro rfl
    simp
  · rintro ⟨rfl, rfl⟩
    subst h
    refine Eq.symm ((BitVec.extractLsb'_append_extractLsb'_eq_extractLsb' (Nat.zero_add n).symm).trans ?_)
    exact BitVec.extractLsb'_eq_self

end

theorem extractLsb'_extractLsb' {w s n t m : Nat} (x : BitVec w) (h : t + m ≤ n) :
    (x.extractLsb' s n).extractLsb' t m = x.extractLsb' (s + t) m := by
  ext i hi
  simp [Nat.add_assoc, show t + i < n by omega]

theorem extractLsb'_one {w : Nat} (x : BitVec w) (k : Nat) : x.extractLsb' k 1 = BitVec.ofBool (x.getLsbD k) := by
  ext i hi
  obtain rfl : i = 0 := by omega
  simp

theorem eq_ofNat_iff {n : Nat} (x : BitVec n) {k : Nat} (lt : k < 2 ^ n) : x = BitVec.ofNat n k ↔ x.toNat = k := by
  rw [← BitVec.toNat_inj, BitVec.toNat_ofNat, Nat.mod_eq_of_lt lt]

/-- fn of the integer group is a code of six bits below five bits that are 0 (R38). -/
theorem fn_eq_ofNat_iff {fn : BitVec 11} {c : Nat} (lt : c < 64) :
    fn = BitVec.ofNat 11 c ↔ fn.extractLsb' 6 5 = 0#5 ∧ (fn.extractLsb' 0 6).toNat = c := by
  have bound := fn.isLt
  simp only [← BitVec.toNat_inj, BitVec.toNat_ofNat, BitVec.extractLsb'_toNat, Nat.shiftRight_eq_div_pow]
  omega

/-- fn of a VGET, whose seven high bits are 0 (R41). -/
theorem fn_eq_of_vget {fn : BitVec 11} (high : fn.extractLsb' 4 7 = 0#7) :
    fn = 0#7 ++ BitVec.ofBool (fn.getLsbD 3) ++ fn.extractLsb' 0 3 := by
  simp [HAppend.hAppend, ↓append_eq_joined, eq_joined_iff, extractLsb'_extractLsb', extractLsb'_one, high]

/-! ### The layouts of R28 -/

section

variable (m : BitVec 6) (d a b : GReg) (fn : BitVec 11) (imm : BitVec 16) (long : BitVec 21)

@[simp] theorem encSY_eq_encRR : encSY m d a b fn = encRR m d a b fn := rfl

@[simp] theorem fMaj_encRR : fMaj (encRR m d a b fn) = m := by simp [fMaj, encRR, HAppend.hAppend, ↓append_eq_joined]
@[simp] theorem fD_encRR : fD (encRR m d a b fn) = d := by simp [fD, encRR, HAppend.hAppend, ↓append_eq_joined]
@[simp] theorem fA_encRR : fA (encRR m d a b fn) = a := by simp [fA, encRR, HAppend.hAppend, ↓append_eq_joined]
@[simp] theorem fB_encRR : fB (encRR m d a b fn) = b := by simp [fB, encRR, HAppend.hAppend, ↓append_eq_joined]
@[simp] theorem fFn_encRR : fFn (encRR m d a b fn) = fn := by simp [fFn, encRR, HAppend.hAppend, ↓append_eq_joined]

@[simp] theorem fMaj_encRI : fMaj (encRI m d a imm) = m := by simp [fMaj, encRI, HAppend.hAppend, ↓append_eq_joined]
@[simp] theorem fD_encRI : fD (encRI m d a imm) = d := by simp [fD, encRI, HAppend.hAppend, ↓append_eq_joined]
@[simp] theorem fA_encRI : fA (encRI m d a imm) = a := by simp [fA, encRI, HAppend.hAppend, ↓append_eq_joined]
@[simp] theorem fImm_encRI : fImm (encRI m d a imm) = imm := by simp [fImm, encRI, HAppend.hAppend, ↓append_eq_joined]

@[simp] theorem fMaj_encJL : fMaj (encJL m d long) = m := by simp [fMaj, encJL, HAppend.hAppend, ↓append_eq_joined]
@[simp] theorem fD_encJL : fD (encJL m d long) = d := by simp [fD, encJL, HAppend.hAppend, ↓append_eq_joined]
@[simp] theorem fImm21_encJL : fImm21 (encJL m d long) = long := by simp [fImm21, encJL, HAppend.hAppend, ↓append_eq_joined]

@[simp] theorem encRR_eq_iff (w : BitVec 32) :
    encRR m d a b fn = w ↔ fMaj w = m ∧ fD w = d ∧ fA w = a ∧ fB w = b ∧ fFn w = fn := by
  rw [eq_comm]
  simp [encRR, HAppend.hAppend, ↓append_eq_joined, eq_joined_iff, extractLsb'_extractLsb', fMaj, fD, fA, fB, fFn, and_assoc]

@[simp] theorem encRI_eq_iff (w : BitVec 32) : encRI m d a imm = w ↔ fMaj w = m ∧ fD w = d ∧ fA w = a ∧ fImm w = imm := by
  rw [eq_comm]
  simp [encRI, HAppend.hAppend, ↓append_eq_joined, eq_joined_iff, extractLsb'_extractLsb', fMaj, fD, fA, fImm, and_assoc]

@[simp] theorem encJL_eq_iff (w : BitVec 32) : encJL m d long = w ↔ fMaj w = m ∧ fD w = d ∧ fImm21 w = long := by
  rw [eq_comm]
  simp [encJL, HAppend.hAppend, ↓append_eq_joined, eq_joined_iff, extractLsb'_extractLsb', fMaj, fD, fImm21, and_assoc]

end

/-! ### Registers of the v and h files (R29), and fn of AMO and CAS (R40) -/

@[simp] theorem vnum_fv (v : VNum) : vnum (fv v) = v := by simp [vnum, fv]

@[simp] theorem vhi_fv (v : VNum) : vhi (fv v) = false := by simp [vhi, fv]

theorem eq_fv_vnum_iff (f : GReg) : f = fv (vnum f) ↔ vhi f = false := by
  revert f
  decide

section

variable (op : BitVec 4) (aq rl : Bool) (s : BitVec 3) (w : Bool)

@[simp] theorem op_amoFn : (amoFn op aq rl s w).extractLsb' 7 4 = op := by simp [amoFn, HAppend.hAppend, ↓append_eq_joined]
@[simp] theorem aq_amoFn : (amoFn op aq rl s w)[6] = aq := by simp [amoFn, HAppend.hAppend, ↓append_eq_joined]
@[simp] theorem rl_amoFn : (amoFn op aq rl s w)[5] = rl := by simp [amoFn, HAppend.hAppend, ↓append_eq_joined]
@[simp] theorem scope_amoFn : (amoFn op aq rl s w).extractLsb' 2 3 = s := by simp [amoFn, HAppend.hAppend, ↓append_eq_joined]
@[simp] theorem word_amoFn : (amoFn op aq rl s w)[1] = w := by simp [amoFn, HAppend.hAppend, ↓append_eq_joined]
@[simp] theorem low_amoFn : (amoFn op aq rl s w)[0] = false := by simp [amoFn, HAppend.hAppend, ↓append_eq_joined]

end

/-! ### Lane-operation words (R94) -/

theorem halves_append (x : BitVec 64) : x.extractLsb' 32 32 ++ x.extractLsb' 0 32 = x := by
  rw [eq_comm]
  simp [HAppend.hAppend, ↓append_eq_joined, eq_joined_iff]

theorem LOp.ofCode_code (o : LOp) : LOp.ofCode o.code = some o := by cases o <;> decide

theorem code_laneBits (o : LOp) (w : LaneW) : (laneBits o w).extractLsb' 56 8 = o.code := by
  simp [laneBits, HAppend.hAppend, ↓append_eq_joined]

theorem laneFields_laneBits (o : LOp) (w : LaneW) : laneFields (laneBits o w) = w := by
  simp [laneFields, laneBits, HAppend.hAppend, ↓append_eq_joined]

theorem laneBits_laneFields {o : LOp} {x : BitVec 64} (code : o.code = x.extractLsb' 56 8) : laneBits o (laneFields x) = x := by
  rw [eq_comm]
  simp [laneBits, laneFields, code, HAppend.hAppend, ↓append_eq_joined, eq_joined_iff, extractLsb'_extractLsb']

/-- A word has lane operation `o` with fields `w` exactly where it is their 64 bits, and they are legal (R96, R97, R102). -/
theorem laneWord_eq_some_iff {vop : Bool} {x : BitVec 64} {o : LOp} {w : LaneW} :
    laneWord vop x = some (o, w) ↔ laneBits o w = x ∧ laneLegal vop o w = true := by
  constructor
  · intro found
    unfold laneWord at found
    split at found
    · next p coded =>
      split at found
      · next legal =>
        cases found
        have code : o.code = x.extractLsb' 56 8 := by simpa using List.find?_some coded
        exact ⟨laneBits_laneFields code, legal⟩
      · cases found
    · cases found
  · rintro ⟨rfl, legal⟩
    simp [laneWord, code_laneBits, LOp.ofCode_code, laneFields_laneBits, legal]

section

variable (o : LOp) (site : LaneAt) (w : LaneW)

theorem wellFormed_lane : wellFormed (o.instr site w) = laneAtOk o site w := by cases o <;> rfl
theorem encode_lane : encode (o.instr site w) = encLane o site w := by cases o <;> rfl
theorem asDecoded_lane : (o.instr site w).asDecoded = o.instr site w := by cases o <;> rfl

end

/-! ### Stream commands (R285) -/

/-- The 128 bits of a stream command. -/
def cmdBits (code : BitVec 8) (tgt : BitVec 4) (h : CmdHdr) (fields : BitVec 104) : BitVec 128 :=
  code ++ h.wait ++ BitVec.ofBool h.seten ++ h.setslot ++ tgt ++ fields

section

variable (code : BitVec 8) (tgt : BitVec 4) (h : CmdHdr) (fields : BitVec 104)

@[simp] theorem code_cmdBits : (cmdBits code tgt h fields).extractLsb' 120 8 = code := by
  simp [cmdBits, HAppend.hAppend, ↓append_eq_joined]

@[simp] theorem tgt_cmdBits : (cmdBits code tgt h fields).extractLsb' 104 4 = tgt := by
  simp [cmdBits, HAppend.hAppend, ↓append_eq_joined]

@[simp] theorem cmdHdr_cmdBits : cmdHdr (cmdBits code tgt h fields) = h := by
  simp [cmdHdr, cmdBits, HAppend.hAppend, ↓append_eq_joined]

@[simp] theorem extractLsb'_cmdBits {s l : Nat} (le : s + l ≤ 104) :
    (cmdBits code tgt h fields).extractLsb' s l = fields.extractLsb' s l := by
  simp [cmdBits, HAppend.hAppend, ↓append_eq_joined, le]

@[simp] theorem getElem_cmdBits {s : Nat} (lt : s < 104) (le : s < 128) : (cmdBits code tgt h fields)[s] = fields[s] := by
  simp [cmdBits, HAppend.hAppend, ↓append_eq_joined, lt]

theorem cmdBits_eq_iff (x : BitVec 128) : cmdBits code tgt h fields = x ↔
    x.extractLsb' 120 8 = code ∧ x.extractLsb' 104 4 = tgt ∧ cmdHdr x = h ∧ x.extractLsb' 0 104 = fields := by
  constructor
  · rintro rfl
    simp
  · rintro ⟨rfl, rfl, rfl, rfl⟩
    rw [eq_comm]
    simp [cmdBits, cmdHdr, HAppend.hAppend, ↓append_eq_joined, eq_joined_iff, extractLsb'_extractLsb', extractLsb'_one]

end

theorem quarters_append (x : BitVec 128) :
    x.extractLsb' 96 32 ++ x.extractLsb' 64 32 ++ x.extractLsb' 32 32 ++ x.extractLsb' 0 32 = x := by
  rw [eq_comm]
  simp [HAppend.hAppend, ↓append_eq_joined, eq_joined_iff, extractLsb'_extractLsb']

/-- The words of an ISSUE of command `x` (R25, R32). -/
def issueWords (g0 g1 g2 : GReg) (x : BitVec 128) : List (BitVec 32) :=
  [encRR 0x2D#6 g0 g1 g2 0#11, x.extractLsb' 96 32, x.extractLsb' 64 32, x.extractLsb' 32 32, x.extractLsb' 0 32]

theorem encCmd_issue (g0 g1 g2 : GReg) (code : BitVec 8) (tgt : BitVec 4) (h : CmdHdr) (fields : BitVec 104) :
    encCmd (.issue g0 g1 g2) code tgt h fields = some (issueWords g0 g1 g2 (cmdBits code tgt h fields)) := rfl

@[simp] theorem issueWords_inj (g0 g1 g2 : GReg) (x y : BitVec 128) :
    issueWords g0 g1 g2 x = issueWords g0 g1 g2 y ↔ x = y := by
  refine ⟨fun same => ?_, fun same => by rw [same]⟩
  simp only [issueWords, List.cons.injEq, true_and, and_true] at same
  obtain ⟨q3, q2, q1, q0⟩ := same
  rw [← quarters_append x, q3, q2, q1, q0, quarters_append]

end Sys2Proof
end

section
/-! SUPPORT. Decoding gives back what was encoded (R31 to R42, R94, R285). -/

namespace Sys2Proof

/-- An instruction is an event and has no words, or it has words from which the decoder reads it back where it is well formed,
whatever follows them. -/
def Coded (i : Instr) : Prop :=
  (i.isEvent = true ∧ encode i = none)
    ∨ ∃ ws, encode i = some ws ∧ (wellFormed i = true → ∀ rest, decode (ws ++ rest) = .ok i.asDecoded)

/-! ### The decoder by the number of words (R25) -/

theorem decode_one {w : BitVec 32} (short : fMaj w ≠ 0x21#6 ∧ fMaj w ≠ 0x2D#6) (rest : List (BitVec 32)) :
    decode (w :: rest) = decodeOne w := by
  obtain ⟨noVop, noIssue⟩ := short
  have vop : (fMaj w).toNat ≠ 0x21 := fun e => noVop (BitVec.eq_of_toNat_eq e)
  have issue : (fMaj w).toNat ≠ 0x2D := fun e => noIssue (BitVec.eq_of_toNat_eq e)
  simp [decode, vop, issue]

theorem decode_vop {w : BitVec 32} (maj : fMaj w = 0x21#6) (hi lo : BitVec 32) (rest : List (BitVec 32)) :
    decode (w :: hi :: lo :: rest) = decodeVop w hi lo := by
  simp [decode, maj]

theorem decode_issue {w : BitVec 32} (maj : fMaj w = 0x2D#6) (w3 w2 w1 w0 : BitVec 32) (rest : List (BitVec 32)) :
    decode (w :: w3 :: w2 :: w1 :: w0 :: rest) = decodeIssue w w3 w2 w1 w0 := by
  simp [decode, maj]

/-! ### The decoder of one word, by its major opcode (R35, R36) -/

section

variable {w : BitVec 32}

theorem decodeOne_int (maj : fMaj w = 0x01#6) : decodeOne w = decodeInt w := by simp [decodeOne, maj]
theorem decodeOne_sync (maj : fMaj w = 0x27#6) : decodeOne w = decodeSync w := by simp [decodeOne, maj]
theorem decodeOne_amo (maj : fMaj w = 0x28#6) : decodeOne w = decodeAmo w := by simp [decodeOne, maj]
theorem decodeOne_cas (maj : fMaj w = 0x29#6) : decodeOne w = decodeCas w := by simp [decodeOne, maj]
theorem decodeOne_move (maj : fMaj w = 0x20#6) : decodeOne w = decodeMove w := by simp [decodeOne, maj]
theorem decodeOne_thread (maj : fMaj w = 0x22#6) : decodeOne w = decodeThread w := by simp [decodeOne, maj]
theorem decodeOne_channel (maj : fMaj w = 0x23#6) : decodeOne w = decodeChannel w := by simp [decodeOne, maj]
theorem decodeOne_group (maj : fMaj w = 0x24#6) : decodeOne w = decodeGroup w := by simp [decodeOne, maj]
theorem decodeOne_launch (maj : fMaj w = 0x25#6) : decodeOne w = decodeLaunch w := by simp [decodeOne, maj]
theorem decodeOne_scope (maj : fMaj w = 0x26#6) : decodeOne w = decodeScope w := by simp [decodeOne, maj]
theorem decodeOne_lock (maj : fMaj w = 0x2a#6) : decodeOne w = decodeLock w := by simp [decodeOne, maj]
theorem decodeOne_fence (maj : fMaj w = 0x2b#6) : decodeOne w = decodeFence w := by simp [decodeOne, maj]
theorem decodeOne_crystal (maj : fMaj w = 0x2c#6) : decodeOne w = decodeCrystal w := by simp [decodeOne, maj]
theorem decodeOne_sem (maj : fMaj w = 0x2e#6) : decodeOne w = decodeSem w := by simp [decodeOne, maj]
theorem decodeOne_ring (maj : fMaj w = 0x2f#6) : decodeOne w = decodeRing w := by simp [decodeOne, maj]
theorem decodeOne_slot (maj : fMaj w = 0x30#6) : decodeOne w = decodeSlot w := by simp [decodeOne, maj]
theorem decodeOne_system (maj : fMaj w = 0x31#6) : decodeOne w = decodeSystem w := by simp [decodeOne, maj]
theorem decodeOne_context (maj : fMaj w = 0x32#6) : decodeOne w = decodeContext w := by simp [decodeOne, maj]

end

/-! ### Instructions of one word -/

section

variable {i : Instr} {m : BitVec 6} {d a b : GReg}

theorem coded_rr {fn : BitVec 11} {f : BitVec 32 → Decoded} (route : ∀ {w}, fMaj w = m → decodeOne w = f w)
    (enc : encode i = some [encRR m d a b fn]) (short : m ≠ 0x21#6 ∧ m ≠ 0x2D#6)
    (dec : wellFormed i = true → f (encRR m d a b fn) = .ok i.asDecoded) : Coded i :=
  .inr ⟨_, enc, fun ok rest =>
    (decode_one (by simpa using short) rest).trans ((route (fMaj_encRR ..)).trans (dec ok))⟩

theorem coded_ri {imm : BitVec 16} (enc : encode i = some [encRI m d a imm]) (short : m ≠ 0x21#6 ∧ m ≠ 0x2D#6)
    (dec : decodeOne (encRI m d a imm) = .ok i.asDecoded) : Coded i :=
  .inr ⟨_, enc, fun _ rest => (decode_one (by simpa using short) rest).trans dec⟩

theorem coded_jl {imm : BitVec 21} (enc : encode i = some [encJL m d imm]) (short : m ≠ 0x21#6 ∧ m ≠ 0x2D#6)
    (dec : decodeOne (encJL m d imm) = .ok i.asDecoded) : Coded i :=
  .inr ⟨_, enc, fun _ rest => (decode_one (by simpa using short) rest).trans dec⟩

end

/-! ### Lane operations and stream commands -/

theorem decode_laneBits {o : LOp} {w : LaneW} (legal : laneLegal true o w = true) (vd va vb vc : VNum)
    (rest : List (BitVec 32)) : let x := laneBits o w
    decode ((0x21#6 ++ vd ++ va ++ vb ++ vc ++ 0#10) :: x.extractLsb' 32 32 :: x.extractLsb' 0 32 :: rest)
      = .ok (o.instr (.vop vd va vb vc) w) := by
  dsimp only
  rw [decode_vop (by simp [fMaj, HAppend.hAppend, ↓append_eq_joined]), decodeVop,
    halves_append, laneWord_eq_some_iff.mpr ⟨rfl, legal⟩]
  simp [HAppend.hAppend, ↓append_eq_joined]

theorem coded_lane {i : Instr} {o : LOp} {site : LaneAt} {w : LaneW} (enc : encode i = encLane o site w)
    (row : i = o.instr site w) (event : ∀ rid u, site = .fire rid u → i.isEvent = true) : Coded i := by
  cases site with
  | fire rid u => exact .inl ⟨event rid u rfl, enc⟩
  | vop vd va vb vc =>
    refine .inr ⟨_, enc, fun ok rest => ?_⟩
    rw [row, wellFormed_lane] at ok
    rw [row, asDecoded_lane]
    exact decode_laneBits ok vd va vb vc rest

theorem decode_issueWords (g0 g1 g2 : GReg) (x : BitVec 128) (rest : List (BitVec 32)) :
    decode (issueWords g0 g1 g2 x ++ rest) = decodeCmd (.issue g0 g1 g2) (fun n => subsOk n g0 g1 g2) x := by
  refine (decode_issue (fMaj_encRR ..) _ _ _ _ rest).trans ?_
  rw [decodeIssue, quarters_append]
  simp

theorem coded_command {i : Instr} {site : CmdAt} {code : BitVec 8} {tgt : BitVec 4} {h : CmdHdr} {fields : BitVec 104}
    (enc : encode i = encCmd site code tgt h fields) (event : ∀ id, site = .start id → i.isEvent = true)
    (dec : ∀ g0 g1 g2, site = .issue g0 g1 g2 → wellFormed i = true →
      decodeCmd (.issue g0 g1 g2) (fun n => subsOk n g0 g1 g2) (cmdBits code tgt h fields) = .ok i.asDecoded) : Coded i := by
  cases site with
  | start id => exact .inl ⟨event id rfl, enc⟩
  | issue g0 g1 g2 => exact .inr ⟨_, enc, fun ok rest => (decode_issueWords g0 g1 g2 _ rest).trans (dec g0 g1 g2 rfl ok)⟩

/-! ### Every instruction -/

theorem coded (i : Instr) : Coded i := by
  cases i with
  | add | sub | and | or | xor | andn | sll | srl | sra | mul | mulh | mulhn | div | divn | rem | remn | min | max | minn | maxn
  | slt | sltn | clz | ctz | popc | lea =>
    exact coded_rr decodeOne_int rfl (by decide) fun _ => by
      simp [decodeInt, guardField, Instr.asDecoded, HAppend.hAppend, ↓append_eq_joined]
  | addi | andi | ori | xori | slti | sltni | slli | srli | srai | insh | ldB | ldBn | ldH | ldHn | ldW | ldWn | ldD | stB | stH
  | stW | stD | beq | bne | blt | bge | bltn | bgen | jalr | loop =>
    exact coded_ri rfl (by decide)
      (by simp [decodeOne, decodeShi, guardField, Instr.asDecoded, HAppend.hAppend, ↓append_eq_joined])
  | li | pcadd | jal => exact coded_jl rfl (by decide) (by simp [decodeOne, Instr.asDecoded])
  | vmov | vget | vgetLm | vld | vst =>
    exact coded_rr decodeOne_move rfl (by decide) fun _ => by
      simp [decodeMove, guardField, Instr.asDecoded, HAppend.hAppend, ↓append_eq_joined]
  | spawn | exit | yield | setpri =>
    exact coded_rr decodeOne_thread rfl (by decide) fun _ => by
      simp [decodeThread, guardField, Instr.asDecoded, HAppend.hAppend, ↓append_eq_joined]
  | send | recv =>
    refine coded_rr decodeOne_channel rfl (by decide) fun (range : decide _ = true) => ?_
    simp only [decide_eq_true_eq] at range
    simp [decodeChannel, guardField, Instr.asDecoded, HAppend.hAppend, ↓append_eq_joined, range]
  | waitch =>
    exact coded_rr decodeOne_channel rfl (by decide) fun _ => by simp [decodeChannel, guardField, Instr.asDecoded]
  | gjoin | gleave | gbar =>
    exact coded_rr decodeOne_group rfl (by decide) fun _ => by simp [decodeGroup, guardField, Instr.asDecoded]
  | launch =>
    exact coded_rr decodeOne_launch rfl (by decide) fun _ => by simp [decodeLaunch, guardField, Instr.asDecoded]
  | scopeopen | scopeclose | scopewait | scopeqry =>
    exact coded_rr decodeOne_scope rfl (by decide) fun _ => by simp [decodeScope, guardField, Instr.asDecoded]
  | ldf | ldfe | stf =>
    refine coded_rr decodeOne_sync rfl (by decide) fun (scope : scopeOk _ = true) => ?_
    simp only [scopeOk, bne_iff_ne] at scope
    simp [decodeSync, guardField, guardScope, Instr.asDecoded, HAppend.hAppend, ↓append_eq_joined, scope]
  | amoAdd | amoAnd | amoOr | amoXor | amoMin | amoMax | amoMinn | amoMaxn | amoSwap | amoSadd | amoFadd =>
    refine coded_rr decodeOne_amo rfl (by decide) fun (scope : scopeOk _ = true) => ?_
    simp only [scopeOk, bne_iff_ne] at scope
    simp [decodeAmo, guardField, guardScope, Instr.asDecoded, scope]
  | cas =>
    refine coded_rr decodeOne_cas rfl (by decide) fun (scope : scopeOk _ = true) => ?_
    simp only [scopeOk, bne_iff_ne] at scope
    simp [decodeCas, guardField, guardScope, Instr.asDecoded, scope]
  | lock | unlock =>
    refine coded_rr decodeOne_lock rfl (by decide) fun (scope : scopeOk _ = true) => ?_
    simp only [scopeOk, bne_iff_ne] at scope
    simp [decodeLock, guardField, guardScope, Instr.asDecoded, HAppend.hAppend, ↓append_eq_joined, scope]
  | fence =>
    refine coded_rr decodeOne_fence rfl (by decide) fun (scope : scopeOk _ = true) => ?_
    simp only [scopeOk, bne_iff_ne] at scope
    simp [decodeFence, guardField, guardScope, Instr.asDecoded, HAppend.hAppend, ↓append_eq_joined, scope]
  | gld | gscat =>
    exact coded_rr decodeOne_crystal rfl (by decide) fun _ => by
      simp [decodeCrystal, guardField, Instr.asDecoded, HAppend.hAppend, ↓append_eq_joined]
  | semacq | semrel | semtry | semset | semget =>
    exact coded_rr decodeOne_sem rfl (by decide) fun _ => by
      simp [decodeSem, guardField, Instr.asDecoded, HAppend.hAppend, ↓append_eq_joined]
  | hset | cbwf | cbwe | cbap | cbac =>
    exact coded_rr decodeOne_ring rfl (by decide) fun _ => by
      simp [decodeRing, guardField, Instr.asDecoded, HAppend.hAppend, ↓append_eq_joined]
  | dswait =>
    exact coded_rr decodeOne_slot rfl (by decide) fun _ => by
      simp [decodeSlot, guardField, Instr.asDecoded, HAppend.hAppend, ↓append_eq_joined]
  | sysr | sysw | trap | eret | brk | halt | tladj =>
    exact coded_rr decodeOne_system rfl (by decide) fun _ => by simp [decodeSystem, guardField, Instr.asDecoded]
  | ctxsave | ctxload | wstepStep | wstepResume | wstepMasked | wstepEnd =>
    exact coded_rr decodeOne_context rfl (by decide) fun _ => by
      simp [decodeContext, guardField, Instr.asDecoded, HAppend.hAppend, ↓append_eq_joined]
  | fadd | fsub | fmul | fma | fnma | fmin | fmax | fneg | fabs | fdiv | fsqrt | frcp | frsq | fexp2 | flog2 | ftanh | fsig
  | dadd | dsub | dmul | dfma | dmin | dmax | ddiv | dsqrt | fcmp | icmp | sel | iadd | isub | imul | imulh | imad | iand | ior
  | ixor | ishl | ishr | isar | imin | imax | iminn | imaxn | isadd | iabs | lsum | lmax | lperm | lbcast | lshift | lins | lext
  | accf | accd | acci | accs | cvtin | cvtout | cvtfi | cvtif | cvtfd | cvtdf | pass | zip | unzip | cnt | kmerge | lut | madd
  | msadd | mfadd | mmin | mmax | mswap | panq => exact coded_lane rfl rfl (by rintro rid u rfl; rfl)
  | patset | bindld | bindst | gather | scatter | copy | rcopy | barrier | tiledef | tileset | signal | cfgload | cfgsw | mark
  | probe | fetchw | unbind | griddef | pandef | panctlSetf | panctlSeta | panctlSetpri | panctlSetfb | panctlResume
  | panctlClear | panctlWindow | panctlEvict | panctlFree | pandrain =>
    refine coded_command rfl (by rintro id rfl; rfl) ?_
    rintro g0 g1 g2 rfl (ok : (_ && _) = true)
    simp only [cmdOk, Bool.and_eq_true] at ok
    simp [decodeCmd, Instr.asDecoded, HAppend.hAppend, ↓append_eq_joined, ok]
  | _ => exact .inl ⟨rfl, rfl⟩

end Sys2Proof
end

section
/-! SUPPORT. What the decoder answers is well formed and is encoded by the words that it was read from (R31 to R42, R94, R285). -/

namespace Sys2Proof

/-- `ws` are the words of `i`, which is well formed. -/
@[simp] def Encodes (ws : List (BitVec 32)) (i : Instr) : Prop := wellFormed i = true ∧ encode i = some ws

/-- Where the decoder answers `d`, it has read no instruction but one whose words are `ws`. -/
def Sound (ws : List (BitVec 32)) (d : Decoded) : Prop := ∀ i, d = .ok i → Encodes ws i

/-! ### The answers and guards of a decoder -/

section

variable {ws : List (BitVec 32)}

@[simp] theorem sound_error (e : Reject) : Sound ws (.error e) := fun _ h => nomatch h

@[simp] theorem sound_ok (i : Instr) : Sound ws (.ok i) ↔ Encodes ws i :=
  ⟨fun h => h i rfl, fun h _ e => Except.ok.inj e ▸ h⟩

@[simp] theorem sound_guardField (zero : Bool) (i : Instr) : Sound ws (guardField zero i) ↔ (zero = true → Encodes ws i) := by
  cases zero <;> simp [guardField]

@[simp] theorem sound_guardScope (s : BitVec 3) (d : Decoded) : Sound ws (guardScope s d) ↔ (s ≠ 7#3 → Sound ws d) := by
  unfold guardScope
  split <;> simp [*]

@[simp] theorem sound_ite (p : Prop) [Decidable p] (d e : Decoded) :
    Sound ws (if p then d else e) ↔ (p → Sound ws d) ∧ (¬p → Sound ws e) := by
  split <;> simp [*]

end

/-! ### Instructions of one word: each assigned code's guard says that the reserved fields of its layout are 0 -/

section

variable {w : BitVec 32}

theorem sound_decodeInt (maj : fMaj w = 0x01#6) : Sound [w] (decodeInt w) := by
  unfold decodeInt
  dsimp only
  split
  case h_26 lea =>
    simp +contextual [wellFormed, encode, maj, lea, eq_ofNat_iff, HAppend.hAppend, ↓append_eq_joined, eq_joined_iff,
      extractLsb'_extractLsb']
  all_goals simp +contextual [wellFormed, encode, fn_eq_ofNat_iff, *]

theorem sound_decodeShi (maj : fMaj w = 0x08#6) : Sound [w] (decodeShi w) := by
  unfold decodeShi
  dsimp only
  split <;>
    simp +contextual [wellFormed, encode, eq_ofNat_iff, HAppend.hAppend, ↓append_eq_joined, eq_joined_iff,
      extractLsb'_extractLsb', *]

theorem sound_decodeSync (maj : fMaj w = 0x27#6) : Sound [w] (decodeSync w) := by
  unfold decodeSync
  dsimp only
  split <;>
    simp +contextual [wellFormed, scopeOk, encode, eq_ofNat_iff, HAppend.hAppend, ↓append_eq_joined, eq_joined_iff,
      extractLsb'_extractLsb', *]

theorem sound_decodeAmo (maj : fMaj w = 0x28#6) : Sound [w] (decodeAmo w) := by
  unfold decodeAmo
  dsimp only
  split <;>
    simp +contextual [wellFormed, scopeOk, encode, amoFn, eq_ofNat_iff, HAppend.hAppend, ↓append_eq_joined, eq_joined_iff,
      extractLsb'_extractLsb', extractLsb'_one, *]

theorem sound_decodeCas (maj : fMaj w = 0x29#6) : Sound [w] (decodeCas w) := by
  simp +contextual [decodeCas, wellFormed, scopeOk, encode, amoFn, eq_ofNat_iff, HAppend.hAppend, ↓append_eq_joined,
    eq_joined_iff, extractLsb'_extractLsb', extractLsb'_one, maj]

theorem sound_decodeMove (maj : fMaj w = 0x20#6) : Sound [w] (decodeMove w) := by
  unfold decodeMove
  split
  case h_2 code =>
    have sub : fD w = 1#5 := BitVec.eq_of_toNat_eq code
    rw [sound_ite, sound_guardField, sound_guardField]
    refine ⟨fun mask guard => ?_, fun lane guard => ?_⟩
    · simp only [Bool.and_eq_true, Bool.not_eq_true', beq_iff_eq] at guard
      obtain ⟨⟨v, high⟩, low⟩ := guard
      have fn : fFn w = 8#11 := by
        rw [fn_eq_of_vget high, mask, low]
        rfl
      simp [wellFormed, encode, eq_fv_vnum_iff, maj, sub, v, fn]
    · simp only [Bool.and_eq_true, Bool.not_eq_true', beq_iff_eq] at guard
      obtain ⟨v, high⟩ := guard
      have fn : fFn w = 0#8 ++ (fFn w).extractLsb' 0 3 := by
        conv => lhs; rw [fn_eq_of_vget high, Bool.eq_false_iff.mpr lane]
        rfl
      simpa [wellFormed, encode, eq_fv_vnum_iff, maj, sub, v] using fn
  all_goals simp +contextual [wellFormed, encode, eq_fv_vnum_iff, eq_ofNat_iff, *]

theorem sound_decodeThread (maj : fMaj w = 0x22#6) : Sound [w] (decodeThread w) := by
  unfold decodeThread
  split <;>
    simp +contextual [wellFormed, encode, eq_ofNat_iff, HAppend.hAppend, ↓append_eq_joined, eq_joined_iff,
      extractLsb'_extractLsb', extractLsb'_one, *]

theorem sound_decodeChannel (maj : fMaj w = 0x23#6) : Sound [w] (decodeChannel w) := by
  unfold decodeChannel
  split <;> simp +contextual [wellFormed, encode, eq_ofNat_iff, HAppend.hAppend, ↓append_eq_joined, eq_joined_iff, *]

theorem sound_decodeGroup (maj : fMaj w = 0x24#6) : Sound [w] (decodeGroup w) := by
  unfold decodeGroup
  split <;> simp +contextual [wellFormed, encode, eq_ofNat_iff, *]

theorem sound_decodeLaunch (maj : fMaj w = 0x25#6) : Sound [w] (decodeLaunch w) := by
  unfold decodeLaunch
  split <;> simp +contextual [wellFormed, encode, eq_ofNat_iff, *]

theorem sound_decodeScope (maj : fMaj w = 0x26#6) : Sound [w] (decodeScope w) := by
  unfold decodeScope
  split <;> simp +contextual [wellFormed, encode, eq_ofNat_iff, *]

theorem sound_decodeLock (maj : fMaj w = 0x2a#6) : Sound [w] (decodeLock w) := by
  unfold decodeLock
  split <;> simp +contextual [wellFormed, scopeOk, encode, eq_ofNat_iff, HAppend.hAppend, ↓append_eq_joined, eq_joined_iff, *]

theorem sound_decodeFence (maj : fMaj w = 0x2b#6) : Sound [w] (decodeFence w) := by
  unfold decodeFence
  split <;> simp +contextual [wellFormed, scopeOk, encode, eq_ofNat_iff, HAppend.hAppend, ↓append_eq_joined, eq_joined_iff, *]

theorem sound_decodeCrystal (maj : fMaj w = 0x2c#6) : Sound [w] (decodeCrystal w) := by
  unfold decodeCrystal
  split <;>
    simp +contextual [wellFormed, encode, eq_fv_vnum_iff, eq_ofNat_iff, HAppend.hAppend, ↓append_eq_joined, eq_joined_iff,
      extractLsb'_extractLsb', *]

theorem sound_decodeSem (maj : fMaj w = 0x2e#6) : Sound [w] (decodeSem w) := by
  unfold decodeSem
  split <;> simp +contextual [wellFormed, encode, eq_ofNat_iff, HAppend.hAppend, ↓append_eq_joined, eq_joined_iff, *]

theorem sound_decodeRing (maj : fMaj w = 0x2f#6) : Sound [w] (decodeRing w) := by
  unfold decodeRing
  split <;>
    simp +contextual [wellFormed, encode, eq_fv_vnum_iff, eq_ofNat_iff, HAppend.hAppend, ↓append_eq_joined, eq_joined_iff, *]

theorem sound_decodeSlot (maj : fMaj w = 0x30#6) : Sound [w] (decodeSlot w) := by
  unfold decodeSlot
  split <;> simp +contextual [wellFormed, encode, eq_ofNat_iff, HAppend.hAppend, ↓append_eq_joined, eq_joined_iff, *]

theorem sound_decodeSystem (maj : fMaj w = 0x31#6) : Sound [w] (decodeSystem w) := by
  unfold decodeSystem
  split <;> simp +contextual [wellFormed, encode, eq_ofNat_iff, *]

theorem sound_decodeContext (maj : fMaj w = 0x32#6) : Sound [w] (decodeContext w) := by
  unfold decodeContext
  split <;> simp +contextual [wellFormed, encode, eq_ofNat_iff, HAppend.hAppend, ↓append_eq_joined, eq_joined_iff, *]

theorem sound_decodeOne : Sound [w] (decodeOne w) := by
  unfold decodeOne
  dsimp only
  split
  case h_1 maj => exact sound_decodeInt (BitVec.eq_of_toNat_eq maj)
  case h_8 maj => exact sound_decodeShi (BitVec.eq_of_toNat_eq maj)
  case h_32 maj => exact sound_decodeSync (BitVec.eq_of_toNat_eq maj)
  case h_33 maj => exact sound_decodeAmo (BitVec.eq_of_toNat_eq maj)
  case h_34 maj => exact sound_decodeCas (BitVec.eq_of_toNat_eq maj)
  case h_35 maj => exact sound_decodeMove (BitVec.eq_of_toNat_eq maj)
  case h_36 maj => exact sound_decodeThread (BitVec.eq_of_toNat_eq maj)
  case h_37 maj => exact sound_decodeChannel (BitVec.eq_of_toNat_eq maj)
  case h_38 maj => exact sound_decodeGroup (BitVec.eq_of_toNat_eq maj)
  case h_39 maj => exact sound_decodeLaunch (BitVec.eq_of_toNat_eq maj)
  case h_40 maj => exact sound_decodeScope (BitVec.eq_of_toNat_eq maj)
  case h_41 maj => exact sound_decodeLock (BitVec.eq_of_toNat_eq maj)
  case h_42 maj => exact sound_decodeFence (BitVec.eq_of_toNat_eq maj)
  case h_43 maj => exact sound_decodeCrystal (BitVec.eq_of_toNat_eq maj)
  case h_44 maj => exact sound_decodeSem (BitVec.eq_of_toNat_eq maj)
  case h_45 maj => exact sound_decodeRing (BitVec.eq_of_toNat_eq maj)
  case h_46 maj => exact sound_decodeSlot (BitVec.eq_of_toNat_eq maj)
  case h_47 maj => exact sound_decodeSystem (BitVec.eq_of_toNat_eq maj)
  case h_48 maj => exact sound_decodeContext (BitVec.eq_of_toNat_eq maj)
  all_goals simp +contextual [wellFormed, encode, eq_ofNat_iff, HAppend.hAppend, ↓append_eq_joined, eq_joined_iff, *]

end

/-! ### Instructions of several words -/

/-- A prefix of VOP whose reserved bits are 0 is made of its four registers (R31). -/
theorem vopPrefix_eq {w : BitVec 32} (maj : fMaj w = 0x21#6) (zero : w.extractLsb' 0 10 = 0#10) :
    0x21#6 ++ w.extractLsb' 22 4 ++ w.extractLsb' 18 4 ++ w.extractLsb' 14 4 ++ w.extractLsb' 10 4 ++ 0#10 = w := by
  rw [eq_comm]
  simp [HAppend.hAppend, ↓append_eq_joined, eq_joined_iff, extractLsb'_extractLsb', zero, ← maj, fMaj]

theorem sound_decodeVop {w : BitVec 32} (maj : fMaj w = 0x21#6) (hi lo : BitVec 32) :
    Sound [w, hi, lo] (decodeVop w hi lo) := by
  unfold decodeVop
  split
  · exact sound_error _
  next zero =>
    split
    next o l found =>
      obtain ⟨bits, legal⟩ := laneWord_eq_some_iff.mp found
      rw [sound_ok, Encodes, wellFormed_lane, encode_lane, encLane, bits, vopPrefix_eq maj (not_not.mp zero)]
      have high : (hi ++ lo).extractLsb' 32 32 = hi := by simp [HAppend.hAppend, ↓append_eq_joined]
      have low : (hi ++ lo).extractLsb' 0 32 = lo := by simp [HAppend.hAppend, ↓append_eq_joined]
      rw [high, low]
      exact ⟨legal, rfl⟩
    next => exact sound_error _

theorem sound_decodeCmd (g0 g1 g2 : GReg) (x : BitVec 128) :
    Sound (issueWords g0 g1 g2 x) (decodeCmd (.issue g0 g1 g2) (fun n => subsOk n g0 g1 g2) x) := by
  unfold decodeCmd
  dsimp only
  split
  case h_21 =>
    split <;>
      simp +contextual [wellFormed, cmdOk, encode, encCmd_issue, cmdBits_eq_iff, eq_ofNat_iff, HAppend.hAppend,
        ↓append_eq_joined, eq_joined_iff, extractLsb'_extractLsb', *]
  all_goals
    simp +contextual [wellFormed, cmdOk, encode, encCmd_issue, cmdBits_eq_iff, eq_ofNat_iff, HAppend.hAppend,
      ↓append_eq_joined, eq_joined_iff, extractLsb'_extractLsb', extractLsb'_one, *]

theorem sound_decodeIssue {w : BitVec 32} (maj : fMaj w = 0x2D#6) (w3 w2 w1 w0 : BitVec 32) :
    Sound [w, w3, w2, w1, w0] (decodeIssue w w3 w2 w1 w0) := by
  unfold decodeIssue
  dsimp only
  split
  · exact sound_error _
  next zero =>
    have words : [w, w3, w2, w1, w0] = issueWords (fD w) (fA w) (fB w) (w3 ++ w2 ++ w1 ++ w0) := by
      rw [issueWords, (encRR_eq_iff ..).mpr ⟨maj, rfl, rfl, rfl, not_not.mp zero⟩]
      simp [HAppend.hAppend, ↓append_eq_joined]
    rw [words]
    exact sound_decodeCmd _ _ _ _

end Sys2Proof
end

section
/-! PROOFS. The statements about decoding. -/

namespace Sys2Proof

open Sys2Proof.Machine

/-! ### The number of words, by the major opcode (R25) -/

section

variable {w : BitVec 32}

theorem fetchLength_vop (maj : (fMaj w).toNat = 0x21) : fetchLength w = 3 := by
  unfold fMaj at maj
  simp only [fetchLength, maj]

theorem fetchLength_issue (maj : (fMaj w).toNat = 0x2D) : fetchLength w = 5 := by
  unfold fMaj at maj
  simp only [fetchLength, maj]

theorem fetchLength_one (noVop : (fMaj w).toNat ≠ 0x21) (noIssue : (fMaj w).toNat ≠ 0x2D) : fetchLength w = 1 := by
  unfold fetchLength
  split
  next maj => exact absurd maj noVop
  next maj => exact absurd maj noIssue
  next => rfl

end

/-- What the decoder answers is encoded by as many of the words as its first word says. -/
theorem sound_decode (ws : List (BitVec 32)) : Sound (ws.take (fetchLength (ws.headD 0))) (decode ws) := by
  unfold decode
  split
  case h_1 => exact sound_error _
  case h_2 w rest =>
    rw [List.headD_cons]
    split
    case h_1 hi lo tail maj =>
      rw [fetchLength_vop maj]
      exact sound_decodeVop (BitVec.eq_of_toNat_eq maj) hi lo
    case h_2 w3 w2 w1 w0 tail maj =>
      rw [fetchLength_issue maj]
      exact sound_decodeIssue (BitVec.eq_of_toNat_eq maj) w3 w2 w1 w0
    case h_3 => exact sound_error _
    case h_4 => exact sound_error _
    case h_5 noVop noIssue _ _ =>
      rw [fetchLength_one noVop noIssue]
      exact sound_decodeOne

/-- Settles O59: every instruction is coded, and every decoder is sound. -/
theorem decodeAndEncode : Obligations.DecodeAndEncode := by
  refine ⟨fun i ws rest ok enc => ?_, fun i _ program => ?_, fun i ws decoded => sound_decode ws i decoded⟩
  · obtain ⟨-, none⟩ | ⟨ws', enc', dec⟩ := coded i
    · cases enc.symm.trans none
    · cases enc.symm.trans enc'
      exact dec ok rest
  · obtain ⟨event, -⟩ | ⟨ws, enc, -⟩ := coded i
    · cases program.symm.trans event
    · exact ⟨ws, enc⟩

/-- Settles O60: the decoder evaluates each word. -/
theorem decodeWords : Obligations.DecodeWords := by
  unfold Obligations.DecodeWords
  decide +kernel

end Sys2Proof
end


section
/-! SUPPORT. ISSUE: acceptance of a command whose dispatcher has room, and the checks before it (R33, R34, R287 to R290). -/

namespace Sys2Proof.Map

variable {α : Type}

theorem mem_put {m : Map α} {k : Nat} {v : α} {p : Nat × α} (h : p ∈ m.put k v) : p = (k, v) ∨ p ∈ m := by
  induction m with
  | nil => simpa [put] using h
  | cons q m ih =>
    obtain ⟨j, w⟩ := q
    unfold put at h
    split at h
    · simpa using h
    · split at h
      · rcases List.mem_cons.mp h with rfl | rest
        · exact .inl rfl
        · exact .inr (List.mem_cons_of_mem _ rest)
      · rcases List.mem_cons.mp h with rfl | rest
        · exact .inr List.mem_cons_self
        · exact (ih rest).imp_right (List.mem_cons_of_mem _)

/-- Putting what `f` leaves out makes the part that `f` selects no longer. -/
theorem length_filter_put_le (m : Map α) {k : Nat} {v : α} {f : Nat × α → Bool} (out : f (k, v) = false) :
    ((m.put k v).filter f).length ≤ (m.filter f).length := by
  induction m with
  | nil => simp [put, out]
  | cons q m ih =>
    obtain ⟨j, w⟩ := q
    unfold put
    split
    · simp [out]
    · split
      · rw [List.filter_cons_of_neg (by simp [out])]
        exact ((List.sublist_cons_self _ _).filter f).length_le
      · by_cases sel : f (j, w) = true
        · simpa [sel] using ih
        · simpa [sel] using ih

end Sys2Proof.Map

namespace Sys2Proof.Machine

/-! ### Slots -/

theorem Ctx.getD_setD (c : Ctx) (i k : BitVec 3) (x : Slot) : (c.setD i x).getD k = if k = i then x else c.getD k := by
  unfold Ctx.getD Ctx.setD
  by_cases same : k = i
  · subst same
    rw [if_pos rfl]
    exact Vector.getElem_set_self k.isLt
  · have ne : i.toNat ≠ k.toNat := fun e => same (BitVec.eq_of_toNat_eq e.symm)
    rw [if_neg same]
    exact Vector.getElem_set_ne i.isLt k.isLt ne

/-- A context that RUNS is at a boundary once its instruction completes, whatever it waited for. -/
theorem Ctx.boundary_at_of_runnable {c d : Ctx} (st : d.st = .runnable) (stop : d.stop = c.stop) (waited : d.waited = c.waited) :
    AtBoundary c d.boundary := by
  unfold AtBoundary Ctx.boundary
  rw [st, stop]
  cases c.stop <;> simp [waited]

/-! ### Acceptance -/

theorem State.me_setCtx_cur {z : State} {t : Nat} {c : Ctx} (cur : z.cur = t) : (z.setCtx t c).me = c := by
  subst cur
  exact State.me_setMe z c

/-- A command that waits for acceptance takes no room at a dispatcher (R289). -/
theorem State.queueRoom_of_put {s z : State} {id : Nat} {c : Cmd} {d : Disp} (cmds : z.cmds = s.cmds.put id c)
    (ready : z.mdReady = s.mdReady) (failover : z.failover = s.failover) (waits : c.accepted = false)
    (room : s.queueRoom d = true) : z.queueRoom d = true := by
  have length : z.queueLength d ≤ s.queueLength d := by
    unfold State.queueLength
    rw [cmds]
    exact Map.length_filter_put_le _ (by simp [waits])
  simp only [State.queueRoom, ready, failover, Bool.and_eq_true, decide_eq_true_eq] at room ⊢
  exact ⟨by omega, room.2⟩

/-- Command `id` is now accepted as `c` was offered (R288). -/
def State.accepted (z : State) (id : Nat) (c : Cmd) : State :=
  { z.fresh with cmds := z.cmds.put id { c with accepted := true, accNo := z.nextId } }

/-- A command that its dispatcher has room for is accepted, and its ISSUE completes (R288). -/
theorem State.accept_issuer {z : State} {id t : Nat} {c : Cmd} (found : z.cmds.find? id = some c) (waits : c.accepted = false)
    (room : z.queueRoom c.disp = true) (first : ∀ x ∈ z.cmds, x.1 < id → x.2.disp = c.disp → x.2.accepted = true)
    (src : c.src = some t) (wait : (z.ctx t).wait = .accept id) :
    z.accept id = (z.accepted id c).setCtx t ((z.ctx t).retire 5) := by
  have order : z.cmds.all (fun x => x.1 ≥ id || x.2.accepted || x.2.disp ≠ c.disp) = true := by
    rw [List.all_eq_true]
    intro x member
    have := first x member
    by_cases low : x.1 < id <;> by_cases same : x.2.disp = c.disp <;> simp_all
  unfold State.accept
  rw [found]
  dsimp only
  rw [if_pos ⟨by simp [waits], room, order⟩]
  split
  next u issuer =>
    cases issuer.symm.trans src
    exact if_pos wait
  next none => cases none.symm.trans src

/-- The context that issues a command with header `h`: its slot counts one more. -/
def Ctx.counting (c : Ctx) (h : CmdHdr) : Ctx :=
  if h.seten then c.setD h.setslot { c.getD h.setslot with count := (c.getD h.setslot).count + 1 } else c

/-- The state in which the current thread, its slot counted, waits for the acceptance of command `c`. -/
def State.offering (s : State) (h : CmdHdr) (c : Cmd) : State :=
  { (s.setMe ((s.me.counting h).waitFor (.accept s.nextId) false)).fresh with cmds := s.cmds.put s.nextId c }

theorem State.offering_me (s : State) (h : CmdHdr) (c : Cmd) :
    (s.offering h c).ctx s.cur = (s.me.counting h).waitFor (.accept s.nextId) false := State.me_setMe s _

/-- The new command of an ISSUE by the current thread. -/
def State.newCmd (s : State) (h : CmdHdr) (i : Instr) (d : Disp) : Cmd :=
  Machine.newCmd (some s.cur) i d h.wait (if h.seten then some h.setslot else none)

theorem issue_of_slotRoom {s : State} {h : CmdHdr} {mk : Nat → Option (Instr × Disp)} {i : Instr} {d : Disp}
    (made : mk s.nextId = some (i, d)) (legal : hdrOk h = true)
    (slot : h.seten = true → (s.me.getD h.setslot).count.toNat < 63) :
    issue h mk s = .next ((s.offering h (s.newCmd h i d)).accept s.nextId) := by
  have room : ¬(h.seten = true ∧ 63 ≤ (s.me.getD h.setslot).count.toNat) := fun ⟨set, full⟩ => by
    have := slot set
    omega
  unfold issue
  rw [made]
  dsimp only
  rw [if_neg (by simp [legal]), if_neg room]
  rfl

/-- What ISSUE leaves of the context that waited for acceptance: its slot counted, its PC moved past the five words. -/
theorem Ctx.accepted_spec (c : Ctx) (h : CmdHdr) (w : Wait) :
    let d := ((c.counting h).waitFor w false).retire 5
    d.pc = c.pc + 20#64 ∧ AtBoundary c d ∧ (∀ r, d.get r = c.get r)
      ∧ ∀ k, d.getD k = if h.seten ∧ k = h.setslot then { c.getD k with count := (c.getD k).count + 1 } else c.getD k := by
  have regs : (c.counting h) = { c with d := (c.counting h).d } := by
    unfold Ctx.counting
    split <;> rfl
  have slots (k : BitVec 3) : (c.counting h).getD k
      = if h.seten ∧ k = h.setslot then { c.getD k with count := (c.getD k).count + 1 } else c.getD k := by
    unfold Ctx.counting
    by_cases set : h.seten = true
    · rw [if_pos set, Ctx.getD_setD]
      by_cases same : k = h.setslot <;> simp [set, same]
    · simp [set]
  dsimp only
  refine ⟨?_, ?_, ?_, ?_⟩
  · rw [Ctx.retire_only, regs]
    rfl
  · exact Ctx.boundary_at_of_runnable rfl (by rw [regs]; rfl) (by rw [regs]; rfl)
  · intro r
    rw [Ctx.retire_only, regs]
    rfl
  · intro k
    rw [← slots k, Ctx.retire_only]
    rfl

/-- ISSUE of a legal command, which `mk` gives after substitution. -/
theorem issued_of_made {s : State} {h : CmdHdr} {mk : Nat → Option (Instr × Disp)} {i cmd : Instr} {d : Disp}
    (run : exec i s = issue h mk s) (made : mk s.nextId = some (cmd, d)) (legal : hdrOk h = true) : Issued i h cmd d s := by
  intro slot room order
  have accepting : (s.offering h (s.newCmd h cmd d)).queueRoom d = true := State.queueRoom_of_put rfl rfl rfl rfl room
  have first : ∀ x ∈ (s.offering h (s.newCmd h cmd d)).cmds, x.1 < s.nextId → x.2.disp = d → x.2.accepted = true := by
    intro x member low same
    obtain rfl | old := Map.mem_put member
    · exact absurd low (Nat.lt_irrefl _)
    · exact order x old same
  have wait : ((s.offering h (s.newCmd h cmd d)).ctx s.cur).wait = .accept s.nextId := by
    rw [State.offering_me]
    rfl
  have me (x : Ctx) : (((s.offering h (s.newCmd h cmd d)).accepted s.nextId (s.newCmd h cmd d)).setCtx s.cur x).me = x :=
    State.me_setCtx_cur rfl
  rw [run, issue_of_slotRoom made legal slot,
    State.accept_issuer (Map.find?_put_same _ _ _) rfl accepting first rfl wait, State.offering_me]
  obtain ⟨pc, boundary, regs, slots⟩ := s.me.accepted_spec h (.accept s.nextId)
  refine ⟨_, _, rfl, ?_, ?_, fun r => ?_, fun _ => rfl, fun k => ?_, Map.find?_put_same _ _ _, rfl, rfl, rfl, rfl, rfl, rfl, rfl,
    rfl⟩
  all_goals rw [me]
  · exact pc
  · exact boundary
  · exact regs r
  · exact slots k

/-! ### Substitution -/

section

variable {m n : Nat} {c : Ctx} (x : BitVec m) (y : BitVec n)

@[simp] theorem subst_zero : subst c 0#5 x = some x := rfl

theorem subst_of_fits {g : GReg} (named : g ≠ 0#5) (fits : (c.get g).toNat < 2 ^ m) :
    subst c g x = some ((c.get g).setWidth m) := by
  simp [subst, named, fits]

theorem subst_of_too_large {g : GReg} (named : g ≠ 0#5) (large : 2 ^ m ≤ (c.get g).toNat) :
    subst c g x = none := by
  simp [subst, named, Nat.not_lt.mpr large]

@[simp] theorem subst0_zero : subst0 0#5 0#5 0#5 = some () := rfl
@[simp] theorem subst2_zero : subst2 c 0#5 0#5 0#5 x y = some (x, y) := rfl

theorem subst1_first (g : GReg) : subst1 c g 0#5 0#5 x = subst c g x := by simp [subst1, subsOk]

theorem subst2_second (g : GReg) : subst2 c 0#5 g 0#5 x y = (subst c g y).map (fun y => (x, y)) := by
  simp [subst2, subsOk]

/-! A register named for a field that the command lacks (R33). -/

theorem subst0_of_first {g : GReg} (named : g ≠ 0#5) : subst0 g 0#5 0#5 = none := by simp [subst0, subsOk, named]

theorem subst1_of_second {g : GReg} (named : g ≠ 0#5) : subst1 c 0#5 g 0#5 x = none := by simp [subst1, subsOk, named]

theorem subst1_of_third {g : GReg} (named : g ≠ 0#5) : subst1 c 0#5 0#5 g x = none := by simp [subst1, subsOk, named]

theorem subPanctl_zero {mask v : BitVec 32} {pan : BitVec 12} (within : v &&& ~~~mask = 0) :
    subPanctl mask c 0#5 0#5 0#5 v pan = some (v, pan) := by
  simp [subPanctl, within]

end

/-! ### Checks of fields that are not substituted -/

theorem mejOk_of_lt {j : BitVec 9} (me : j.toNat < 384) : mejOk j = true := decide_eq_true me

theorem mejOk_of_le {j : BitVec 9} (none : 384 ≤ j.toNat) : mejOk j = false := decide_eq_false (Nat.not_lt.mpr none)

theorem sizeOk_of_within {size : BitVec 12} (low : 1 ≤ size.toNat) (high : size.toNat ≤ 2048) : sizeOk size = true :=
  decide_eq_true ⟨low, high⟩

theorem devOk_of_own {rem : Bool} {dev : BitVec 10} (device : rem = true ∨ dev = 0) : devOk rem dev = true := by
  obtain rfl | rfl := device <;> simp [devOk]

/-! ### What ISSUE refuses -/

/-- A command whose substitution fails, or whose fields or header R34 or R287 forbid, is an illegal instruction. -/
theorem issue_illegal {s : State} {h : CmdHdr} {mk : Nat → Option (Instr × Disp)} {i : Instr} (run : exec i s = issue h mk s)
    (wrong : mk s.nextId = none ∨ hdrOk h = false) (able : s.me.it = false) :
    ∃ t, exec i s = .next t ∧ Trapped 1 (BitVec.ofNat 64 (s.readMem s.me.pc.toNat 4)) s.me.pc s t := by
  have refused : issue h mk s = illegal s := by
    unfold issue
    obtain none | header := wrong
    · rw [none]
    · split
      · rfl
      · exact if_pos (by simp [header])
  rw [run, refused]
  exact illegal_spec able

/-- A slot that counts 63 commands makes ISSUE wait (R288). -/
theorem issue_of_slotFull {s : State} {h : CmdHdr} {mk : Nat → Option (Instr × Disp)} {made : Instr × Disp} {i : Instr}
    (run : exec i s = issue h mk s) (makes : mk s.nextId = some made) (legal : hdrOk h = true) (set : h.seten = true)
    (full : (s.me.getD h.setslot).count = 63) :
    ∃ t, exec i s = .next t ∧ Waits (.poll (.slotRoom h.setslot.toNat)) false s t := by
  have waits : issue h mk s = waitOn (.poll (.slotRoom h.setslot.toNat)) false s := by
    unfold issue
    rw [makes]
    dsimp only
    rw [if_neg (by simp [legal]), if_pos ⟨set, by simp [full]⟩]
  rw [run, waits]
  exact waitOn_spec ..

theorem hdrOk_of_ownSlot {h : CmdHdr} (set : h.seten = true) (own : h.wait.getLsbD h.setslot.toNat = true) : hdrOk h = false := by
  simp [hdrOk, set, own]

end Sys2Proof.Machine
end

section
/-! PROOFS. The statements about ISSUE. -/

namespace Sys2Proof

open Sys2Proof.Machine

/-- Settles O36: without substitution every command is made as it stands, for the dispatcher of R289. -/
theorem commandsIssue : Obligations.CommandsIssue := by
  intro s h x y sel v52 lid v wp sx sy sem isl j mask tile base size pan st dev rem zero core tm vd da db legal
  exact ⟨issued_of_made (by rw [exec_patset, execPatset]) (by rfl) legal,
    issued_of_made (by rw [exec_gather, execGather]) (by rfl) legal,
    issued_of_made (by rw [exec_scatter, execScatter]) (by rfl) legal,
    issued_of_made (by rw [exec_copy, execCopy]) (by rfl) legal,
    issued_of_made (by rw [exec_rcopy, execRcopy]) (by rfl) legal,
    issued_of_made (by rw [exec_fetchw, execFetchw]) (by rfl) legal,
    issued_of_made (by rw [exec_griddef, execGriddef]) (by rfl) legal,
    fun device => issued_of_made (by rw [exec_signal, execSignal]) (by rw [devOk_of_own device]; rfl) legal,
    issued_of_made (by rw [exec_bindld, execBindld]) (by rfl) legal,
    issued_of_made (by rw [exec_bindst, execBindst]) (by rfl) legal,
    issued_of_made (by rw [exec_unbind, execUnbind]) (by rfl) legal,
    fun me => ⟨issued_of_made (by rw [exec_barrier, execBarrier]) (by rw [mejOk_of_lt me]; rfl) legal,
      issued_of_made (by rw [exec_tileset, execTileset]) (by rw [mejOk_of_lt me]; rfl) legal,
      fun low high => issued_of_made (by rw [exec_tiledef, execTiledef])
        (by simp [mejOk_of_lt me, sizeOk_of_within low high, meNumber]) legal⟩,
    issued_of_made (by rw [exec_cfgload, execCfgload]) (by rfl) legal,
    issued_of_made (by rw [exec_cfgsw, execCfgsw]) (by rfl) legal,
    issued_of_made (by rw [exec_mark, execMark]) (by rfl) legal,
    issued_of_made (by rw [exec_probe, execProbe]) (by rfl) legal,
    issued_of_made (by rw [exec_pandef, execPandef]) (by rfl) legal,
    issued_of_made (by rw [exec_pandrain, execPandrain]) (by rfl) legal,
    fun within => issued_of_made (by rw [exec_panctlSetf, execPanctlSetf]) (by rw [subPanctl_zero within]; rfl) legal,
    fun within => issued_of_made (by rw [exec_panctlSeta, execPanctlSeta]) (by rw [subPanctl_zero within]; rfl) legal,
    fun within => issued_of_made (by rw [exec_panctlSetpri, execPanctlSetpri]) (by rw [subPanctl_zero within]; rfl) legal,
    fun within => issued_of_made (by rw [exec_panctlSetfb, execPanctlSetfb]) (by rw [subPanctl_zero within]; rfl) legal,
    fun within => issued_of_made (by rw [exec_panctlResume, execPanctlResume]) (by rw [subPanctl_zero within]; rfl) legal,
    fun within => issued_of_made (by rw [exec_panctlClear, execPanctlClear]) (by rw [subPanctl_zero within]; rfl) legal,
    fun within => issued_of_made (by rw [exec_panctlWindow, execPanctlWindow]) (by rw [subPanctl_zero within]; rfl) legal,
    fun within => issued_of_made (by rw [exec_panctlEvict, execPanctlEvict]) (by rw [subPanctl_zero within]; rfl) legal,
    fun within => issued_of_made (by rw [exec_panctlFree, execPanctlFree]) (by rw [subPanctl_zero within]; rfl) legal⟩

end Sys2Proof
end

section
/-! PROOFS. What ISSUE checks. -/

namespace Sys2Proof

open Sys2Proof.Machine

/-- Settles O37: the substituted command is made where each register fits its field; a command that is not made is illegal. -/
theorem issueChecks : Obligations.IssueChecks := by
  intro s h g x l isl j mask
  have value {v : Word} (fits : v.toNat < 2 ^ 32) : (v.setWidth 32).toNat = v.toNat := by
    rw [BitVec.toNat_setWidth, Nat.mod_eq_of_lt fits]
  refine ⟨fun legal named fits => ?_, fun legal named fits => ?_, fun named large => ?_, fun named => ⟨?_, ?_, ?_⟩, fun none => ?_,
    fun set own => ?_, fun legal set full => ?_⟩
  · refine issued_of_made (by rw [exec_mark, execMark]) ?_ legal
    rw [subst1_first, subst_of_fits _ named fits, Option.map_some, value fits]
  · refine issued_of_made (by rw [exec_cfgload, execCfgload]) ?_ legal
    rw [subst2_second, subst_of_fits _ named fits, Option.map_some, Option.map_some, value fits]
  · refine issue_illegal (by rw [exec_mark, execMark]) (.inl ?_)
    rw [subst1_first, subst_of_too_large _ named large, Option.map_none]
  · refine issue_illegal (by rw [exec_mark, execMark]) (.inl ?_)
    rw [subst1_of_second _ named, Option.map_none]
  · refine issue_illegal (by rw [exec_copy, execCopy]) (.inl ?_)
    rw [subst1_of_third _ named, Option.map_none]
  · refine issue_illegal (by rw [exec_barrier, execBarrier]) (.inl ?_)
    rw [subst0_of_first named, ite_self, Option.map_none]
  · refine issue_illegal (by rw [exec_barrier, execBarrier]) (.inl ?_)
    rw [mejOk_of_le none]
    rfl
  · exact issue_illegal (by rw [exec_mark, execMark]) (.inr (hdrOk_of_ownSlot set own))
  · exact issue_of_slotFull (by rw [exec_mark, execMark]) (by rfl) legal set full

end Sys2Proof
end

section
/-! SUPPORT. A fetch of words that decode to no instruction (R42). -/

namespace Sys2Proof.Machine

/-- What a thread fetches where its PC may be fetched and the `n` words there decode to nothing: the trap names the first word. -/
theorem fetchAt_undecoded {s : State} {t n : Nat} (target : GoodTarget t (s.ctx t).pc)
    (grant : s.grants (24576 + coreOf t) t (s.ctx t).pc.toNat .fetch = true)
    (length : fetchLength (BitVec.ofNat 32 (s.readMem (s.ctx t).pc.toNat 4)) = n)
    (window : (s.ctx t).pc.toNat + 4 * n ≤ clmBase (coreOf t) + 0x10000) (good : s.isBad (s.ctx t).pc.toNat (4 * n) = false)
    (undecoded : ∀ i, decode (s.wordsAt (s.ctx t).pc.toNat n) ≠ .ok i) :
    s.fetchAt t = .trap 1 (BitVec.ofNat 64 (s.readMem (s.ctx t).pc.toNat 4)) := by
  have first : s.isBad (s.ctx t).pc.toNat 4 = false := by
    have pos : 1 ≤ n := length ▸ fetchLength_pos _
    exact isBad_of_le (by omega) good
  cases words : decode (s.wordsAt (s.ctx t).pc.toNat n) with
  | ok i => exact absurd words (undecoded i)
  | error _ =>
    simp [State.fetchAt, targetFault_of_good target, grant, first, length, Nat.not_lt.mpr window, good, words]

/-- A trap enters the handler in privileged mode (R20). -/
theorem prv_statusOf_true (sen it pprv : Bool) : (statusOf sen it pprv true).getLsbD 0 = true := by
  cases sen <;> cases it <;> cases pprv <;> rfl

/-- A context in no handler that traps: what its trap registers, its PC and its mode become. -/
theorem Ctx.raise_enters {c : Ctx} (outside : c.it = false) (cause : Nat) (addr : Word) :
    let d := c.raise cause addr
    d.tcause = BitVec.ofNat 64 cause ∧ d.taddr = addr ∧ d.epc = c.pc ∧ d.pc = c.tvec ∧ d.prv = true := by
  have entry : (c.it && !false) = false := by rw [outside, Bool.false_and]
  rw [Ctx.raise, Ctx.trapEntry_enters entry]
  exact ⟨rfl, rfl, rfl, rfl, prv_statusOf_true ..⟩

end Sys2Proof.Machine
end

section
/-! PROOFS. The trap of words that decode to nothing. -/

namespace Sys2Proof

open Sys2Proof.Machine

/-- Settles O58: the fetch gives an illegal-instruction trap, which the chosen context takes. -/
theorem reservedEncodingTraps : Obligations.ReservedEncodingTraps := by
  intro s core x p tid pc n chosen idle outside target window grant good undecoded
  have fetched := fetchAt_undecoded target grant rfl window good undecoded
  obtain ⟨u, next, cur, me, mem, -⟩ := fetchNext_trap chosen idle fetched
  refine ⟨u, execInstructionFetch_of_next next, mem, cur, ?_⟩
  rw [me]
  exact Ctx.raise_enters (c := s.issuing tid) outside ..

end Sys2Proof
end

section
/-! SUPPORT. Tokens built lane by lane, masks and flags collected over lanes, and what VOP does with an operation's result (R63, R78,
R85, R95, R98, R99, R102). -/

namespace Sys2Proof

/-! ### Lanes, masks and flags -/

/-- A fold that ORs a value in for every `i` of a list that has one: bit `k` of what it gives. -/
theorem getLsbD_foldl_or {n : Nat} (l : List Nat) (on : Nat → Bool) (f : Nat → BitVec n) (x : BitVec n) (k : Nat) :
    (l.foldl (fun acc i => if on i then acc ||| f i else acc) x).getLsbD k
      = (x.getLsbD k || l.any (fun i => on i && (f i).getLsbD k)) := by
  induction l generalizing x with
  | nil => simp
  | cons i l ih =>
    rw [List.foldl_cons, ih, List.any_cons]
    cases on i <;> simp [Bool.or_assoc]

/-- A search of the numbers below `n` of which none but `i` can be found. -/
theorem any_range_of_only {n i : Nat} {p : Nat → Bool} (lt : i < n) (only : ∀ j, j ≠ i → p j = false) :
    (List.range n).any p = p i := by
  rw [Bool.eq_iff_iff, List.any_eq_true]
  constructor
  · rintro ⟨j, -, found⟩
    by_cases same : j = i
    · rwa [← same]
    · simp [only j same] at found
  · exact fun found => ⟨i, List.mem_range.mpr lt, found⟩

theorem getLsbD_orFlags (n : Nat) (on : Nat → Bool) (f : Nat → Flags) (k : Nat) :
    (orFlags n on f).getLsbD k = true ↔ ∃ i, i < n ∧ on i = true ∧ (f i).getLsbD k = true := by
  simp [orFlags, getLsbD_foldl_or]

@[simp] theorem getLsbD_mask8 (f : Nat → Bool) {i : Nat} (h : i < 8) : (mask8 f).getLsbD i = f i := by
  have bit (j : Nat) : (1#8 <<< j).getLsbD i = decide (j = i) := by
    simp only [BitVec.getLsbD_shiftLeft, BitVec.getLsbD_one, h]
    grind
  rw [mask8, getLsbD_foldl_or, any_range_of_only h (fun j ne => by simp [bit, ne])]
  simp [bit]

@[simp] theorem VReg.build_lane (f : Nat → Lane) (lm : BitVec 8) {i : Nat} (h : i < 8) : (VReg.build f lm).lane i = f i := by
  refine BitVec.eq_of_getLsbD_eq fun k lt => ?_
  have bit (j : Nat) (ne : j ≠ i) : ((f j).setWidth 288 <<< (36 * j)).getLsbD (36 * i + k) = false := by
    rw [BitVec.getLsbD_shiftLeft, BitVec.getLsbD_setWidth]
    by_cases below : 36 * i + k < 36 * j
    · simp [below]
    · simp [BitVec.getLsbD_of_ge (f j) (36 * i + k - 36 * j) (by omega)]
  have fold := getLsbD_foldl_or (List.range 8) (fun _ => true) (fun j => (f j).setWidth 288 <<< (36 * j)) 0#288 (36 * i + k)
  rw [any_range_of_only h (fun j ne => by simp [bit j ne])] at fold
  simp only [if_true] at fold
  have inside : 36 * i + k < 288 := by omega
  rw [VReg.lane, VReg.build, BitVec.getLsbD_extractLsb', fold]
  simp [lt, inside]

@[simp] theorem VReg.build_lm (f : Nat → Lane) (lm : BitVec 8) : (VReg.build f lm).lm = lm := rfl

@[simp] theorem getLsbD_pairMask (act : BitVec 8) {i : Nat} (h : i < 8) : (pairMask act).getLsbD i = act.getLsbD (i - i % 2) :=
  getLsbD_mask8 _ h

end Sys2Proof

namespace Sys2Proof.Machine

/-! ### VOP -/

theorem Ctx.getV_setV (c : Ctx) (d q : VNum) (x : VReg) : (c.setV d x).getV q = if q = d then x else c.getV q := by
  unfold Ctx.getV Ctx.setV
  by_cases same : q = d
  · subst same
    rw [if_pos rfl]
    exact Vector.getElem_set_self q.isLt
  · have ne : d.toNat ≠ q.toNat := fun e => same (BitVec.eq_of_toNat_eq e.symm)
    rw [if_neg same]
    exact Vector.getElem_set_ne d.isLt q.isLt ne

/-- What a lane operation gives under VOP: the token of vd and the flags. -/
def vopResult (o : LOp) (vd va vb vc : VNum) (w : LaneW) (s : State) : VReg × Flags :=
  laneOp o w (s.me.mode w.rnd) (operand o w 0 w.asel (prefixReg s.me va vb vc) (s.me.getV vd))
    (operand o w 1 w.bsel (prefixReg s.me va vb vc) (s.me.getV vd)) (operand o w 2 w.csel (prefixReg s.me va vb vc) (s.me.getV vd))
    (s.me.getV vd) (s.me.getV va)

section

variable {s : State} {o : LOp} {vd va vb vc : VNum} {w : LaneW}

/-- Every lane operation under VOP is the one function `vop` of it. -/
theorem exec_vop (o : LOp) : exec (o.instr (.vop vd va vb vc) w) s = vop o vd va vb vc w s := by
  cases o <;> rfl

variable (legal : laneLegal true o w = true)

include legal

/-- A legal VOP none of whose flags is enabled writes vd, ORs its flags in and moves the PC (R98, R102). -/
theorem vop_completes (quiet : trapped w (vopResult o vd va vb vc w s).2 = 0#5) :
    ∃ t, exec (o.instr (.vop vd va vb vc) w) s = .next t ∧ Alone s t ∧ AtBoundary s.me t.me
      ∧ t.me.pc = s.me.pc + 12#64 ∧ t.me.fflags = s.me.fflags ||| (vopResult o vd va vb vc w s).2
      ∧ (∀ q, t.me.getV q = if q = vd then (vopResult o vd va vb vc w s).1 else s.me.getV q)
      ∧ t.me = { s.me.runAs t.me with v := t.me.v, fflags := t.me.fflags, pc := t.me.pc } := by
  obtain ⟨t, next, alone, boundary, me⟩ := retireWith_spec 3 (fun c => { c.setV vd (vopResult o vd va vb vc w s).1 with
    fflags := c.fflags ||| (vopResult o vd va vb vc w s).2 }) s rfl
  refine ⟨t, ?_, alone, boundary, by rw [me]; rfl, by rw [me]; rfl, fun q => ?_, ?_⟩
  · rw [exec_vop, vop, legal]
    exact (if_neg (not_not_intro quiet)).trans next
  · rw [← Ctx.getV_setV, me]
    rfl
  · rw [me]
    rfl

/-- A legal VOP with an enabled flag raised traps with no effect (R98, R102). -/
theorem vop_traps (hit : trapped w (vopResult o vd va vb vc w s).2 ≠ 0#5) (outside : s.me.it = false) :
    ∃ t, exec (o.instr (.vop vd va vb vc) w) s = .next t
      ∧ Trapped 5 ((trapped w (vopResult o vd va vb vc w s).2).setWidth 64) s.me.pc s t := by
  rw [exec_vop, vop, legal]
  simp only [Bool.not_true, Bool.false_eq_true, if_false]
  obtain ⟨t, next, entered⟩ := raise_spec 5 ((trapped w (vopResult o vd va vb vc w s).2).setWidth 64) s outside
  exact ⟨t, (if_pos hit).trans next, entered⟩

end

end Sys2Proof.Machine
end

section
/-! SUPPORT. The arithmetic of values in the terms of its rules: NaN operands first, then the exact result rounded once (R83, R84,
R105, R106, R109, R112); the special operands of the functions, and quotients and roots cut below the last bit (R105, R107). -/

namespace Sys2Proof.Num

/-! ### NaN operands, and results rounded once -/

/-- The first NaN among the operands, quiet, with NV where one is signalling; `r` where none is a NaN (R83). -/
def nanOr (xs : List FV) (r : FV × Flags) : FV × Flags :=
  match xs.filter FV.isNaN with
  | x :: _ => (x.quiet, if xs.any FV.isSignalling then nv else 0#5)
  | [] => r

/-- An exact result rounded once; where there is none, the NaN that the operation creates (R81, R83). -/
def roundedOr (f : Fmt) (rm : RMode) (x : Option FV) : FV × Flags :=
  match x with
  | some y => roundFV f rm y
  | none => created

/-- A sum: the NaN operand, or the exact sum rounded once (R105). -/
def sumOnce (f : Fmt) (rm : RMode) (a b : FV) : FV × Flags := nanOr [a, b] (roundedOr f rm (exactAdd rm a b))

/-- A difference, likewise (R105). -/
def differenceOnce (f : Fmt) (rm : RMode) (a b : FV) : FV × Flags := nanOr [a, b] (roundedOr f rm (exactAdd rm a b.neg))

/-- A product, likewise (R105). -/
def productOnce (f : Fmt) (rm : RMode) (a b : FV) : FV × Flags := nanOr [a, b] (roundedOr f rm (exactMul a b))

/-- A product and a sum with one rounding, the invalid product of zero and infinity beside any NaN (R83, R105). -/
def fusedOnce (f : Fmt) (rm : RMode) (negate : Bool) (a b c : FV) : FV × Flags :=
  let r := nanOr [a, b, c] (roundedOr f rm (((exactMul a b).map (fun p => if negate then p.neg else p)).bind
    (fun p => exactAdd rm p c)))
  (r.1, if zeroTimesInf a b then r.2 ||| nv else r.2)

/-- The larger or smaller of two values, a number before a NaN (R106). -/
def chosen (max : Bool) (a b : FV) : FV × Flags :=
  (if a.isNaN then (if b.isNaN then a.quiet else b) else if b.isNaN then a
    else if (if max then lt true a b else lt true b a) then b else a,
   if [a, b].any FV.isSignalling then nv else 0#5)

/-- Condition `c` of FCMP, said by the order and by NaN operands (R109). -/
def ordered (c : Nat) (x y : FV) : Bool :=
  match c with
  | 0 => !x.isNaN && !y.isNaN && !lt false x y && !lt false y x
  | 1 => x.isNaN || y.isNaN || lt false x y || lt false y x
  | 2 => !x.isNaN && !y.isNaN && lt false x y
  | 3 => !x.isNaN && !y.isNaN && (lt false x y || !lt false y x)
  | 4 => !x.isNaN && !y.isNaN && lt false y x
  | 5 => !x.isNaN && !y.isNaN && (lt false y x || !lt false x y)
  | 6 => x.isNaN || y.isNaN
  | _ => !(x.isNaN || y.isNaN)

/-- Whether condition `c` of FCMP is invalid for its operands (R109). -/
def unorderedInvalid (c : Nat) (x y : FV) : Bool :=
  x.isSignalling || y.isSignalling || ((x.isNaN || y.isNaN) && decide (2 ≤ c ∧ c ≤ 5))

theorem nanOr_eq_getD (xs : List FV) (r : FV × Flags) : nanOr xs r = (nanResult xs).getD r := by
  rw [nanOr, nanResult, ← List.head?_filter]
  cases xs.filter FV.isNaN <;> rfl

theorem nanResult_eq_none_iff {xs : List FV} : nanResult xs = none ↔ ∀ x ∈ xs, x.isNaN = false := by
  simp [nanResult]

theorem isNaN_neg (x : FV) : x.neg.isNaN = x.isNaN := by cases x <;> rfl

theorem isSignalling_of_number {x : FV} (h : x.isNaN = false) : x.isSignalling = false := by
  cases x
  case nan => simp [FV.isNaN] at h
  all_goals rfl

theorem addR_eq_sumOnce (f : Fmt) (rm : RMode) (a b : FV) : addR f rm a b = sumOnce f rm a b := by
  rw [sumOnce, nanOr_eq_getD, addR]
  cases nanResult [a, b] <;> cases exactAdd rm a b <;> rfl

theorem subR_eq_differenceOnce (f : Fmt) (rm : RMode) (a b : FV) : subR f rm a b = differenceOnce f rm a b := by
  rw [differenceOnce, nanOr_eq_getD, subR]
  cases numbers : nanResult [a, b] with
  | some r => rfl
  | none =>
    have negated : nanResult [a, b.neg] = none := by
      rw [nanResult_eq_none_iff] at numbers ⊢
      simpa [isNaN_neg] using numbers
    dsimp only
    rw [addR_eq_sumOnce, sumOnce, nanOr_eq_getD, negated]

theorem mulR_eq_productOnce (f : Fmt) (rm : RMode) (a b : FV) : mulR f rm a b = productOnce f rm a b := by
  rw [productOnce, nanOr_eq_getD, mulR]
  cases nanResult [a, b] <;> cases exactMul a b <;> rfl

/-- The product of zero and infinity is the one of two numbers that does not exist (R83). -/
theorem exactMul_eq_none_iff {a b : FV} (na : a.isNaN = false) (nb : b.isNaN = false) :
    exactMul a b = none ↔ zeroTimesInf a b = true := by
  cases a <;> cases b <;> simp_all [exactMul, zeroTimesInf, FV.isNaN]

theorem fmaR_eq_fusedOnce (f : Fmt) (rm : RMode) (negate : Bool) (a b c : FV) : fmaR f rm negate a b c = fusedOnce f rm negate a b c := by
  rw [fusedOnce, nanOr_eq_getD, fmaR]
  cases numbers : nanResult [a, b, c] with
  | some r => rfl
  | none =>
    have number := nanResult_eq_none_iff.mp numbers
    have exists_iff := exactMul_eq_none_iff (number a (by simp)) (number b (by simp))
    cases product : exactMul a b with
    | none => simp [exists_iff.mp product, roundedOr, created]
    | some x =>
      have finite : zeroTimesInf a b = false := by
        rw [← Bool.not_eq_true, ← exists_iff, product]
        exact Option.some_ne_none x
      cases sum : exactAdd rm (if negate then x.neg else x) c <;> simp [finite, sum, roundedOr]

theorem minMaxR_eq_chosen (isMax : Bool) (a b : FV) : minMaxR isMax a b = chosen isMax a b := by
  rw [minMaxR, chosen]
  cases na : a.isNaN <;> cases nb : b.isNaN
  · have quiet : [a, b].any FV.isSignalling = false := by simp [isSignalling_of_number na, isSignalling_of_number nb]
    cases isMax <;> simp [quiet]
  all_goals simp [snan]

theorem fcmp_eq (c : Nat) (x y : FV) : fcmp c x y = (ordered c x y, if unorderedInvalid c x y then nv else 0#5) := by
  unfold fcmp ordered unorderedInvalid
  refine Prod.ext ?_ ?_
  · dsimp only
    generalize x.isNaN = p, y.isNaN = q, lt false x y = below, lt false y x = above
    rcases c with _ | _ | _ | _ | _ | _ | _ | c <;> cases p <;> cases q <;> grind
  · dsimp only
    cases x.isNaN || y.isNaN <;> cases decide (2 ≤ c ∧ c ≤ 5) <;> simp [snan]

/-! ### Quotients and roots (R105) -/

theorem bne_eq_decide_ne (a b : Nat) : (a != b) = decide (a ≠ b) := by
  rw [Bool.eq_iff_iff, bne_iff_ne, decide_eq_true_iff]

theorem isqrtAux_spec (n : Nat) : ∀ (fuel r : Nat), r * r ≤ n → n < (r + 2 ^ fuel) * (r + 2 ^ fuel) →
    isqrtAux n fuel r * isqrtAux n fuel r ≤ n ∧ n < (isqrtAux n fuel r + 1) * (isqrtAux n fuel r + 1)
  | 0, _, low, high => ⟨low, high⟩
  | fuel + 1, r, low, high => by
    rw [isqrtAux]
    split
    · next fits =>
      refine isqrtAux_spec n fuel _ fits ?_
      rwa [Nat.add_assoc, ← Nat.two_mul, ← Nat.pow_succ']
    · next large => exact isqrtAux_spec n fuel r low (Nat.lt_of_not_le large)

/-- The integer square root is the root cut to an integer. -/
theorem isqrt_spec (n : Nat) : isqrt n * isqrt n ≤ n ∧ n < (isqrt n + 1) * (isqrt n + 1) := by
  refine isqrtAux_spec n _ 0 (Nat.zero_le n) ?_
  calc n < 2 ^ (Nat.log2 n + 1) := Nat.lt_log2_self
    _ ≤ 2 ^ ((Nat.log2 n / 2 + 1) + (Nat.log2 n / 2 + 1)) := Nat.pow_le_pow_right (by decide) (by omega)
    _ = _ := by rw [Nat.pow_add, Nat.zero_add]

/-- A root is at least `2 ^ k` where its square reaches `2 ^ (2 * k)`. -/
theorem two_pow_le_isqrt {n k : Nat} (h : 2 ^ (2 * k) ≤ n) : 2 ^ k ≤ isqrt n := by
  by_contra below
  have high := (isqrt_spec n).2
  have square : (isqrt n + 1) * (isqrt n + 1) ≤ 2 ^ k * 2 ^ k := Nat.mul_le_mul (by omega) (by omega)
  rw [← Nat.pow_add, ← Nat.two_mul] at square
  omega

theorem evenExp_pos {m : Nat} (e : Int) (h : 0 < m) : 0 < (evenExp m e).1 := by
  unfold evenExp
  split
  · exact h
  · exact Nat.mul_pos (by decide) h

/-- A quotient of two magnitudes is cut at least two bits below the last bit that the format keeps, and rounded once. -/
theorem divR_fin (f : Fmt) (rm : RMode) (s : Bool) {m n : Nat} (e d : Int) (hm : 0 < m) (hn : 0 < n) :
    ∃ k q : Nat, q = m * 2 ^ k / n ∧ 2 ^ (f.p + 2) ≤ q
      ∧ divR f rm (.fin s m e) (.fin false n d) = roundTo f rm s q (e - d - k) (q * n ≠ m * 2 ^ k) := by
  have kept (k : Nat) (bits : f.p + 4 + Nat.log2 n ≤ Nat.log2 m + k) : 2 ^ (f.p + 2) ≤ m * 2 ^ k / n := by
    rw [Nat.le_div_iff_mul_le hn]
    calc 2 ^ (f.p + 2) * n ≤ 2 ^ (f.p + 2) * 2 ^ (Nat.log2 n + 1) := Nat.mul_le_mul_left _ Nat.lt_log2_self.le
      _ = 2 ^ (f.p + 2 + (Nat.log2 n + 1)) := (Nat.pow_add ..).symm
      _ ≤ 2 ^ (Nat.log2 m + k) := Nat.pow_le_pow_right (by decide) (by omega)
      _ = 2 ^ Nat.log2 m * 2 ^ k := Nat.pow_add ..
      _ ≤ m * 2 ^ k := Nat.mul_le_mul_right _ (Nat.log2_self_le hm.ne')
  have rest (M : Nat) : (M % n != 0) = decide (M / n * n ≠ M) := by
    have split := Nat.div_add_mod' M n
    rw [bne_eq_decide_ne, decide_eq_decide]
    omega
  refine ⟨f.p + 4 + Nat.log2 n - Nat.log2 m, _, rfl, kept _ (by omega), ?_⟩
  rw [← rest, ← Nat.shiftLeft_eq]
  cases s <;> rfl

/-- A square root is cut below the last bit that the format keeps, and rounded once. -/
theorem sqrtR_fin (f : Fmt) (rm : RMode) {m : Nat} (e : Int) (hm : 0 < m) :
    ∃ k q : Nat, let x := evenExp m e
      q * q ≤ x.1 * 2 ^ (2 * k) ∧ x.1 * 2 ^ (2 * k) < (q + 1) * (q + 1) ∧ 2 ^ (f.p + 2) ≤ q
      ∧ sqrtR f rm (.fin false m e) = roundTo f rm false q (x.2 / 2 - k) (q * q ≠ x.1 * 2 ^ (2 * k)) := by
  have large : 2 ^ (2 * (f.p + 2)) ≤ (evenExp m e).1 * 2 ^ (2 * (f.p + 4)) :=
    (Nat.pow_le_pow_right (by decide) (by omega)).trans (Nat.le_mul_of_pos_left _ (evenExp_pos e hm))
  obtain ⟨low, high⟩ := isqrt_spec ((evenExp m e).1 * 2 ^ (2 * (f.p + 4)))
  refine ⟨f.p + 4, _, low, high, two_pow_le_isqrt large, ?_⟩
  rw [← bne_eq_decide_ne, ← Nat.shiftLeft_eq]
  rfl

/-- So is the reciprocal of a root. -/
theorem rsqrtR_fin (f : Fmt) (rm : RMode) {m : Nat} (e : Int) (hm : 0 < m) :
    ∃ k q : Nat, let x := evenExp m e
      q * q * x.1 ≤ 2 ^ (2 * k) ∧ 2 ^ (2 * k) < (q + 1) * (q + 1) * x.1 ∧ 2 ^ (f.p + 2) ≤ q
      ∧ rsqrtR f rm (.fin false m e) = roundTo f rm false q (-(x.2 / 2) - k) (q * q * x.1 ≠ 2 ^ (2 * k)) := by
  have pos := evenExp_pos e hm
  have large (x : Nat) (pos : 0 < x) : 2 ^ (2 * (f.p + 2)) ≤ 2 ^ (2 * (f.p + 4 + Nat.log2 x)) / x := by
    rw [Nat.le_div_iff_mul_le pos]
    calc 2 ^ (2 * (f.p + 2)) * x ≤ 2 ^ (2 * (f.p + 2)) * 2 ^ (Nat.log2 x + 1) := Nat.mul_le_mul_left _ Nat.lt_log2_self.le
      _ = 2 ^ (2 * (f.p + 2) + (Nat.log2 x + 1)) := (Nat.pow_add ..).symm
      _ ≤ _ := Nat.pow_le_pow_right (by decide) (by omega)
  obtain ⟨low, high⟩ := isqrt_spec (2 ^ (2 * (f.p + 4 + Nat.log2 (evenExp m e).1)) / (evenExp m e).1)
  refine ⟨f.p + 4 + Nat.log2 (evenExp m e).1, _, (Nat.le_div_iff_mul_le pos).mp low, (Nat.div_lt_iff_lt_mul pos).mp high,
    two_pow_le_isqrt (large _ pos), ?_⟩
  rw [← bne_eq_decide_ne]
  rfl

/-! ### Special operands (R107) -/

/-- The logarithm of a power of two below one, held as 2^n * 2^-n, is that of 1. -/
theorem log2R_one (f : Fmt) (rm : RMode) (n : Nat) : log2R f rm (.fin false (2 ^ n) (-n)) = (.zero false, 0#5) := by
  simp [log2R, topBit, ofInt, roundFV]

theorem divR_nan (f : Fmt) (rm : RMode) {a b y : FV} (first : [a, b].find? FV.isNaN = some y) :
    divR f rm a b = (y.quiet, snan [a, b]) := by
  simp [divR, nanResult, first]

end Sys2Proof.Num
end

section
/-! SUPPORT. Results given lane by lane: lane-wise operations, operations on pairs, comparisons, moves of lanes, reductions, integers and
conversions, each as its rule says it (R78, R79, R85, R86, R99, R109 to R113, R118, R120). -/

namespace Sys2Proof

/-! ### Results, lane by lane -/

/-- A result whose bits of LM, lanes and flags are given lane by lane, the flags ORed over the lanes (R85). -/
def Bears (r : VReg × Flags) (lm : Nat → Bool) (lane : Nat → Lane) (flags : Nat → Flags) : Prop :=
  (∀ i, i < 8 → r.1.lm.getLsbD i = lm i ∧ r.1.lane i = lane i)
    ∧ ∀ k, r.2.getLsbD k = true ↔ ∃ i, i < 8 ∧ (flags i).getLsbD k = true

theorem bears_mk {v : VReg} {fl : Flags} {lm : Nat → Bool} {lane : Nat → Lane} {flags : Nat → Flags}
    (lanes : ∀ i, i < 8 → v.lm.getLsbD i = lm i ∧ v.lane i = lane i)
    (collected : ∀ k, fl.getLsbD k = true ↔ ∃ i, i < 8 ∧ (flags i).getLsbD k = true) : Bears (v, fl) lm lane flags :=
  ⟨lanes, collected⟩

/-- A result whose flags are those of every lane alike. -/
theorem bears_of_flags {r : VReg × Flags} {lm : Nat → Bool} {lane : Nat → Lane} {fl : Flags} (flags : r.2 = fl)
    (lanes : ∀ i, i < 8 → r.1.lm.getLsbD i = lm i ∧ r.1.lane i = lane i) : Bears r lm lane (fun _ => fl) :=
  ⟨lanes, fun k => ⟨fun h => ⟨0, by decide, flags ▸ h⟩, fun ⟨_, _, h⟩ => flags ▸ h⟩⟩

/-- Flags collected over active lanes (R85). -/
theorem getLsbD_orFlags_lanes (act : Nat → Bool) (f : Nat → Flags) (k : Nat) : (orFlags 8 act f).getLsbD k = true
    ↔ ∃ i, i < 8 ∧ (if act i then f i else 0#5).getLsbD k = true := by
  rw [getLsbD_orFlags]
  refine exists_congr fun i => and_congr_right fun _ => ?_
  cases act i <;> simp

/-- Flags collected over active pairs, each seen in both its lanes (R78, R85). -/
theorem getLsbD_orFlags_pairs (act : Nat → Bool) (f : Nat → Flags) (k : Nat) :
    (orFlags 4 (fun p => act (2 * p)) f).getLsbD k = true
      ↔ ∃ i, i < 8 ∧ (if act (i / 2 * 2) then f (i / 2) else 0#5).getLsbD k = true := by
  rw [getLsbD_orFlags]
  constructor
  · rintro ⟨p, lt, on, bit⟩
    refine ⟨2 * p, by omega, ?_⟩
    rw [Nat.mul_div_cancel_left p (by decide), Nat.mul_comm p 2, if_pos on]
    exact bit
  · rintro ⟨i, lt, bit⟩
    split at bit
    · next on => exact ⟨i / 2, by omega, by rwa [Nat.mul_comm], bit⟩
    · simp at bit

theorem lanewise_bears (act : BitVec 8) (a : VReg) (f : Nat → Lane × Flags) : Bears (lanewise act a f) (act.getLsbD ·)
    (fun i => if act.getLsbD i then (f i).1 else a.lane i) (fun i => if act.getLsbD i then (f i).2 else 0#5) := by
  exact bears_mk (fun _ lt => ⟨rfl, VReg.build_lane _ _ lt⟩) (getLsbD_orFlags_lanes _ _)

/-- Half `i % 2` of a pair. -/
theorem half_eq_extractLsb' (x : BitVec 72) (i : Nat) : (x >>> (36 * (i % 2))).setWidth 36 = x.extractLsb' (i % 2 * 36) 36 := by
  rw [Nat.mul_comm]
  rfl

theorem sub_mod_two (i : Nat) : i - i % 2 = i / 2 * 2 := by omega

theorem getLsbD_both_halves (i : Nat) : (3#8).getLsbD (i % 2) = true := by
  rcases Nat.mod_two_eq_zero_or_one i with h | h <;> rw [h] <;> rfl

theorem pairwise_bears (act : BitVec 8) (a : VReg) (f : Nat → BitVec 72 × Flags) : Bears (pairwise act a f)
    (fun i => act.getLsbD (i / 2 * 2) && (3#8).getLsbD (i % 2))
    (fun i => if act.getLsbD (i / 2 * 2) then (f (i / 2)).1.extractLsb' (i % 2 * 36) 36 else a.lane i)
    (fun i => if act.getLsbD (i / 2 * 2) then (f (i / 2)).2 else 0#5) := by
  refine bears_mk (fun i lt => ⟨?_, ?_⟩) (getLsbD_orFlags_pairs (act.getLsbD ·) _)
  · rw [VReg.build_lm, getLsbD_pairMask act lt, sub_mod_two, getLsbD_both_halves, Bool.and_true]
  · rw [VReg.build_lane _ _ lt, sub_mod_two, half_eq_extractLsb']

/-- A result on pairs of which only the low half stays active (R120). -/
def lowHalves (r : VReg × Flags) : VReg × Flags := ({ r.1 with lm := r.1.lm &&& 0x55#8 }, r.2)

theorem lowHalves_bears {r : VReg × Flags} {act : BitVec 8} {lane : Nat → Lane} {flags : Nat → Flags}
    (whole : Bears r (fun i => act.getLsbD (i / 2 * 2) && (3#8).getLsbD (i % 2)) lane flags) :
    Bears (lowHalves r) (fun i => act.getLsbD (i / 2 * 2) && (1#8).getLsbD (i % 2)) lane flags := by
  refine bears_mk (fun i lt => ⟨?_, (whole.1 i lt).2⟩) whole.2
  have half : (0x55#8).getLsbD i = (1#8).getLsbD (i % 2) := by interval_cases i <;> rfl
  rw [BitVec.getLsbD_and, (whole.1 i lt).1, half]
  simp only [getLsbD_both_halves, Bool.and_true]

/-- A comparison, lane by lane or pair by pair (R109): `at'` is where lane `i` has its bit of LM, `holds` and `invalid` are what the
comparison says there. -/
theorem compareLanes_bears {pairs : Bool} (act : BitVec 8) (masked : Bool) (a : VReg) {cond : Nat → Bool × Flags} {at' : Nat → Nat}
    {holds invalid : Nat → Bool} (place : ∀ i, at' i = if pairs then i / 2 * 2 else i)
    (said : ∀ i, cond (if pairs then i / 2 else i) = (holds i, if invalid i then Num.nv else 0#5)) :
    Bears (compareLanes pairs act masked a cond) (fun i => act.getLsbD (at' i) && (!masked || holds i))
      (fun i => if act.getLsbD (at' i) then (if holds i then 1#36 else 0#36) else a.lane i)
      (fun i => if act.getLsbD (at' i) && invalid i then Num.nv else 0#5) := by
  have flags (on p : Bool) : (if on && p then Num.nv else 0#5) = if on then (if p then Num.nv else 0#5) else 0#5 := by
    cases on <;> rfl
  simp only [place, flags]
  cases pairs
  case false =>
    have whole (i : Nat) : cond i = (holds i, if invalid i then Num.nv else 0#5) := said i
    refine bears_mk (fun i lt => ⟨?_, ?_⟩) fun k => ?_
    · exact (getLsbD_mask8 _ lt).trans (by simp [whole])
    · exact (VReg.build_lane _ _ lt).trans (by simp [whole, boolLane])
    · exact (getLsbD_orFlags_lanes _ _ k).trans (by simp [whole])
  case true =>
    have half (i : Nat) : cond (i / 2) = (holds i, if invalid i then Num.nv else 0#5) := said i
    refine bears_mk (fun i lt => ⟨?_, ?_⟩) fun k => ?_
    · exact (getLsbD_mask8 _ lt).trans (by simp [sub_mod_two, half])
    · exact (VReg.build_lane _ _ lt).trans (by simp [sub_mod_two, half, boolLane])
    · exact (getLsbD_orFlags_pairs (act.getLsbD ·) _ k).trans (by simp [half])

/-- A token of lanes that travel, each with its bit of LM (R99, R113). -/
theorem travel_bears (src : Nat → Option (VReg × Nat)) : Bears (travel src, 0#5)
    (fun i => match src i with | some x => x.1.lm.getLsbD x.2 | none => false)
    (fun i => match src i with | some x => x.1.lane x.2 | none => 0#36) (fun _ => 0#5) := by
  refine bears_of_flags rfl fun i lt => ?_
  rw [travel, VReg.build_lm, getLsbD_mask8 _ lt, VReg.build_lane _ _ lt]
  cases src i <;> exact ⟨rfl, rfl⟩

/-! ### Reductions (R112) -/

/-- A reduction over no lane, or over no pair, is a bubble. -/
theorem reduced_zero (kind : LaneKind) (a : VReg) (r : Nat × Flags) : reduced 0#8 kind a r = ({ a with lm := 0#8 }, 0#5) := by
  cases kind <;> rfl

theorem reduced_pair_none {act : BitVec 8} (a : VReg) (r : Nat × Flags) (none : ∀ p, p < 4 → act.getLsbD (2 * p) = false) :
    reduced act .fd a r = ({ a with lm := 0#8 }, 0#5) := by
  have empty : (List.range 4).all (fun p => !act.getLsbD (2 * p)) = true := by simpa using none
  rw [reduced, empty]
  rfl

theorem bubble_bears (a : VReg) : Bears ({ a with lm := 0#8 }, 0#5) (fun i => decide (i < 0))
    (fun i => if i < 0 then a.lane i else a.lane i) (fun _ => 0#5) :=
  bears_of_flags rfl fun i _ => by simp [VReg.lane]

/-- A reduction to one lane. -/
theorem reduced_lane_bears {act : BitVec 8} {kind : LaneKind} (a : VReg) (x : Lane) (fl : Flags) (lanes : kind ≠ .fd)
    (some : act ≠ 0#8) : Bears (reduced act kind a (x.toNat, fl)) (fun i => decide (i < 1))
      (fun i => if i < 1 then x else a.lane i) (fun _ => fl) := by
  have result : reduced act kind a (x.toNat, fl) = (VReg.build (fun i => if i = 0 then x else a.lane i) 0x01#8, fl) := by
    cases kind
    case fd => exact absurd rfl lanes
    all_goals simp [reduced, some]
  rw [result]
  refine bears_of_flags rfl fun i lt => ⟨?_, by rw [VReg.build_lane _ _ lt]; simp only [Nat.lt_one_iff]⟩
  rw [VReg.build_lm]
  interval_cases i <;> rfl

/-- A reduction to one pair. -/
theorem reduced_pair_bears {act : BitVec 8} (a : VReg) (x : BitVec 72) (fl : Flags) (some : ∃ p, p < 4 ∧ act.getLsbD (2 * p) = true) :
    Bears (reduced act .fd a (x.toNat, fl)) (fun i => decide (i < 2))
      (fun i => if i < 2 then x.extractLsb' (36 * i) 36 else a.lane i) (fun _ => fl) := by
  have active : (List.range 4).all (fun p => !act.getLsbD (2 * p)) = false := by simpa using some
  have result : reduced act .fd a (x.toNat, fl)
      = (VReg.build (fun i => if i < 2 then x.extractLsb' (36 * i) 36 else a.lane i) 0x03#8, fl) := by
    rw [reduced, active]
    rfl
  rw [result]
  refine bears_of_flags rfl fun i lt => ⟨?_, VReg.build_lane _ _ lt⟩
  rw [VReg.build_lm]
  interval_cases i <;> rfl

/-! ### Integers of lanes (R79, R86, R111) -/

/-- The value of an I32 lane, signed or, under FMT 3, unsigned (R79, R111). -/
def laneInt (w : LaneW) (x : Lane) : Int := if w.fmt = 3#4 then (i32 x).toNat else (i32 x).toInt

theorem ofInt_laneInt (w : LaneW) (x : Lane) : BitVec.ofInt 32 (laneInt w x) = i32 x := by
  unfold laneInt
  split
  · rw [BitVec.ofInt_natCast, BitVec.ofNat_toNat, BitVec.setWidth_eq]
  · exact BitVec.ofInt_toInt

theorem mulHigh32_eq (w : LaneW) (x y : Lane) :
    mulHigh32 (w.fmt == 3#4) (i32 x) (i32 y) = BitVec.ofInt 32 (laneInt w x * laneInt w y / 2 ^ 32) := by
  have high (z : Int) : (BitVec.ofInt 64 z >>> 32).setWidth 32 = BitVec.ofInt 32 (z / 2 ^ 32) := by
    apply BitVec.eq_of_toNat_eq
    simp only [BitVec.toNat_setWidth, BitVec.toNat_ushiftRight, BitVec.toNat_ofInt, Nat.shiftRight_eq_div_pow]
    omega
  by_cases unsigned : w.fmt = 3#4
  · simp only [mulHigh32, laneInt, unsigned, beq_self_eq_true, if_true]
    rw [← high, ← Int.natCast_mul, BitVec.ofInt_natCast]
  · rw [mulHigh32, laneInt, laneInt, if_neg unsigned, if_neg unsigned, beq_false_of_ne unsigned, ← high]
    rfl

theorem satAdd32_eq (w : LaneW) (x y : Lane) : satAdd32 (w.fmt == 3#4) (i32 x) (i32 y)
    = BitVec.ofInt 32 (clampInt (if w.fmt = 3#4 then 0 else -2 ^ 31) (if w.fmt = 3#4 then 2 ^ 32 - 1 else 2 ^ 31 - 1)
        (laneInt w x + laneInt w y)) := by
  by_cases unsigned : w.fmt = 3#4 <;> simp [satAdd32, laneInt, unsigned]

theorem mul_add_eq (w : LaneW) (x y z : Lane) :
    i32 x * i32 y + i32 z = BitVec.ofInt 32 (laneInt w x * laneInt w y + laneInt w z) := by
  rw [BitVec.ofInt_add, BitVec.ofInt_mul, ofInt_laneInt, ofInt_laneInt, ofInt_laneInt]

theorem ofInt_natAbs_laneInt {w : LaneW} (signed : w.fmt ≠ 3#4) (x : Lane) :
    (if (i32 x).msb then -i32 x else i32 x) = BitVec.ofInt 32 (laneInt w x).natAbs := by
  rw [laneInt, if_neg signed, BitVec.msb_eq_toInt]
  by_cases negative : (i32 x).toInt < 0
  · rw [Int.ofNat_natAbs_of_nonpos (by omega), BitVec.ofInt_neg, BitVec.ofInt_toInt]
    simp [negative]
  · rw [Int.natAbs_of_nonneg (by omega), BitVec.ofInt_toInt]
    simp [negative]

theorem cvtfi_eq (w : LaneW) (rm : Num.RMode) (x : Num.FV) : cvtfi (w.fmt == 3#4) rm x
    = (ofI32 (BitVec.ofInt 32 (Num.toIntSat rm (if w.fmt = 3#4 then 0 else -2 ^ 31)
          (if w.fmt = 3#4 then 2 ^ 32 - 1 else 2 ^ 31 - 1) x).1),
       (Num.toIntSat rm (if w.fmt = 3#4 then 0 else -2 ^ 31) (if w.fmt = 3#4 then 2 ^ 32 - 1 else 2 ^ 31 - 1) x).2) := by
  by_cases unsigned : w.fmt = 3#4 <;> simp [cvtfi, unsigned]

theorem cvtif_eq (w : LaneW) (rm : Num.RMode) (x : Lane) : cvtif (w.fmt == 3#4) rm (i32 x)
    = ffLane (if laneInt w x = 0 then (.zero false, 0#5)
        else Num.roundFV Num.ff36 rm (.fin (decide (laneInt w x < 0)) (laneInt w x).natAbs 0)) := by
  have value : (if w.fmt == 3#4 then ((i32 x).toNat : Int) else (i32 x).toInt) = laneInt w x := by simp [laneInt]
  rw [cvtif, value, Num.ofInt]
  split <;> rfl

theorem int2_flags (act : BitVec 8) (a b : Opd) (f : BitVec 32 → BitVec 32 → BitVec 32) : (int2 act a b f).2 = 0#5 := by
  refine BitVec.eq_of_getLsbD_eq fun k _ => ?_
  rw [BitVec.getLsbD_zero, Bool.eq_false_iff]
  intro bit
  obtain ⟨i, -, -, none⟩ := (getLsbD_orFlags _ _ _ k).mp bit
  simp at none

/-! ### Minima and maxima of R111, by the order of the integers -/

theorem signedMin_eq (x y : BitVec 32) : (if y.slt x then y else x) = if x.toInt ≤ y.toInt then x else y := by
  simp only [BitVec.slt_eq_decide, decide_eq_true_eq, ← Int.not_le, ite_not]

theorem signedMax_eq (x y : BitVec 32) : (if x.slt y then y else x) = if x.toInt ≤ y.toInt then y else x := by
  by_cases same : x.toInt = y.toInt
  · simp [BitVec.eq_of_toInt_eq same]
  · have strict : x.toInt < y.toInt ↔ x.toInt ≤ y.toInt := by omega
    simp [BitVec.slt_eq_decide, strict]

theorem unsignedMin_eq (x y : BitVec 32) : (if y.ult x then y else x) = if x.toNat ≤ y.toNat then x else y := by
  simp only [BitVec.ult_eq_decide, decide_eq_true_eq, ← Nat.not_le, ite_not]

theorem unsignedMax_eq (x y : BitVec 32) : (if x.ult y then y else x) = if x.toNat ≤ y.toNat then y else x := by
  by_cases same : x.toNat = y.toNat
  · simp [BitVec.eq_of_toNat_eq same]
  · have strict : x.toNat < y.toNat ↔ x.toNat ≤ y.toNat := by omega
    simp [BitVec.ult_eq_decide, strict]

/-! ### Conversions of floating values (R86, R118, R120) -/

theorem cvtfd_eq (x : Num.FV) : cvtfd x = (Num.packFD x.quiet, if x.isSignalling then Num.nv else 0#5) := by
  simp [cvtfd, Num.snan]

theorem cvtdf_eq (rm : Num.RMode) (x : Num.FV) : cvtdf rm x = Num.nanOr [x] (Num.roundFV Num.ff36 rm x) := by
  cases x <;> rfl

theorem Num.FV.scale_zero (x : Num.FV) : x.scale 0 = x := by
  cases x <;> simp [Num.FV.scale]

/-- Inward conversion without a block scale. -/
theorem convIn_unscaled (t : Num.SFloat) (n : Nat) : Num.convIn t 127 n
    = ((t.unpack n).quiet, if (t.unpack n).isSignalling then Num.nv else 0#5) := by
  simp [Num.convIn, Num.snan, Num.FV.scale_zero]

/-- Outward conversion without a block scale, in a rounding mode. -/
theorem convOut_unscaled (t : Num.SFloat) (rm : Num.RMode) (x : Num.FV) : Num.convOut t 127 (.mode rm) x
    = ((t.pack (Num.roundFV t.fmt rm x).1).1, (Num.roundFV t.fmt rm x).2 ||| (t.pack (Num.roundFV t.fmt rm x).1).2
        ||| if x.isSignalling then Num.nv else 0#5) := by
  simp [Num.convOut, Num.snan, Num.FV.scale_zero]

/-- CVTIN of a storage format that takes a block scale, without one. -/
theorem cvtin_unscaled {w : LaneW} (param : w.param = 0#16) (least : 1 ≤ w.fmt.toNat) (most : w.fmt.toNat ≤ 6) (act : BitVec 8)
    (a c : Opd) : cvtin w act a c = lanewise act a.v (fun i =>
      let x := (sfloat w.fmt.toNat).unpack ((a.v.lane i).toNat % 2 ^ storageBits w.fmt.toNat)
      (Num.packFF x.quiet, if x.isSignalling then Num.nv else 0#5)) := by
  have unscaled : scaleOf (w.param.getLsbD 0) c.v = 127 := by rw [param]; rfl
  rw [cvtin, unscaled, if_neg (by omega), if_pos most]
  simp only [convIn_unscaled]
  rfl

/-- CVTOUT of such a format, without a block scale and in a rounding mode. -/
theorem cvtout_unscaled {w : LaneW} (param : w.param = 0#16) (least : 1 ≤ w.fmt.toNat) (most : w.fmt.toNat ≤ 6)
    (mode : w.rnd ≠ 5#3) (rm : Num.RMode) (act : BitVec 8) (a b c : Opd) : cvtout w rm act a b c = lanewise act a.v (fun i =>
      let x := Num.unpackFF (a.v.lane i)
      let r := Num.roundFV (sfloat w.fmt.toNat).fmt rm x
      let n := (sfloat w.fmt.toNat).pack r.1
      (BitVec.ofNat 36 n.1, r.2 ||| n.2 ||| if x.isSignalling then Num.nv else 0#5)) := by
  have unscaled : scaleOf (w.param.getLsbD 5) c.v = 127 := by rw [param]; rfl
  have rounds (i : Nat) : outRound w rm b.v i = .mode rm := by simp [outRound, mode]
  rw [cvtout, unscaled, if_neg (by omega), if_pos most]
  simp only [rounds, convOut_unscaled]

/-! ### Lanes that travel (R113) -/

theorem permSrc_eq (w : LaneW) (i : Nat) : permSrc w i = (w.imm.toNat % 256 * 2 ^ 16 + w.param.toNat) / 2 ^ (3 * i) % 8 := by
  rw [permSrc, Nat.shiftRight_eq_div_pow]
  rfl

theorem lshiftSrc_eq (a b : VReg) (p : BitVec 16) (i : Nat) : lshiftSrc a b (shiftCount p) i
    = (let k : Int := 8 + i - (p.setWidth 4).toInt
       if k < 8 then some (b, k.toNat) else if k < 16 then some (a, (k - 8).toNat) else some (b, (k - 16).toNat)) := by
  have high : (p.setWidth 4).toInt < 8 := BitVec.toInt_lt
  simp only [lshiftSrc, shiftCount]
  grind

/-! ### Sums and maxima over lanes (R112) -/

theorem foldl_add_eq {l : List Nat} (on : Nat → Bool) (f : Nat → BitVec 32) (x : BitVec 32) :
    l.foldl (fun acc i => if on i then acc + f i else acc) x
      = x + BitVec.ofNat 32 (((l.filter on).map f).map BitVec.toNat).sum := by
  induction l generalizing x with
  | nil => simp
  | cons i l ih =>
    rw [List.foldl_cons, ih]
    cases h : on i <;> simp [h, BitVec.ofNat_add, BitVec.add_assoc]

theorem toInt_foldl_larger (l : List (BitVec 32)) (x : BitVec 32) :
    (l.foldl (fun acc y => if acc.slt y then y else acc) x).toInt = (l.map BitVec.toInt).foldl max x.toInt := by
  induction l generalizing x with
  | nil => rfl
  | cons y l ih =>
    rw [List.foldl_cons, ih, List.map_cons, List.foldl_cons]
    congr 1
    rw [BitVec.slt_eq_decide]
    simp only [decide_eq_true_eq]
    split <;> omega

/-- The largest of some signed numbers, as a number. -/
theorem ofInt_foldl_max (x : BitVec 32) (l : List (BitVec 32)) :
    BitVec.ofInt 32 (((x :: l).map BitVec.toInt).foldl max (-2 ^ 31)) = l.foldl (fun acc y => if acc.slt y then y else acc) x := by
  rw [List.map_cons, List.foldl_cons, max_eq_right (BitVec.le_toInt x), ← toInt_foldl_larger, BitVec.ofInt_toInt]

/-- The active lanes, and the active pairs, of a token. -/
def lanesOn (v : VReg) : List Nat := (List.range 8).filter (v.lm.getLsbD ·)
def pairsOn (v : VReg) : List Nat := (List.range 4).filter (fun p => v.lm.getLsbD (2 * p))

/-- A sum of two results of LSUM, with the flags of both and its own. -/
def plusOnce (f : Num.Fmt) (rm : Num.RMode) (x y : Num.FV × Flags) : Num.FV × Flags :=
  ((Num.sumOnce f rm x.1 y.1).1, x.2 ||| y.2 ||| (Num.sumOnce f rm x.1 y.1).2)

theorem addFl_eq_plusOnce (f : Num.Fmt) (rm : Num.RMode) : addFl f rm = plusOnce f rm := by
  funext x y
  rw [addFl, Num.addR_eq_sumOnce, plusOnce, BitVec.or_comm (x.2 ||| y.2), ← BitVec.or_assoc]

/-- The sum of four operands from the `k`-th on, as a tree. -/
def sumFour (plus : Num.FV × Flags → Num.FV × Flags → Num.FV × Flags) (x : Nat → Num.FV × Flags) (k : Nat) : Num.FV × Flags :=
  plus (plus (x k) (x (k + 1))) (plus (x (k + 2)) (x (k + 3)))

/-- A lane and a pair as operands of a sum: +0 where they are not active. -/
def laneTerm (v : VReg) (i : Nat) : Num.FV × Flags := (if v.lm.getLsbD i then Num.unpackFF (v.lane i) else .zero false, 0#5)
def pairTerm (v : VReg) (p : Nat) : Num.FV × Flags :=
  (if v.lm.getLsbD (2 * p) then Num.unpackFD (v.pair p) else .zero false, 0#5)

/-- The largest of some values, taken one after another, quiet at the end. -/
def largestOf (xs : List Num.FV) : Num.FV × Flags :=
  match xs with
  | x :: ys =>
    let first : Flags := if x.isSignalling then Num.nv else 0#5
    let r : Num.FV × Flags := ys.foldl (fun m y => ((Num.chosen true m.1 y).1, m.2 ||| (Num.chosen true m.1 y).2)) (x, first)
    (r.1.quiet, r.2)
  | [] => (.zero false, 0#5)

theorem maxOf_eq_largestOf (xs : List Num.FV) : maxOf xs = largestOf xs := by
  have pick : Num.minMaxR true = Num.chosen true := funext₂ (Num.minMaxR_eq_chosen true)
  cases xs with
  | nil => rfl
  | cons x ys => simp [maxOf, largestOf, pick, Num.snan]

/-- What LSUM and LMAX give for FF36 lanes and for FD72 pairs. -/
def laneReduction (o : LOp) (rm : Num.RMode) (v : VReg) : Num.FV × Flags :=
  if o = .lsum then plusOnce Num.ff36 rm (sumFour (plusOnce Num.ff36 rm) (laneTerm v) 0) (sumFour (plusOnce Num.ff36 rm) (laneTerm v) 4)
  else largestOf ((lanesOn v).map (fun i => Num.unpackFF (v.lane i)))
def pairReduction (o : LOp) (rm : Num.RMode) (v : VReg) : Num.FV × Flags :=
  if o = .lsum then sumFour (plusOnce Num.fd72 rm) (pairTerm v) 0 else largestOf ((pairsOn v).map (fun p => Num.unpackFD (v.pair p)))

/-- What they give for I32 lanes. -/
def intReduction (o : LOp) (v : VReg) : BitVec 32 :=
  if o = .lsum then BitVec.ofNat 32 (((lanesOn v).map (fun i => i32 (v.lane i))).map BitVec.toNat).sum
  else BitVec.ofInt 32 (((lanesOn v).map (fun i => (i32 (v.lane i)).toInt)).foldl max (-2 ^ 31))

theorem lanesOn_eq_nil_iff (v : VReg) : lanesOn v = [] ↔ v.lm = 0#8 := by
  simp only [lanesOn, List.filter_eq_nil_iff, List.mem_range, Bool.not_eq_true]
  exact ⟨fun off => BitVec.eq_of_getLsbD_eq fun i lt => by rw [off i lt, BitVec.getLsbD_zero], fun off i _ => by rw [off, BitVec.getLsbD_zero]⟩

theorem pairsOn_eq_nil_iff (v : VReg) : pairsOn v = [] ↔ ∀ p, p < 4 → v.lm.getLsbD (2 * p) = false := by
  simp [pairsOn, List.filter_eq_nil_iff]

/-! LSUM and LMAX under each kind of lane, as reductions of those values. -/

theorem lsum_ff (rm : Num.RMode) (v : VReg) : lsum .ff rm v.lm v
    = reduced v.lm .ff v ((Num.packFF (laneReduction .lsum rm v).1).toNat, (laneReduction .lsum rm v).2) := by
  rw [lsum, addFl_eq_plusOnce]
  rfl

theorem lsum_fd (rm : Num.RMode) (v : VReg) : lsum .fd rm v.lm v
    = reduced v.lm .fd v ((Num.packFD (pairReduction .lsum rm v).1).toNat, (pairReduction .lsum rm v).2) := by
  rw [lsum, addFl_eq_plusOnce]
  rfl

theorem lsum_int (rm : Num.RMode) (v : VReg) : lsum .int rm v.lm v
    = reduced v.lm .int v ((ofI32 (intReduction .lsum v)).toNat, 0#5) := by
  rw [lsum, foldl_add_eq, BitVec.zero_add]
  rfl

theorem lmax_ff (rm : Num.RMode) (v : VReg) : lmax .ff v.lm v
    = reduced v.lm .ff v ((Num.packFF (laneReduction .lmax rm v).1).toNat, (laneReduction .lmax rm v).2) := by
  rw [lmax, maxOf_eq_largestOf]
  rfl

theorem lmax_fd (rm : Num.RMode) (v : VReg) : lmax .fd v.lm v
    = reduced v.lm .fd v ((Num.packFD (pairReduction .lmax rm v).1).toNat, (pairReduction .lmax rm v).2) := by
  rw [lmax, maxOf_eq_largestOf]
  rfl

theorem lmax_int (v : VReg) (some : lanesOn v ≠ []) : lmax .int v.lm v
    = reduced v.lm .int v ((ofI32 (intReduction .lmax v)).toNat, 0#5) := by
  obtain ⟨i, l, on⟩ := List.exists_cons_of_ne_nil some
  have value : intReduction .lmax v = (l.map (fun i => i32 (v.lane i))).foldl (fun acc y => if acc.slt y then y else acc) (i32 (v.lane i)) := by
    rw [← ofInt_foldl_max, intReduction, if_neg (by decide), on]
    simp [Function.comp_def]
  have listed : (List.range 8).filter (v.lm.getLsbD ·) = i :: l := on
  rw [lmax, listed, value]
  rfl

end Sys2Proof
end

section
/-! SUPPORT. What a VOP whose operand A is register va gives, for each form of lane operation (R83, R85, R95, R98, R99, R105 to R113, R118,
R120). -/

namespace Sys2Proof.Machine

/-- What a legal lane operation under VOP gives: bytes stay, vd holds `lm` and `lane`, and sy.fflags gains `flags` (R85, R98). -/
def VopGives (s : State) (vd va vb vc : VNum) (w : LaneW) (o : LOp) (lm : Nat → Bool) (lane : Nat → Lane) (flags : Nat → Flags) :
    Prop :=
  laneLegal true o w = true → ∃ t, exec (o.instr (.vop vd va vb vc) w) s = .next t ∧ SameMem s t
    ∧ (∀ i, i < 8 → (t.me.getV vd).lm.getLsbD i = lm i ∧ (t.me.getV vd).lane i = lane i)
    ∧ ∀ k, k < 5 → (t.me.fflags.getLsbD k = true ↔
        s.me.fflags.getLsbD k = true ∨ ∃ i, i < 8 ∧ (flags i).getLsbD k = true)

/-- Such an operation that computes in the active lanes and leaves va's lane in the others (R99). -/
def VopLanes (s : State) (vd va vb vc : VNum) (w : LaneW) (o : LOp) (act : BitVec 8) (f : Nat → Lane × Flags) : Prop :=
  VopGives s vd va vb vc w o (act.getLsbD ·) (fun i => if act.getLsbD i then (f i).1 else (s.me.getV va).lane i)
    (fun i => if act.getLsbD i then (f i).2 else 0#5)

/-- The same over pairs (R78); `odd` says which halves of a pair the result makes active. -/
def VopPairs (s : State) (vd va vb vc : VNum) (w : LaneW) (o : LOp) (act odd : BitVec 8) (f : Nat → BitVec 72 × Flags) : Prop :=
  VopGives s vd va vb vc w o (fun i => act.getLsbD (i / 2 * 2) && odd.getLsbD (i % 2))
    (fun i => if act.getLsbD (i / 2 * 2) then (f (i / 2)).1.extractLsb' (i % 2 * 36) 36 else (s.me.getV va).lane i)
    (fun i => if act.getLsbD (i / 2 * 2) then (f (i / 2)).2 else 0#5)

section

variable {s : State} {o : LOp} {vd va vb vc : VNum} {w : LaneW}

/-! ### Operands in registers (R95, R99) -/

/-- Register `r` as an operand. -/
def regOpd (s : State) (r : VNum) : Opd := { v := s.me.getV r, all := false }

@[simp] theorem regOpd_v (s : State) (r : VNum) : (regOpd s r).v = s.me.getV r := rfl

@[simp] theorem regOpd_act (s : State) (r : VNum) : (regOpd s r).act = (s.me.getV r).lm := rfl

/-- The operation's result where A is register va, and B and C are `b` and `c`. -/
def regResult (o : LOp) (vd va : VNum) (w : LaneW) (s : State) (b c : Opd) : VReg × Flags :=
  laneOp o w (s.me.mode w.rnd) (regOpd s va) b c (s.me.getV vd) (s.me.getV va)

theorem activeSet_of_first {a b c : Opd} (reads : o.reads w = (true, false, false)) : activeSet o w a b c = a.act := by
  rw [activeSet, reads]
  exact (BitVec.and_allOnes (x := a.act &&& 0xFF#8)).trans BitVec.and_allOnes

theorem activeSet_of_second {a b c : Opd} (reads : o.reads w = (true, true, false)) : activeSet o w a b c = a.act &&& b.act := by
  rw [activeSet, reads]
  exact BitVec.and_allOnes

theorem activeSet_of_third {a b c : Opd} (reads : o.reads w = (true, true, true)) :
    activeSet o w a b c = a.act &&& b.act &&& c.act := by
  rw [activeSet, reads]
  rfl

section

variable {r : BitVec 8 → VReg × Flags} (asel : w.asel = 1#3)

include asel

/-- The result of an operation that reads A alone, register va; `r` is its function of the active lanes. -/
theorem vopResult_of_first (reads : o.reads w = (true, false, false))
    (op : ∀ b c, regResult o vd va w s b c
      = r (activeSet o w (regOpd s va) b c)) : vopResult o vd va vb vc w s = r (s.me.getV va).lm := by
  rw [vopResult, asel]
  exact (op _ _).trans (congrArg r (activeSet_of_first reads))

/-- The same of A and B, registers va and vb. -/
theorem vopResult_of_second (bsel : w.bsel = 2#3) (reads : o.reads w = (true, true, false))
    (op : ∀ c, regResult o vd va w s (regOpd s vb) c
      = r (activeSet o w (regOpd s va) (regOpd s vb) c)) :
    vopResult o vd va vb vc w s = r ((s.me.getV va).lm &&& (s.me.getV vb).lm) := by
  rw [vopResult, asel, bsel]
  exact (op _).trans (congrArg r (activeSet_of_second reads))

/-- The same of A, B and C, registers va, vb and vc. -/
theorem vopResult_of_third (bsel : w.bsel = 2#3) (csel : w.csel = 3#3) (reads : o.reads w = (true, true, true))
    (op : regResult o vd va w s (regOpd s vb) (regOpd s vc)
      = r (activeSet o w (regOpd s va) (regOpd s vb) (regOpd s vc))) :
    vopResult o vd va vb vc w s = r ((s.me.getV va).lm &&& (s.me.getV vb).lm &&& (s.me.getV vc).lm) := by
  rw [vopResult, asel, bsel, csel]
  exact op.trans (congrArg r (activeSet_of_third reads))

end

/-! ### From the result to what the instruction gives -/

/-- With no flag enabled a VOP gives its operation's result. -/
theorem vopGives_of_bears {lm : Nat → Bool} {lane : Nat → Lane} {flags : Nat → Flags} (xen : w.xen = 0#5)
    (result : laneLegal true o w = true → Bears (vopResult o vd va vb vc w s) lm lane flags) :
    VopGives s vd va vb vc w o lm lane flags := by
  intro legal
  obtain ⟨lanes, collected⟩ := result legal
  obtain ⟨t, next, alone, -, -, fflags, regs, -⟩ :=
    vop_completes (s := s) (vd := vd) (va := va) (vb := vb) (vc := vc) legal (by rw [trapped, xen, BitVec.and_zero])
  refine ⟨t, next, alone.2.2, ?_, fun k _ => ?_⟩
  · rwa [regs vd, if_pos rfl]
  · rw [fflags, BitVec.getLsbD_or, Bool.or_eq_true, collected k]

theorem vopLanes_of_result {act : BitVec 8} {f g : Nat → Lane × Flags} (xen : w.xen = 0#5)
    (result : vopResult o vd va vb vc w s = lanewise act (s.me.getV va) f)
    (same : laneLegal true o w = true → ∀ i, f i = g i) : VopLanes s vd va vb vc w o act g :=
  vopGives_of_bears xen fun legal => by
    rw [result, funext (same legal)]
    exact lanewise_bears _ _ _

theorem vopPairs_of_result {act : BitVec 8} {f g : Nat → BitVec 72 × Flags} (xen : w.xen = 0#5)
    (result : vopResult o vd va vb vc w s = pairwise act (s.me.getV va) f) (same : ∀ p, f p = g p) :
    VopPairs s vd va vb vc w o act 3#8 g :=
  vopGives_of_bears xen fun _ => by
    rw [result, funext same]
    exact pairwise_bears _ _ _

section

variable {f g : Nat → Lane × Flags} (asel : w.asel = 1#3) (xen : w.xen = 0#5)

include asel xen

/-- A lane-wise operation of A alone. -/
theorem vopLanes_of_first (reads : o.reads w = (true, false, false))
    (op : ∀ b c, regResult o vd va w s b c
      = lanewise (activeSet o w (regOpd s va) b c) (s.me.getV va) f)
    (same : laneLegal true o w = true → ∀ i, f i = g i) : VopLanes s vd va vb vc w o (s.me.getV va).lm g :=
  vopLanes_of_result xen (vopResult_of_first (r := (lanewise · (s.me.getV va) f)) asel reads op) same

/-- A lane-wise operation of A and B. -/
theorem vopLanes_of_second (bsel : w.bsel = 2#3) (reads : o.reads w = (true, true, false))
    (op : ∀ c, regResult o vd va w s (regOpd s vb) c
      = lanewise (activeSet o w (regOpd s va) (regOpd s vb) c) (s.me.getV va) f)
    (same : ∀ i, f i = g i) : VopLanes s vd va vb vc w o ((s.me.getV va).lm &&& (s.me.getV vb).lm) g :=
  vopLanes_of_result xen (vopResult_of_second (r := (lanewise · (s.me.getV va) f)) asel bsel reads op) (fun _ => same)

/-- A lane-wise operation of A, B and C. -/
theorem vopLanes_of_third (bsel : w.bsel = 2#3) (csel : w.csel = 3#3) (reads : o.reads w = (true, true, true))
    (op : regResult o vd va w s (regOpd s vb) (regOpd s vc)
      = lanewise (activeSet o w (regOpd s va) (regOpd s vb) (regOpd s vc)) (s.me.getV va) f)
    (same : ∀ i, f i = g i) :
    VopLanes s vd va vb vc w o ((s.me.getV va).lm &&& (s.me.getV vb).lm &&& (s.me.getV vc).lm) g :=
  vopLanes_of_result xen (vopResult_of_third (r := (lanewise · (s.me.getV va) f)) asel bsel csel reads op) (fun _ => same)

end

section

variable {f g : Nat → BitVec 72 × Flags} (asel : w.asel = 1#3) (xen : w.xen = 0#5)

include asel xen

/-- An operation on pairs of A alone. -/
theorem vopPairs_of_first (reads : o.reads w = (true, false, false))
    (op : ∀ b c, regResult o vd va w s b c
      = pairwise (activeSet o w (regOpd s va) b c) (s.me.getV va) f)
    (same : ∀ p, f p = g p) : VopPairs s vd va vb vc w o (s.me.getV va).lm 3#8 g :=
  vopPairs_of_result xen (vopResult_of_first (r := (pairwise · (s.me.getV va) f)) asel reads op) same

/-- An operation on pairs of A and B. -/
theorem vopPairs_of_second (bsel : w.bsel = 2#3) (reads : o.reads w = (true, true, false))
    (op : ∀ c, regResult o vd va w s (regOpd s vb) c
      = pairwise (activeSet o w (regOpd s va) (regOpd s vb) c) (s.me.getV va) f)
    (same : ∀ p, f p = g p) : VopPairs s vd va vb vc w o ((s.me.getV va).lm &&& (s.me.getV vb).lm) 3#8 g :=
  vopPairs_of_result xen (vopResult_of_second (r := (pairwise · (s.me.getV va) f)) asel bsel reads op) same

/-- An operation on pairs of A, B and C. -/
theorem vopPairs_of_third (bsel : w.bsel = 2#3) (csel : w.csel = 3#3) (reads : o.reads w = (true, true, true))
    (op : regResult o vd va w s (regOpd s vb) (regOpd s vc)
      = pairwise (activeSet o w (regOpd s va) (regOpd s vb) (regOpd s vc)) (s.me.getV va) f)
    (same : ∀ p, f p = g p) :
    VopPairs s vd va vb vc w o ((s.me.getV va).lm &&& (s.me.getV vb).lm &&& (s.me.getV vc).lm) 3#8 g :=
  vopPairs_of_result xen (vopResult_of_third (r := (pairwise · (s.me.getV va) f)) asel bsel csel reads op) same

end

/-! ### Floating operations of FF36 lanes and FD72 pairs (R105 to R107) -/

section

variable (asel : w.asel = 1#3) (xen : w.xen = 0#5)

include asel xen

theorem vopFF_of_first {f : Num.FV → Num.FV × Flags} (reads : o.reads w = (true, false, false))
    (op : ∀ b c, regResult o vd va w s b c
      = ff1 (activeSet o w (regOpd s va) b c) (regOpd s va) f) :
    VopLanes s vd va vb vc w o (s.me.getV va).lm (fun i => ffLane (f (Num.unpackFF ((s.me.getV va).lane i)))) :=
  vopLanes_of_first asel xen reads op (fun _ _ => rfl)

theorem vopFF_of_second {f g : Num.FV → Num.FV → Num.FV × Flags} (bsel : w.bsel = 2#3) (reads : o.reads w = (true, true, false))
    (op : ∀ c, regResult o vd va w s (regOpd s vb) c
      = ff2 (activeSet o w (regOpd s va) (regOpd s vb) c) (regOpd s va) (regOpd s vb) f)
    (same : ∀ x y, f x y = g x y) : VopLanes s vd va vb vc w o ((s.me.getV va).lm &&& (s.me.getV vb).lm)
      (fun i => ffLane (g (Num.unpackFF ((s.me.getV va).lane i)) (Num.unpackFF ((s.me.getV vb).lane i)))) :=
  vopLanes_of_second asel xen bsel reads op (fun _ => congrArg ffLane (same _ _))

theorem vopFF_of_third {f g : Num.FV → Num.FV → Num.FV → Num.FV × Flags} (bsel : w.bsel = 2#3) (csel : w.csel = 3#3)
    (reads : o.reads w = (true, true, true))
    (op : regResult o vd va w s (regOpd s vb) (regOpd s vc)
      = ff3 (activeSet o w (regOpd s va) (regOpd s vb) (regOpd s vc)) (regOpd s va) (regOpd s vb) (regOpd s vc) f)
    (same : ∀ x y z, f x y z = g x y z) :
    VopLanes s vd va vb vc w o ((s.me.getV va).lm &&& (s.me.getV vb).lm &&& (s.me.getV vc).lm)
      (fun i => ffLane (g (Num.unpackFF ((s.me.getV va).lane i)) (Num.unpackFF ((s.me.getV vb).lane i))
        (Num.unpackFF ((s.me.getV vc).lane i)))) :=
  vopLanes_of_third asel xen bsel csel reads op (fun _ => congrArg ffLane (same _ _ _))

theorem vopFD_of_first {f : Num.FV → Num.FV × Flags} (reads : o.reads w = (true, false, false))
    (op : ∀ b c, regResult o vd va w s b c
      = fd1 (activeSet o w (regOpd s va) b c) (regOpd s va) f) :
    VopPairs s vd va vb vc w o (s.me.getV va).lm 3#8 (fun p => fdPair (f (Num.unpackFD ((s.me.getV va).pair p)))) :=
  vopPairs_of_first asel xen reads op (fun _ => rfl)

theorem vopFD_of_second {f g : Num.FV → Num.FV → Num.FV × Flags} (bsel : w.bsel = 2#3) (reads : o.reads w = (true, true, false))
    (op : ∀ c, regResult o vd va w s (regOpd s vb) c
      = fd2 (activeSet o w (regOpd s va) (regOpd s vb) c) (regOpd s va) (regOpd s vb) f)
    (same : ∀ x y, f x y = g x y) : VopPairs s vd va vb vc w o ((s.me.getV va).lm &&& (s.me.getV vb).lm) 3#8
      (fun p => fdPair (g (Num.unpackFD ((s.me.getV va).pair p)) (Num.unpackFD ((s.me.getV vb).pair p)))) :=
  vopPairs_of_second asel xen bsel reads op (fun _ => congrArg fdPair (same _ _))

theorem vopFD_of_third {f g : Num.FV → Num.FV → Num.FV → Num.FV × Flags} (bsel : w.bsel = 2#3) (csel : w.csel = 3#3)
    (reads : o.reads w = (true, true, true))
    (op : regResult o vd va w s (regOpd s vb) (regOpd s vc)
      = fd3 (activeSet o w (regOpd s va) (regOpd s vb) (regOpd s vc)) (regOpd s va) (regOpd s vb) (regOpd s vc) f)
    (same : ∀ x y z, f x y z = g x y z) :
    VopPairs s vd va vb vc w o ((s.me.getV va).lm &&& (s.me.getV vb).lm &&& (s.me.getV vc).lm) 3#8
      (fun p => fdPair (g (Num.unpackFD ((s.me.getV va).pair p)) (Num.unpackFD ((s.me.getV vb).pair p))
        (Num.unpackFD ((s.me.getV vc).pair p)))) :=
  vopPairs_of_third asel xen bsel csel reads op (fun _ => congrArg fdPair (same _ _ _))

end

end

/-! ### Lanes that travel (R113) -/

/-- A VOP whose lanes, with their bits of LM, come from where `src` says. -/
def VopMoves (s : State) (vd va vb vc : VNum) (w : LaneW) (o : LOp) (src : Nat → Option (VReg × Nat)) : Prop :=
  VopGives s vd va vb vc w o (fun i => match src i with | some x => x.1.lm.getLsbD x.2 | none => false)
    (fun i => match src i with | some x => x.1.lane x.2 | none => 0#36) (fun _ => 0#5)

theorem vopMoves_of_result {s : State} {vd va vb vc : VNum} {w : LaneW} {o : LOp} {src src' : Nat → Option (VReg × Nat)}
    (xen : w.xen = 0#5) (result : vopResult o vd va vb vc w s = (travel src, 0#5)) (same : ∀ i, src i = src' i) :
    VopMoves s vd va vb vc w o src' :=
  vopGives_of_bears xen fun _ => by
    rw [result, funext same]
    exact travel_bears src'

/-! ### Reductions (R112) -/

/-- A VOP whose result is in the first `n` lanes, with va's lanes in the others. -/
def VopReduces (s : State) (vd va vb vc : VNum) (w : LaneW) (o : LOp) (n : Nat) (lane : Nat → Lane) (fl : Flags) : Prop :=
  VopGives s vd va vb vc w o (fun i => decide (i < n)) (fun i => if i < n then lane i else (s.me.getV va).lane i) (fun _ => fl)

section

variable {s : State} {vd va vb vc : VNum} {w : LaneW} {o : LOp} (asel : w.asel = 1#3) (xen : w.xen = 0#5)
  (reduces : o = .lsum ∨ o = .lmax)

include asel

theorem vopResult_lsum : vopResult .lsum vd va vb vc w s
    = lsum (LaneKind.ofFmt w.fmt.toNat) (s.me.mode w.rnd) (s.me.getV va).lm (s.me.getV va) :=
  vopResult_of_first (r := (lsum (LaneKind.ofFmt w.fmt.toNat) (s.me.mode w.rnd) · (s.me.getV va))) asel rfl fun _ _ => rfl

theorem vopResult_lmax : vopResult .lmax vd va vb vc w s
    = lmax (LaneKind.ofFmt w.fmt.toNat) (s.me.getV va).lm (s.me.getV va) :=
  vopResult_of_first (r := (lmax (LaneKind.ofFmt w.fmt.toNat) · (s.me.getV va))) asel rfl fun _ _ => rfl

include reduces

/-- LSUM and LMAX give a reduction over the active lanes of va, of the kind that FMT names. -/
theorem vopResult_reduction : ∃ r, vopResult o vd va vb vc w s
    = reduced (s.me.getV va).lm (LaneKind.ofFmt w.fmt.toNat) (s.me.getV va) r := by
  rcases reduces with rfl | rfl
  · rw [vopResult_lsum asel]
    cases LaneKind.ofFmt w.fmt.toNat <;> exact ⟨_, rfl⟩
  · rw [vopResult_lmax asel]
    cases LaneKind.ofFmt w.fmt.toNat <;> exact ⟨_, rfl⟩

include xen

/-- No active lane: a bubble. -/
theorem vop_reduces_none (off : lanesOn (s.me.getV va) = []) : VopReduces s vd va vb vc w o 0 (s.me.getV va).lane 0#5 := by
  refine vopGives_of_bears xen fun _ => ?_
  obtain ⟨r, result⟩ := vopResult_reduction (s := s) (vd := vd) (va := va) (vb := vb) (vc := vc) asel reduces
  rw [result, (lanesOn_eq_nil_iff _).mp off, reduced_zero]
  exact bubble_bears _

/-- FF36 lanes: the tree of R112, or the largest, in lane 0. -/
theorem vop_reduces_ff (on : lanesOn (s.me.getV va) ≠ []) (fmt : w.fmt = 0#4) : VopReduces s vd va vb vc w o 1
    (fun _ => Num.packFF (laneReduction o (s.me.mode w.rnd) (s.me.getV va)).1)
    (laneReduction o (s.me.mode w.rnd) (s.me.getV va)).2 := by
  refine vopGives_of_bears xen fun _ => ?_
  have active := mt (lanesOn_eq_nil_iff _).mpr on
  rcases reduces with rfl | rfl
  · rw [vopResult_lsum asel, fmt]
    exact (lsum_ff ..) ▸ reduced_lane_bears _ _ _ (by decide) active
  · rw [vopResult_lmax asel, fmt]
    exact (lmax_ff ..) ▸ reduced_lane_bears _ _ _ (by decide) active

/-- FD72 pairs: the tree of R112, or the largest, in pair 0; a bubble where no pair is active. -/
theorem vop_reduces_fd (fmt : w.fmt = 1#4) :
    if pairsOn (s.me.getV va) = [] then VopReduces s vd va vb vc w o 0 (s.me.getV va).lane 0#5
    else VopReduces s vd va vb vc w o 2
      (fun i => (Num.packFD (pairReduction o (s.me.mode w.rnd) (s.me.getV va)).1).extractLsb' (36 * i) 36)
      (pairReduction o (s.me.mode w.rnd) (s.me.getV va)).2 := by
  split
  · next off =>
    refine vopGives_of_bears xen fun _ => ?_
    obtain ⟨r, result⟩ := vopResult_reduction (s := s) (vd := vd) (va := va) (vb := vb) (vc := vc) asel reduces
    rw [result, fmt]
    refine (reduced_pair_none _ _ ((pairsOn_eq_nil_iff _).mp off)).symm ▸ ?_
    exact bubble_bears _
  · next on =>
    refine vopGives_of_bears xen fun _ => ?_
    have active : ∃ p, p < 4 ∧ (s.me.getV va).lm.getLsbD (2 * p) = true := by
      simpa [pairsOn_eq_nil_iff] using on
    rcases reduces with rfl | rfl
    · rw [vopResult_lsum asel, fmt]
      exact (lsum_fd ..) ▸ reduced_pair_bears _ _ _ active
    · rw [vopResult_lmax asel, fmt]
      exact (lmax_fd ..) ▸ reduced_pair_bears _ _ _ active

/-- I32 lanes: the sum modulo 2^32, or the largest, in lane 0. -/
theorem vop_reduces_int (on : lanesOn (s.me.getV va) ≠ []) (fmt : w.fmt = 2#4) :
    VopReduces s vd va vb vc w o 1 (fun _ => ofI32 (intReduction o (s.me.getV va))) 0#5 := by
  refine vopGives_of_bears xen fun _ => ?_
  have active := mt (lanesOn_eq_nil_iff _).mpr on
  rcases reduces with rfl | rfl
  · rw [vopResult_lsum asel, fmt]
    exact (lsum_int ..) ▸ reduced_lane_bears _ _ _ (by decide) active
  · rw [vopResult_lmax asel, fmt]
    exact (lmax_int _ on) ▸ reduced_lane_bears _ _ _ (by decide) active

end

/-! ### Formats of a legal word (R96) -/

theorem fmtOk_of_legal {o : LOp} {w : LaneW} (legal : laneLegal true o w = true) : fmtOk o w.fmt.toNat = true := by
  simp only [laneLegal, Bool.and_eq_true] at legal
  tauto

theorem kind_eq_fd_iff (f : BitVec 4) : (LaneKind.ofFmt f.toNat == .fd) = decide (f = 1#4) := by
  revert f
  decide

/-! ### Comparisons (R109) -/

/-- The lane whose bits of LM say whether lane `i` is active in a comparison: its own, or the even one of its pair (R78). -/
def cmpAt (w : LaneW) (i : Nat) : Nat := if w.fmt = 1#4 then i / 2 * 2 else i

/-- The value that FCMP compares at lane `i`: of its pair under FMT 1. -/
def cmpValue (w : LaneW) (v : VReg) (i : Nat) : Num.FV :=
  if w.fmt = 1#4 then Num.unpackFD (v.pair (i / 2)) else Num.unpackFF (v.lane i)

/-- Whether the condition of FCMP or ICMP holds at lane `i`. -/
def cmpHolds (o : LOp) (w : LaneW) (a b : VReg) (i : Nat) : Bool :=
  if o = .icmp then icmp (w.param.toNat % 16) (i32 (a.lane i)) (i32 (b.lane i))
  else Num.ordered (w.param.toNat % 16) (cmpValue w a i) (cmpValue w b i)

/-- Whether FCMP is invalid at lane `i`. -/
def cmpInvalid (o : LOp) (w : LaneW) (a b : VReg) (i : Nat) : Bool :=
  o = .fcmp && Num.unorderedInvalid (w.param.toNat % 16) (cmpValue w a i) (cmpValue w b i)

section

variable {s : State} {vd va vb vc : VNum} {w : LaneW} (asel : w.asel = 1#3) (xen : w.xen = 0#5)

include asel xen

theorem vop_compares {o : LOp} (compares : o = .fcmp ∨ o = .icmp) (bsel : w.bsel = 2#3) :
    VopGives s vd va vb vc w o
      (fun i => ((s.me.getV va).lm &&& (s.me.getV vb).lm).getLsbD (cmpAt w i)
        && (!w.param.getLsbD 4 || cmpHolds o w (s.me.getV va) (s.me.getV vb) i))
      (fun i => if ((s.me.getV va).lm &&& (s.me.getV vb).lm).getLsbD (cmpAt w i)
        then (if cmpHolds o w (s.me.getV va) (s.me.getV vb) i then 1#36 else 0#36) else (s.me.getV va).lane i)
      (fun i => if ((s.me.getV va).lm &&& (s.me.getV vb).lm).getLsbD (cmpAt w i)
        && cmpInvalid o w (s.me.getV va) (s.me.getV vb) i then Num.nv else 0#5) := by
  refine vopGives_of_bears xen fun legal => ?_
  rcases compares with rfl | rfl
  · rw [vopResult_of_second (r := fun act => compareLanes (LaneKind.ofFmt w.fmt.toNat == .fd) act (w.param.getLsbD 4) (s.me.getV va)
      fun i => if LaneKind.ofFmt w.fmt.toNat == .fd
        then Num.fcmp (w.param.toNat % 16) (Num.unpackFD ((s.me.getV va).pair i)) (Num.unpackFD ((s.me.getV vb).pair i))
        else Num.fcmp (w.param.toNat % 16) (Num.unpackFF ((s.me.getV va).lane i)) (Num.unpackFF ((s.me.getV vb).lane i)))
      asel bsel rfl (fun _ => rfl), kind_eq_fd_iff]
    refine compareLanes_bears _ _ _ (fun i => by simp [cmpAt]) fun i => ?_
    by_cases pair : w.fmt = 1#4 <;> simp [pair, cmpHolds, cmpInvalid, cmpValue, Num.fcmp_eq]
  · have lanes : w.fmt ≠ 1#4 := by
      rintro pair
      have listed := fmtOk_of_legal legal
      simp [fmtOk, pair] at listed
    rw [vopResult_of_second (r := fun act => compareLanes false act (w.param.getLsbD 4) (s.me.getV va) fun i =>
      (icmp (w.param.toNat % 16) (i32 ((s.me.getV va).lane i)) (i32 ((s.me.getV vb).lane i)), 0#5)) asel bsel rfl (fun _ => rfl)]
    exact compareLanes_bears _ _ _ (fun i => by simp [cmpAt, lanes]) fun i => by simp [cmpHolds, cmpInvalid]

/-- Selection (R110); under FMT 1 the bits of LM follow lane 2p of C, as log 85 has it. -/
theorem vop_selects (bsel : w.bsel = 2#3) (csel : w.csel = 3#3) :
    VopGives s vd va vb vc w .sel
      (fun i => (if i32 ((s.me.getV vc).lane (cmpAt w i)) ≠ 0#32 then s.me.getV va else s.me.getV vb).lm.getLsbD i
        && (s.me.getV vc).lm.getLsbD (cmpAt w i))
      (fun i => (if i32 ((s.me.getV vc).lane (cmpAt w i)) ≠ 0#32 then s.me.getV va else s.me.getV vb).lane i)
      (fun _ => 0#5) := by
  refine vopGives_of_bears xen fun _ => ?_
  rw [vopResult_of_third (r := fun _ => (selLanes (LaneKind.ofFmt w.fmt.toNat == .fd) (s.me.getV va) (s.me.getV vb) (s.me.getV vc), 0#5))
    asel bsel csel rfl rfl]
  have pick (i : Nat) : (if (LaneKind.ofFmt w.fmt.toNat == .fd) then i - i % 2 else i) = cmpAt w i := by
    rw [kind_eq_fd_iff, sub_mod_two]
    simp [cmpAt]
  refine bears_of_flags rfl fun i lt => ?_
  simp only [selLanes, pick]
  rw [VReg.build_lane _ _ lt, VReg.build_lm, getLsbD_mask8 _ lt]
  simp

end

section

variable {s : State} {vd va vb vc : VNum} {w : LaneW} (asel : w.asel = 1#3) (xen : w.xen = 0#5)

include asel xen

/-! ### Lanes that travel (R113) -/

theorem vop_lperm : VopMoves s vd va vb vc w .lperm (fun i =>
    some (s.me.getV va, (w.imm.toNat % 256 * 2 ^ 16 + w.param.toNat) / 2 ^ (3 * i) % 8)) :=
  vopMoves_of_result xen
    (vopResult_of_first (r := fun _ => (travel (fun i => some (s.me.getV va, permSrc w i)), 0#5)) asel rfl fun _ _ => rfl)
    (fun i => congrArg (fun j => some (s.me.getV va, j)) (permSrc_eq w i))

theorem vop_lbcast : VopMoves s vd va vb vc w .lbcast (fun _ => some (s.me.getV va, w.param.toNat % 8)) :=
  vopMoves_of_result xen (vopResult_of_first (r := fun _ => (travel _, 0#5)) asel rfl fun _ _ => rfl) (fun _ => rfl)

theorem vop_lshift (bsel : w.bsel = 2#3) : VopMoves s vd va vb vc w .lshift (fun i =>
    let k : Int := 8 + i - (w.param.setWidth 4).toInt
    if k < 8 then some (s.me.getV vb, k.toNat) else if k < 16 then some (s.me.getV va, (k - 8).toNat)
    else some (s.me.getV vb, (k - 16).toNat)) :=
  vopMoves_of_result xen
    (vopResult_of_second (r := fun _ => (travel (lshiftSrc (s.me.getV va) (s.me.getV vb) (shiftCount w.param)), 0#5)) asel bsel rfl
      fun _ => rfl)
    (lshiftSrc_eq _ _ _)

theorem vop_lins (bsel : w.bsel = 2#3) : VopMoves s vd va vb vc w .lins (fun i =>
    if i = w.param.toNat % 8 then some (s.me.getV vb, 0) else some (s.me.getV va, i)) :=
  vopMoves_of_result xen (vopResult_of_second (r := fun _ => (travel _, 0#5)) asel bsel rfl fun _ => rfl) (fun _ => rfl)

theorem vop_lext : VopMoves s vd va vb vc w .lext (fun i => if i = 0 then some (s.me.getV va, w.param.toNat % 8) else none) :=
  vopMoves_of_result xen (vopResult_of_first (r := fun _ => (travel _, 0#5)) asel rfl fun _ _ => rfl) (fun _ => rfl)

/-! ### Integer operations with a form of their own (R111) -/

theorem vop_imulh (bsel : w.bsel = 2#3) : VopLanes s vd va vb vc w .imulh ((s.me.getV va).lm &&& (s.me.getV vb).lm) (fun i =>
    (ofI32 (BitVec.ofInt 32 (laneInt w ((s.me.getV va).lane i) * laneInt w ((s.me.getV vb).lane i) / 2 ^ 32)), 0#5)) :=
  vopLanes_of_second asel xen bsel rfl (fun _ => rfl) (fun _ => congrArg (fun x => (ofI32 x, 0#5)) (mulHigh32_eq w _ _))

theorem vop_isadd (bsel : w.bsel = 2#3) : VopLanes s vd va vb vc w .isadd ((s.me.getV va).lm &&& (s.me.getV vb).lm) (fun i =>
    (ofI32 (BitVec.ofInt 32 (clampInt (if w.fmt = 3#4 then 0 else -2 ^ 31) (if w.fmt = 3#4 then 2 ^ 32 - 1 else 2 ^ 31 - 1)
      (laneInt w ((s.me.getV va).lane i) + laneInt w ((s.me.getV vb).lane i)))), 0#5)) :=
  vopLanes_of_second asel xen bsel rfl (fun _ => rfl) (fun _ => congrArg (fun x => (ofI32 x, 0#5)) (satAdd32_eq w _ _))

theorem vop_imad (bsel : w.bsel = 2#3) (csel : w.csel = 3#3) :
    VopLanes s vd va vb vc w .imad ((s.me.getV va).lm &&& (s.me.getV vb).lm &&& (s.me.getV vc).lm) (fun i =>
      (ofI32 (BitVec.ofInt 32 (laneInt w ((s.me.getV va).lane i) * laneInt w ((s.me.getV vb).lane i)
        + laneInt w ((s.me.getV vc).lane i))), 0#5)) :=
  vopLanes_of_third asel xen bsel csel rfl rfl (fun _ => congrArg (fun x => (ofI32 x, 0#5)) (mul_add_eq w _ _ _))

theorem vop_iabs : VopLanes s vd va vb vc w .iabs (s.me.getV va).lm (fun i =>
    (ofI32 (BitVec.ofInt 32 (laneInt w ((s.me.getV va).lane i)).natAbs), 0#5)) := by
  refine vopLanes_of_first asel xen rfl (fun _ _ => rfl) fun legal i => ?_
  have signed : w.fmt ≠ 3#4 := by
    intro unsigned
    have listed := fmtOk_of_legal legal
    simp [fmtOk, unsigned] at listed
  exact congrArg (fun x => (ofI32 x, 0#5)) (ofInt_natAbs_laneInt signed _)

/-! ### Conversions (R118, R120) -/

theorem vop_cvtfi : VopLanes s vd va vb vc w .cvtfi (s.me.getV va).lm (fun i =>
    let r := Num.toIntSat (s.me.mode w.rnd) (if w.fmt = 3#4 then 0 else -2 ^ 31) (if w.fmt = 3#4 then 2 ^ 32 - 1 else 2 ^ 31 - 1)
      (Num.unpackFF ((s.me.getV va).lane i))
    (ofI32 (BitVec.ofInt 32 r.1), r.2)) :=
  vopLanes_of_first asel xen rfl (fun _ _ => rfl) (fun _ _ => cvtfi_eq w _ _)

theorem vop_cvtif : VopLanes s vd va vb vc w .cvtif (s.me.getV va).lm (fun i => let x := laneInt w ((s.me.getV va).lane i)
    ffLane (if x = 0 then (.zero false, 0#5)
      else Num.roundFV Num.ff36 (s.me.mode w.rnd) (.fin (decide (x < 0)) x.natAbs 0))) :=
  vopLanes_of_first asel xen rfl (fun _ _ => rfl) (fun _ _ => cvtif_eq w _ _)

theorem vop_cvtfd : VopPairs s vd va vb vc w .cvtfd (s.me.getV va).lm 3#8 (fun p =>
    let x := Num.unpackFF ((s.me.getV va).lane (2 * p))
    (Num.packFD x.quiet, if x.isSignalling then Num.nv else 0#5)) :=
  vopPairs_of_first asel xen (f := fun p => cvtfd (Num.unpackFF ((s.me.getV va).lane (2 * p)))) rfl (fun _ _ => rfl)
    (fun _ => cvtfd_eq _)

/-- CVTDF leaves only the low lane of each pair active. -/
theorem vop_cvtdf : VopPairs s vd va vb vc w .cvtdf (s.me.getV va).lm 1#8 (fun p =>
    let x := Num.unpackFD ((s.me.getV va).pair p)
    let r := Num.nanOr [x] (Num.roundFV Num.ff36 (s.me.mode w.rnd) x)
    ((Num.packFF r.1).setWidth 72, r.2)) := by
  refine vopGives_of_bears xen fun _ => ?_
  have result := vopResult_of_first (s := s) (o := .cvtdf) (vd := vd) (va := va) (vb := vb) (vc := vc) (r := fun act => lowHalves
    (pairwise act (s.me.getV va) fun p =>
      ((Num.packFF (cvtdf (s.me.mode w.rnd) (Num.unpackFD ((s.me.getV va).pair p))).1).setWidth 72,
        (cvtdf (s.me.mode w.rnd) (Num.unpackFD ((s.me.getV va).pair p))).2))) asel rfl fun _ _ => rfl
  simp only [cvtdf_eq] at result
  rw [result]
  exact lowHalves_bears (pairwise_bears _ _ _)

/-- Inward, without a block scale: exact. -/
theorem vop_cvtin (param : w.param = 0#16) (least : 1 ≤ w.fmt.toNat) (most : w.fmt.toNat ≤ 6) :
    VopLanes s vd va vb vc w .cvtin (s.me.getV va).lm (fun i =>
      let x := (sfloat w.fmt.toNat).unpack (((s.me.getV va).lane i).toNat % 2 ^ storageBits w.fmt.toNat)
      (Num.packFF x.quiet, if x.isSignalling then Num.nv else 0#5)) := by
  exact vopLanes_of_first asel xen (by simp [LOp.reads, param]) (fun b c => cvtin_unscaled param least most _ _ c) fun _ _ => rfl

/-- Outward, without a block scale and in a rounding mode. -/
theorem vop_cvtout (param : w.param = 0#16) (least : 1 ≤ w.fmt.toNat) (most : w.fmt.toNat ≤ 6) (mode : w.rnd ≠ 5#3) :
    VopLanes s vd va vb vc w .cvtout (s.me.getV va).lm (fun i =>
      let x := Num.unpackFF ((s.me.getV va).lane i)
      let r := Num.roundFV (sfloat w.fmt.toNat).fmt (s.me.mode w.rnd) x
      let n := (sfloat w.fmt.toNat).pack r.1
      (BitVec.ofNat 36 n.1, r.2 ||| n.2 ||| if x.isSignalling then Num.nv else 0#5)) := by
  exact vopLanes_of_first asel xen (by simp [LOp.reads, param, mode]) (fun b c => cvtout_unscaled param least most mode _ _ _ b c) fun _ _ => rfl

end

/-! ### Lane-wise integer operations that raise no flag (R99, R111) -/

/-- A lane-wise integer operation on va and vb: its lanes, the AND of the masks, and no flag (R99, R111). -/
theorem vop_int2 {s : State} {o : LOp} {vd va vb vc : VNum} {w : LaneW} {f : BitVec 32 → BitVec 32 → BitVec 32}
    (asel : w.asel = 1#3) (bsel : w.bsel = 2#3) (reads : o.reads w = (true, true, false))
    (op : ∀ c, regResult o vd va w s (regOpd s vb) c = int2 (activeSet o w (regOpd s va) (regOpd s vb) c) (regOpd s va) (regOpd s vb) f)
    (legal : laneLegal true o w = true) :
    ∃ t, exec (o.instr (.vop vd va vb vc) w) s = .next t ∧ t.me.fflags = s.me.fflags ∧ SameMem s t
      ∧ (t.me.getV vd).lm = (s.me.getV va).lm &&& (s.me.getV vb).lm
      ∧ ∀ i, i < 8 → (t.me.getV vd).lm.getLsbD i = true →
          (t.me.getV vd).lane i = ofI32 (f (i32 ((s.me.getV va).lane i)) (i32 ((s.me.getV vb).lane i))) := by
  have result : vopResult o vd va vb vc w s
      = int2 ((s.me.getV va).lm &&& (s.me.getV vb).lm) (regOpd s va) (regOpd s vb) f :=
    vopResult_of_second (r := (int2 · (regOpd s va) (regOpd s vb) f)) asel bsel reads op
  obtain ⟨t, next, alone, -, -, fflags, regs, -⟩ := vop_completes (s := s) (vd := vd) (va := va) (vb := vb) (vc := vc) legal
    (by rw [result, int2_flags, trapped, BitVec.zero_and])
  have written : t.me.getV vd = (int2 ((s.me.getV va).lm &&& (s.me.getV vb).lm) (regOpd s va) (regOpd s vb) f).1 := by
    rw [regs vd, if_pos rfl, result]
  have lm : (t.me.getV vd).lm = (s.me.getV va).lm &&& (s.me.getV vb).lm := by
    rw [written]
    rfl
  refine ⟨t, next, ?_, alone.2.2, lm, fun i lt on => ?_⟩
  · rw [fflags, result, int2_flags, BitVec.or_zero]
  · rw [lm] at on
    rw [written]
    exact (VReg.build_lane _ _ lt).trans (if_pos on)

end Sys2Proof.Machine
end

section
/-! PROOFS. Lane operations under VOP. -/

namespace Sys2Proof

open Sys2Proof.Machine

/-- Settles O21: VOP is one operation for every lane operation, and each operation's lanes, pairs or reduction are those of its rule;
quotients and roots come from integer division and the integer square root with bits to spare. -/
theorem vopCompletes : Obligations.VopCompletes := by
  refine ⟨fun _ _ _ _ _ _ _ legal => ⟨vop_completes legal, vop_traps legal⟩, ?_, ?_⟩
  · intro s vd va vb vc w asel xen A B C rm gives lanes pairs AB ABC ff1 ff2 ff3 fd2 nan rounded add sub mul fma pick
    have unary (o : LOp) {f : Num.FV → Num.FV × Flags} (reads : o.reads w = (true, false, false))
        (op : ∀ b c, regResult o vd va w s b c = Sys2Proof.ff1 (activeSet o w (regOpd s va) b c) (regOpd s va) f) : ff1 o f :=
      vopFF_of_first asel xen reads op
    have binary (o : LOp) {f g : Num.FV → Num.FV → Num.FV × Flags} (reads : o.reads w = (true, true, false))
        (op : ∀ c, regResult o vd va w s (regOpd s vb) c
          = Sys2Proof.ff2 (activeSet o w (regOpd s va) (regOpd s vb) c) (regOpd s va) (regOpd s vb) f)
        (same : ∀ x y, f x y = g x y) : ff2 o g := fun bsel => vopFF_of_second asel xen bsel reads op same
    have double (o : LOp) {f g : Num.FV → Num.FV → Num.FV × Flags} (reads : o.reads w = (true, true, false))
        (op : ∀ c, regResult o vd va w s (regOpd s vb) c
          = Sys2Proof.fd2 (activeSet o w (regOpd s va) (regOpd s vb) c) (regOpd s va) (regOpd s vb) f)
        (same : ∀ x y, f x y = g x y) : fd2 o g := fun bsel => vopFD_of_second asel xen bsel reads op same
    refine ⟨binary .fadd rfl (fun _ => rfl) (Num.addR_eq_sumOnce _ _),
      binary .fsub rfl (fun _ => rfl) (Num.subR_eq_differenceOnce _ _),
      binary .fmul rfl (fun _ => rfl) (Num.mulR_eq_productOnce _ _),
      fun bsel csel => vopFF_of_third asel xen bsel csel rfl rfl (Num.fmaR_eq_fusedOnce _ _ _),
      fun bsel csel => vopFF_of_third asel xen bsel csel rfl rfl (Num.fmaR_eq_fusedOnce _ _ _),
      binary .fmin rfl (fun _ => rfl) (Num.minMaxR_eq_chosen _), binary .fmax rfl (fun _ => rfl) (Num.minMaxR_eq_chosen _),
      unary .fneg (f := fun a => (a.neg, 0#5)) rfl (fun _ _ => rfl),
      unary .fabs (f := fun a => (if a.sign then a.neg else a, 0#5)) rfl (fun _ _ => rfl),
      binary .fdiv rfl (fun _ => rfl) (fun _ _ => rfl),
      unary .fsqrt rfl (fun _ _ => rfl), unary .frcp rfl (fun _ _ => rfl), unary .frsq rfl (fun _ _ => rfl),
      unary .fexp2 rfl (fun _ _ => rfl), unary .flog2 rfl (fun _ _ => rfl), unary .ftanh rfl (fun _ _ => rfl),
      unary .fsig rfl (fun _ _ => rfl),
      double .dadd rfl (fun _ => rfl) (Num.addR_eq_sumOnce _ _), double .dsub rfl (fun _ => rfl) (Num.subR_eq_differenceOnce _ _),
      double .dmul rfl (fun _ => rfl) (Num.mulR_eq_productOnce _ _),
      fun bsel csel => vopFD_of_third asel xen bsel csel rfl rfl (Num.fmaR_eq_fusedOnce _ _ _),
      double .dmin rfl (fun _ => rfl) (Num.minMaxR_eq_chosen _), double .dmax rfl (fun _ => rfl) (Num.minMaxR_eq_chosen _),
      double .ddiv rfl (fun _ => rfl) (fun _ _ => rfl), vopFD_of_first asel xen rfl (fun _ _ => rfl),
      fun _ compares bsel => vop_compares asel xen compares bsel, vop_selects asel xen,
      fun _ reduces => ⟨vop_reduces_none asel xen reduces, vop_reduces_ff asel xen reduces, vop_reduces_fd asel xen reduces, ?_⟩,
      ⟨vop_lperm asel xen, vop_lbcast asel xen, vop_lshift asel xen, vop_lins asel xen, vop_lext asel xen⟩,
      vop_imulh asel xen, vop_imad asel xen, vop_isadd asel xen, vop_iabs asel xen, vop_cvtfi asel xen, vop_cvtif asel xen,
      vop_cvtfd asel xen, vop_cvtdf asel xen,
      fun param least most => ⟨vop_cvtin asel xen param least most, vop_cvtout asel xen param least most⟩⟩
    rcases reduces with rfl | rfl
    · exact vop_reduces_int asel xen (.inl rfl)
    · exact vop_reduces_int asel xen (.inr rfl)
  · intro f rm s m n e d a b hm hn
    refine ⟨?_, rfl, rfl, rfl, rfl, ?_, ?_, rfl, rfl, rfl, rfl, rfl, rfl, rfl, rfl, rfl, rfl, rfl, Num.log2R_one f rm n, rfl, rfl, rfl,
      rfl, rfl, fun _ _ _ _ => Num.divR_nan f rm, rfl, rfl, ?_, Num.divR_fin f rm s e d hm hn, Num.sqrtR_fin f rm e hm,
      Num.rsqrtR_fin f rm e hm⟩
    · simp only [List.forall_mem_cons, List.not_mem_nil, false_imp_iff, implies_true, and_true]
      exact ⟨fun _ _ => rfl, fun _ _ => rfl, fun _ _ => rfl, fun _ _ => rfl, fun _ _ => rfl, fun _ _ => rfl⟩
    all_goals cases s <;> rfl

/-- Settles O22: each is the one lane-wise integer form of VOP, which raises no flag; minima and maxima by the order of integers. -/
theorem integerLanes : Obligations.IntegerLanes := by
  intro s vd va vb vc w asel bsel lanes
  have computes (o : LOp) (f : BitVec 32 → BitVec 32 → BitVec 32) (reads : o.reads w = (true, true, false))
      (op : ∀ c, regResult o vd va w s (regOpd s vb) c
        = int2 (activeSet o w (regOpd s va) (regOpd s vb) c) (regOpd s va) (regOpd s vb) f) : lanes o f :=
    vop_int2 asel bsel reads op
  have min := computes .imin (fun x y => if y.slt x then y else x) rfl (fun _ => rfl)
  have max := computes .imax (fun x y => if x.slt y then y else x) rfl (fun _ => rfl)
  have minn := computes .iminn (fun x y => if y.ult x then y else x) rfl (fun _ => rfl)
  have maxn := computes .imaxn (fun x y => if x.ult y then y else x) rfl (fun _ => rfl)
  simp only [signedMin_eq, signedMax_eq, unsignedMin_eq, unsignedMax_eq] at min max minn maxn
  exact ⟨computes .iadd (· + ·) rfl (fun _ => rfl), computes .isub (· - ·) rfl (fun _ => rfl),
    computes .imul (· * ·) rfl (fun _ => rfl), computes .iand (· &&& ·) rfl (fun _ => rfl),
    computes .ior (· ||| ·) rfl (fun _ => rfl), computes .ixor (· ^^^ ·) rfl (fun _ => rfl),
    computes .ishl (fun x y => x <<< (y.toNat % 32)) rfl (fun _ => rfl),
    computes .ishr (fun x y => x >>> (y.toNat % 32)) rfl (fun _ => rfl),
    computes .isar (fun x y => x.sshiftRight (y.toNat % 32)) rfl (fun _ => rfl), min, max, minn, maxn⟩

end Sys2Proof
end

section
/-! SUPPORT. A sink whose window buffer drains entries of complete windows makes no read-modify-write (R349). -/

namespace Sys2Proof.Machine

section
variable {s : State} {rid u : Nat} {r : Residency} {x : UnitSt} {e : ElemRec} {o : LOp} {w : LaneW}

/-- R349, log 89: an element, no BE, whose buffer is draining cannot fire a read-modify-write. -/
theorem State.tryFire_of_draining (placed : s.res.find? rid = some r) (unit : r.units[u]? = some x) (op : r.opOf u = some (e, o, w))
    (kind : e.kind ≠ 3) (rmw : o.isRmw = true) (hold : r.hold ≠ .fault) (drains : r.draining x = true) (free : Bool) :
    s.tryFire rid u o w free = .no := by
  have noCnt : o ≠ .cnt := by
    rintro rfl
    cases rmw
  simp only [State.tryFire, placed, unit, op, noCnt, kind, rmw, hold, drains, false_and, or_self, if_false, ne_eq, not_true_eq_false,
    false_or, not_false_eq_true, and_self, if_true, ite_self]
  split
  · rfl
  · split <;> rfl

/-- Executing its firing then leaves the whole state as it is (R152). -/
theorem fire_of_draining (placed : s.res.find? rid = some r) (unit : r.units[u]? = some x) (op : r.opOf u = some (e, o, w))
    (kind : e.kind ≠ 3) (rmw : o.isRmw = true) (hold : r.hold ≠ .fault) (drains : r.draining x = true) :
    fire o w rid u s = .next s := by
  simp only [fire, placed, State.tryFire_of_draining placed unit op kind rmw hold drains, ite_self]

end

end Sys2Proof.Machine
end

section
/-! PROOFS. A read-modify-write firing of two lanes that its own first lane stops. -/

namespace Sys2Proof

open Sys2Proof.Machine

/-! ### MADD of two lanes at a unit behind the region's complete cut (R126, R349, R350) -/

/-- MADD of operands a and b. -/
def maddWord : LaneW := { fmt := 2, asel := 1, bsel := 2, csel := 0, rnd := 0, xen := 0, emit := 0, param := 0, imm := 0 }

def maddElem : ElemRec :=
  { x := 5, y := 2, kind := 1, word := laneBits .madd maddWord, ii := 1, oqx := 0, sce := false, ldir := false }

/-- A region of that one element, which feeds no circuit. -/
def maddPlan : Plan :=
  { img := { shape := 0, prank := 0, mper := 256, elems := [maddElem], routes := [], rops := [], ords := [], ctls := [], mes := [] },
    conns := [], stores := [], bufs := [], ins := [], outs := [], topo := [] }

/-- A token whose lanes 0 and 1 alone are active, both 0: as operand a it names the first word of the ME twice. -/
def twoLanes : Token := { v := { lanes := .zero 288, lm := 3#8 }, rank := 0, cut := false, prb := false }

/-- The element has been asked for cut 1 and has not saved it; both its inputs have a token. -/
def behindUnit : UnitSt := { UnitSt.init (.elem maddElem) with inp := [[.tok twoLanes], [.tok twoLanes], []], cutTo := 1 }

/-- The region counts cut 1 as complete, so that an entry of window 1 drains. -/
def behindRegion : Residency := { Residency.blank 0 0 0 0 0 0 [] maddPlan with units := [behindUnit], cut := 1 }

/-- The package at reset but for that region. -/
def behindState : State := { State.reset with res := [(0, behindRegion)] }

/-- Lane 0 has been updated, its undo entry is of window 1, and lane 1 comes next. -/
def drainingUnit : UnitSt :=
  { behindUnit with undo := [{ win := 1, word := meBase (behindRegion.meAt 5 2) / 8, old := 0, full := false }],
                    run := { next := 1, olds := [some 0], flags := 0 } }

def drainingRegion : Residency := { behindRegion with units := [drainingUnit] }

/-- What lane 0 leaves. -/
def drainingState : State := behindState.laneStep 0 0 .madd maddWord 0

theorem drainingState_region : drainingState.res.find? 0 = some drainingRegion := by
  rfl

/-- Each condition of a firing holds by evaluation. -/
theorem behind_mayFire : MayFire behindState 0 0 behindRegion behindUnit maddElem .madd maddWord :=
  ⟨⟨rfl, rfl, rfl, rfl, rfl, rfl, rfl, by decide, rfl, rfl, by decide, rfl⟩, rfl, by decide, by decide, by decide, rfl, rfl⟩

/-- The first execution updates lane 0. -/
theorem behind_exec : exec (.madd (.fire 0 0) maddWord) behindState = .next drainingState := by
  rfl

/-- No further execution does anything: lane 1 is never reached. -/
theorem draining_exec : exec (.madd (.fire 0 0) maddWord) drainingState = .next drainingState :=
  fire_of_draining (u := 0) (o := .madd) (w := maddWord) (x := drainingUnit) (e := maddElem) drainingState_region rfl rfl
    (by decide) rfl (by decide) (by decide)

/-- Two executions of the firing leave lane 1 to be updated. -/
theorem behind_twice {t : State} (runs : Times (.madd (.fire 0 0) maddWord) 2 behindState t) : t = drainingState := by
  obtain ⟨s1, first, s2, second, rfl⟩ := runs
  obtain rfl := Host.Outcome.next.inj (behind_exec.symm.trans first)
  exact (Host.Outcome.next.inj (draining_exec.symm.trans second)).symm

/-- Refutes O40 by its read-modify-write clause, which asks only that the element does not drain before the first lane. Where the unit's last
saved cut lies behind the region's last complete one, the undo entry of lane 0 is of a complete window: with a cut still asked of it, the
element drains from then on (R349, log 89) and lane 1 is never updated. `Residency.complete` lets every unit save the cut that it
completes, so the clause lacks `r.cut ≤ x.core.cut`. -/
theorem not_elementFirings : ¬ Obligations.ElementFirings := by
  intro claim
  obtain ⟨-, -, -, rmw, -⟩ := (claim behindState 0 0 behindRegion behindUnit maddElem .madd maddWord).1 behind_mayFire
  obtain ⟨t, y, runs, ⟨⟨q, placed, unit⟩, fired, -⟩, -⟩ := rmw rfl ⟨rfl, rfl⟩ rfl rfl (by decide)
  have lanes : max 1 ((List.range 8).filter (3#8).getLsbD).length = 2 := by decide
  obtain rfl := behind_twice (lanes ▸ runs)
  obtain rfl := Option.some.inj (drainingState_region.symm.trans placed)
  obtain rfl : drainingUnit = y := Option.some.inj unit
  exact absurd fired (by decide)

end Sys2Proof
end

section
/-! SUPPORT. The start and end of threads, channels and barriers of one member (R130 to R147). -/

namespace Sys2Proof.Machine

/-! ### Completion -/

@[simp] theorem Ctx.retire_pc (c : Ctx) (n : Nat) : (c.retire n).pc = c.pc + BitVec.ofNat 64 (4 * n) := by
  rw [Ctx.retire_only]

@[simp] theorem Ctx.retire_get (c : Ctx) (n : Nat) (r : GReg) : (c.retire n).get r = c.get r := by
  simp [Ctx.retire, Ctx.get]

@[simp] theorem Ctx.retire_bf (c : Ctx) (n : Nat) : (c.retire n).bf = c.bf := by
  rw [Ctx.retire_only]
  rfl

/-- A context waits for nothing once its instruction completes (R9). -/
@[simp] theorem Ctx.retire_wait (c : Ctx) (n : Nat) : (c.retire n).wait = .none :=
  (Ctx.boundary_at { c with pc := c.pc + BitVec.ofNat 64 (4 * n) } _ rfl rfl rfl).2.1

theorem State.me_setCtx_ne (s : State) {t : Nat} (c : Ctx) (other : t ≠ s.cur) : (s.setCtx t c).me = s.me :=
  State.ctx_setCtx_ne s c other.symm

/-! ### The start and the end of a thread (R130, R131, R133) -/

/-- The core that SPAWN names by its number in the island, where it is the own one. -/
theorem State.spawnCore_own (s : State) (own : Nat) : s.spawnCore own false (BitVec.ofNat 2 own).toNat = own := by
  simp only [State.spawnCore, Bool.not_false, if_true, BitVec.toNat_ofNat]
  omega

/-- A context of no group is initialised alone. -/
theorem State.initCtx_of_groupless {s : State} {t : Nat} (groupless : s.groupsOf t = []) (entry arg parent : Word) (pri : BitVec 2)
    (fpctl : BitVec 3) (prv : Bool) :
    s.initCtx t entry arg parent pri fpctl prv = s.setCtx t ((s.ctx t).init t entry arg parent pri fpctl prv) := by
  rw [State.initCtx, State.leaveAll_of_none groupless]

/-- A thread of no group ends: its context is FREE with no pending cause, and no other context changes. -/
theorem State.retireThread_spec {s : State} (groupless : s.groupsOf s.cur = []) : Alone s (s.retireThread s.cur)
    ∧ (s.retireThread s.cur).me.st = .free ∧ (s.retireThread s.cur).me.pend = 0 ∧ (s.retireThread s.cur).me.wait = .none := by
  rw [State.retireThread, State.leaveAll_of_none groupless]
  refine ⟨alone_setMe s _, ?_⟩
  rw [← State.setMe, State.me_setMe]
  exact ⟨rfl, rfl, rfl⟩

/-- A thread starts outside every handler (R131). -/
theorem Ctx.init_it (c : Ctx) (tid : Nat) (entry arg parent : Word) (pri : BitVec 2) (fpctl : BitVec 3) (prv : Bool) :
    (c.init tid entry arg parent pri fpctl prv).it = false := by
  show (statusOf false false false prv).getLsbD 2 = false
  cases prv <;> decide

section

variable {s : State} (d a b : GReg)

/-- SPAWN of the own core starts the lowest free context, which is of no group. -/
theorem execSpawn_of_free {x : Nat} (lowest : (s.freeCtxs (coreOf s.cur)).head? = some x) (groupless : s.groupsOf x = []) :
    execSpawn d a b false (BitVec.ofNat 2 (coreOf s.cur)) s = writeReg d (fun _ => BitVec.ofNat 64 x)
      (s.setCtx x ((s.ctx x).init x (s.me.get a) (s.me.get b) (BitVec.ofNat 64 s.cur) s.me.pri s.me.fpctl s.me.prv)) := by
  obtain ⟨rest, free⟩ := List.head?_eq_some_iff.mp lowest
  simp only [execSpawn, State.spawnCore_own, free, State.initCtx_of_groupless groupless]

theorem execSpawn_of_none_free (taken : s.freeCtxs (coreOf s.cur) = []) :
    execSpawn d a b false (BitVec.ofNat 2 (coreOf s.cur)) s = writeReg d (fun _ => -1) s := by
  simp only [execSpawn, State.spawnCore_own, taken]
  rfl

end

/-! ### Channels (R143 to R147) -/

section

variable (s : State) (core ch : Nat) (l : List (List Word))

@[simp] theorem State.setChan_me : (s.setChan core ch l).me = s.me := rfl
@[simp] theorem State.ctx_setChan (t : Nat) : (s.setChan core ch l).ctx t = s.ctx t := rfl

@[simp] theorem State.chan_setChan_same : (s.setChan core ch l).chan core ch = l := by
  unfold State.chan State.setChan
  rw [State.core_setCore_same]
  cases l <;> simp [Map.getD]

@[simp] theorem State.recvq_setChan : ((s.setChan core ch l).core core).recvq = (s.core core).recvq := by
  simp [State.setChan]

end

section

variable {s : State} {core : Nat}

theorem State.serveRecv_of_no_waiter {ch : Nat} (quiet : (s.core core).recvq.getD ch [] = []) : s.serveRecv core ch = s := by
  simp [State.serveRecv, quiet]

theorem State.serveWaitch_of_no_waiter (quiet : ∀ i, i < 8 → ∀ q, (s.ctx (core * 8 + i)).wait ≠ .waitch q) :
    s.serveWaitch core = s := by
  unfold State.serveWaitch
  refine List.foldlRecOn (List.range 8) _ (motive := fun z => z = s) rfl (fun z same i member => ?_)
  subst same
  dsimp only
  split
  next watches _ => exact absurd watches (quiet i (List.mem_range.mp member) _)
  next => rfl

/-- A message for which no context waits joins the end of its channel (R144). -/
theorem State.place_of_no_waiter {ch : Nat} (m : List Word) (receivers : (s.core core).recvq.getD ch [] = [])
    (watchers : ∀ i, i < 8 → ∀ q, (s.ctx (core * 8 + i)).wait ≠ .waitch q) :
    s.place core ch m = s.setChan core ch (s.chan core ch ++ [m]) := by
  rw [State.place, State.serveWaitch_of_no_waiter (by simpa using watchers), State.serveRecv_of_no_waiter (by simpa using receivers)]

end

/-- The state once message `id` has left the network and the SEND of `src` that waits for it has completed. -/
def State.sendDone (s : State) (id src : Nat) : State :=
  { s.setCtx src ((s.ctx src).retire 1) with msgs := s.msgs.drop id }

theorem State.ctx_sendDone (s : State) (id src t : Nat) :
    (s.sendDone id src).ctx t = (s.setCtx src ((s.ctx src).retire 1)).ctx t := rfl

/-- A context that changes to one outside WAITCH brings no context into WAITCH. -/
theorem State.setCtx_no_watcher {s : State} {t u : Nat} {c : Ctx} (other : ∀ q, c.wait ≠ .waitch q)
    (quiet : ∀ q, (s.ctx t).wait ≠ .waitch q) : ∀ q, ((s.setCtx u c).ctx t).wait ≠ .waitch q := by
  by_cases same : t = u
  · subst same
    rwa [State.ctx_setCtx_same]
  · rwa [State.ctx_setCtx_ne _ _ same]

/-- A message whose channel has room and for which no context waits joins the end of the channel, and its SEND completes (R144). -/
theorem execMessageDelivery_of_room {s : State} {id : Nat} {m : Msg} (sent : s.msgs.find? id = some m)
    (waits : (s.ctx m.src).wait = .send id) (up : s.inReset m.core = false) (room : (s.chan m.core m.ch).length < 4)
    (receivers : (s.core m.core).recvq.getD m.ch [] = [])
    (watchers : ∀ i, i < 8 → ∀ q, (s.ctx (m.core * 8 + i)).wait ≠ .waitch q) :
    execMessageDelivery id s = .next ((s.sendDone id m.src).setChan m.core m.ch (s.chan m.core m.ch ++ [m.words])) := by
  have stillQuiet : ∀ i, i < 8 → ∀ q, ((s.sendDone id m.src).ctx (m.core * 8 + i)).wait ≠ .waitch q := fun i hi => by
    rw [State.ctx_sendDone]
    exact State.setCtx_no_watcher (by simp) (watchers i hi)
  calc execMessageDelivery id s
      = .next (if (s.sendDone id m.src).inReset m.core then s.sendDone id m.src
          else (s.sendDone id m.src).place m.core m.ch m.words) := by
        have sender : State.ctx { s with msgs := s.msgs.drop id } m.src = s.ctx m.src := rfl
        simp only [execMessageDelivery, sent, room, or_true, if_true, sender, waits]
        rfl
    _ = .next ((s.sendDone id m.src).place m.core m.ch m.words) := by
        rw [show (s.sendDone id m.src).inReset m.core = false from up, if_neg Bool.false_ne_true]
    _ = _ := by
        rw [State.place_of_no_waiter (s := s.sendDone id m.src) m.words receivers stillQuiet]
        rfl

/-- The message that SEND gives to the network (R143, R144). -/
def State.sendMsg (s : State) (c r : GReg) (n : BitVec 2) : Msg :=
  { src := s.cur, core := ((s.me.get c).extractLsb' 6 8).toNat, ch := ((s.me.get c).extractLsb' 0 6).toNat,
    words := (List.range (n.toNat + 1)).map (fun i => s.me.get (r + BitVec.ofNat 5 i)) }

/-- The state in which message `m` has just been given to the network and its SEND waits (R144). -/
def State.sending (s : State) (m : Msg) : State :=
  { s.setMe (s.me.waitFor (.send s.nextId) true) with nextId := s.nextId + 1, msgs := s.msgs.put s.nextId m }

theorem State.ctx_sending (s : State) (m : Msg) (t : Nat) :
    (s.sending m).ctx t = (s.setCtx s.cur (s.me.waitFor (.send s.nextId) true)).ctx t := rfl

/-- SEND of a thread that has no message in the network, to a core that does not refuse it. -/
theorem execSend_accepted {s : State} {c r : GReg} {n : BitVec 2} (accepts : s.sendRefused s.cur (s.sendMsg c r n).core = false)
    (empty : s.msgs.all (fun x => x.2.src ≠ s.cur) = true) : execSend c r n s = .next (s.sending (s.sendMsg c r n)) := by
  have first : s.msgs.any (fun x => x.2.src = s.cur) = false := by
    simpa [List.any_eq_false, List.all_eq_true] using empty
  unfold State.sendMsg at accepts
  simp only [execSend, accepts, first, Bool.false_eq_true, if_false]
  rfl

/-- Of registers written one after another, one that no other entry names holds its own value. -/
theorem Ctx.get_foldl_set (reg : Nat → GReg) (v : Nat → Word) {i : Nat} (named : reg i ≠ 0#5) (c : Ctx) (l : List Nat)
    (member : i ∈ l) (once : ∀ j ∈ l, reg j = reg i → j = i) : (l.foldl (fun c j => c.set (reg j) (v j)) c).get (reg i) = v i := by
  induction l using List.reverseRecOn with
  | nil => simp at member
  | append_singleton l k ih =>
    rw [List.foldl_append, List.foldl_cons, List.foldl_nil, Ctx.get_set, regAfter]
    by_cases last : k = i
    · subst last
      simp [named]
    · have other : reg i ≠ reg k := fun e => last (once k (by simp) e.symm)
      have earlier : i ∈ l := by simpa [Ne.symm last] using member
      rw [if_neg (fun h => other h.1), ih earlier (fun j hj => once j (by simp [hj]))]

/-- RECV's registers hold the message's words, and 0 past its end (R145). -/
theorem Ctx.takeMsg_get (c : Ctx) {d : GReg} (m : List Word) {i : Nat} (four : i < 4) (named : d + BitVec.ofNat 5 i ≠ 0#5) :
    (c.takeMsg d m).get (d + BitVec.ofNat 5 i) = m.getD i 0 := by
  refine Ctx.get_foldl_set (fun j => d + BitVec.ofNat 5 j) (fun j => m.getD j 0) named c _ (List.mem_range.mpr four) (fun j hj same => ?_)
  have small := List.mem_range.mp hj
  have offsets := congrArg BitVec.toNat (add_left_cancel same)
  simp only [BitVec.toNat_ofNat] at offsets
  omega

@[simp] theorem Ctx.takeMsg_pc (c : Ctx) (d : GReg) (m : List Word) : (c.takeMsg d m).pc = c.pc := by
  simp [Ctx.takeMsg, List.range_succ]

/-- RECV of a channel that holds a message and has no waiter takes the oldest one at once (R145). -/
theorem execRecv_of_message {s : State} {ch : BitVec 6} {w : List Word} {ws : List (List Word)} (d : GReg)
    (holds : s.chan (coreOf s.cur) ch.toNat = w :: ws) (quiet : (s.core (coreOf s.cur)).recvq.getD ch.toNat [] = []) :
    execRecv d ch s = retireWith 1 (fun c => c.takeMsg d w) (s.setChan (coreOf s.cur) ch.toNat ws) := by
  simp only [execRecv, holds, quiet]

/-! ### Groups (R138 to R141) -/

theorem getLsbD_bitOf (t : Nat) {i : Nat} (lt : i < 32) : (bitOf t).getLsbD i = (i == t % 32) := by
  simp only [bitOf, BitVec.getLsbD_shiftLeft, BitVec.getLsbD_one]
  grind

theorem bitOf_ne_zero (t : Nat) : bitOf t ≠ 0#32 := fun zero => by
  have bit := getLsbD_bitOf t (Nat.mod_lt t (by decide : 0 < 32))
  simp [zero] at bit

@[simp] theorem State.table_setSync (s : State) (isl : Nat) (l : List SyncEntry) :
    State.table { s with sync := s.sync.put isl l } isl = l := by
  simp [State.table]

/-- A group without an entry gets one, in a table that has room, with the thread as its one member (R139). -/
theorem execGjoin_of_new {s : State} {a : GReg} (new : s.findSync (islandOf s.cur) (isGroup (groupOf (s.me.get a))) = none)
    (room : (s.table (islandOf s.cur)).length < 64) : execGjoin a s = retireWith 1 id
      { s with sync := s.sync.put (islandOf s.cur) (s.table (islandOf s.cur) ++ [.group (groupOf (s.me.get a)) (bitOf s.cur) 0]) } := by
  simp only [execGjoin, new, State.newSync, room, if_true]

/-- A thread that leaves group `g` keeps no barrier flag and no release of it (R141). -/
def Ctx.outOf (c : Ctx) (g : Nat) : Ctx :=
  { c with bf := if c.bf.names g then .none else c.bf, rn := if c.rn = some g then none else c.rn }

/-- A group's entry goes once its last member has left (R139). -/
theorem State.leaveGroup_of_last {s : State} {t g : Nat} {p : Place} {arrived : BitVec 32}
    (entry : s.findSync (islandOf t) (isGroup g) = some (p, .group g (bitOf t) arrived)) :
    s.leaveGroup t g = (s.setCtx t ((s.ctx t).outOf g)).dropSync (islandOf t) p := by
  have found : (s.setCtx t ((s.ctx t).outOf g)).findSync (islandOf t) (isGroup g) = some (p, .group g (bitOf t) arrived) := entry
  unfold Ctx.outOf at found
  simp [State.leaveGroup, found, bitOf_ne_zero, State.checkGroup, Ctx.outOf]

/-- The arrival of the last member releases the barrier (R139, R141). -/
theorem State.checkGroup_of_all (s : State) (isl : Nat) (p : Place) (g : Nat) {m : BitVec 32} (members : m ≠ 0) :
    s.checkGroup isl p g m m = (s.putSync isl p (.group g m 0)).releaseAll isl g m := by
  rw [State.checkGroup, if_neg members, if_pos rfl]

theorem filter_getLsbD_bitOf (t : Nat) : (List.range 32).filter (bitOf t).getLsbD = [t % 32] := by
  have number : t % 32 ∈ List.range 32 := List.mem_range.mpr (Nat.mod_lt t (by decide))
  rw [List.filter_congr (fun i hi => getLsbD_bitOf t (List.mem_range.mp hi)), List.filter_beq,
    List.count_eq_one_of_mem List.nodup_range number]
  rfl

/-- Where a thread is the one member of a group, it alone is released (R141). -/
theorem State.releaseAll_bitOf (s : State) (t g : Nat) :
    s.releaseAll (islandOf t) g (bitOf t) = s.setCtx t ((s.ctx t).released g) := by
  have number : islandOf t * 32 + t % 32 = t := Nat.div_add_mod' t 32
  refine (List.foldl_filter (f := fun (z : State) i =>
    z.setCtx (islandOf t * 32 + i) ((z.ctx (islandOf t * 32 + i)).released g))).symm.trans ?_
  rw [filter_getLsbD_bitOf, List.foldl_cons, List.foldl_nil, number]

/-- A member that waits at its barrier completes GBAR at the release (R141). -/
theorem Ctx.released_of_waiting {c : Ctx} {g : Nat} (st : c.st = .waiting) (wait : c.wait = .gbar g) :
    c.released g = { c with bf := .none }.retire 1 := by
  rw [Ctx.released, if_pos ⟨st, wait⟩]

/-- A context that has arrived at the barrier of group `g` and waits there (R141). -/
def Ctx.atBarrier (c : Ctx) (g : Nat) : Ctx := (c.arrive g).waitFor (.gbar g) true

/-- GBAR of a group's one member, whose entry is in the table: the barrier it waits at is released with its arrival (R141). -/
theorem execGbar_of_only {s : State} {a : GReg} {g i : Nat} (named : groupOf (s.me.get a) = g)
    (entry : s.findSync (islandOf s.cur) (isGroup g) = some (.tab i, .group g (bitOf s.cur) 0)) (free : s.me.rn = none)
    (clear : s.me.bf = .none) : execGbar a s = .next (((s.setMe (s.me.atBarrier g)).putSync (islandOf s.cur) (.tab i)
      (.group g (bitOf s.cur) 0)).setMe ({ s.me.atBarrier g with bf := .none }.retire 1)) := by
  have arrived : State.ctx ((s.setMe (s.me.atBarrier g)).putSync (islandOf s.cur) (.tab i) (.group g (bitOf s.cur) 0)) s.cur
      = s.me.atBarrier g := State.me_setMe ..
  have all : execGbar a s = .next ((s.setMe (s.me.atBarrier g)).checkGroup (islandOf s.cur) (.tab i) g (bitOf s.cur) (bitOf s.cur)) := by
    simp [execGbar, named, entry, free, clear, bitOf_ne_zero, Ctx.atBarrier]
  rw [all, State.checkGroup_of_all _ _ _ _ (bitOf_ne_zero _), State.releaseAll_bitOf, arrived, Ctx.released_of_waiting rfl rfl]
  rfl

end Sys2Proof.Machine
end

section
/-! PROOFS. The statements about threads, messages and groups. -/

namespace Sys2Proof

open Sys2Proof.Machine

/-- Settles O23: a started or ended context of no group is the only one that changes besides the current one, and the rest is the
completion of an instruction. -/
theorem threadInstructions : Obligations.ThreadInstructions := by
  intro s d a b p core
  refine ⟨fun x lowest other groupless => ?_, fun taken => ?_, fun idle groupless => ?_, retire_spec 1 s, ?_⟩
  · rw [exec_spawn, execSpawn_of_free d a b lowest groupless]
    generalize started : (s.ctx x).init x (s.me.get a) (s.me.get b) (BitVec.ofNat 64 s.cur) s.me.pri s.me.fpctl s.me.prv = c
    obtain ⟨t, next, ⟨-, others, mem⟩, -, -, pc, regs⟩ := writeReg_spec d (fun _ => BitVec.ofNat 64 x) (s.setCtx x c)
    rw [State.me_setCtx_ne s c other] at pc regs
    have child : t.ctx x = c := by rw [others x other, State.ctx_setCtx_same]
    refine ⟨t, next, ?_, pc, ?_⟩
    · rw [regs, regAfter]
      by_cases zero : d = 0#5 <;> simp [zero]
    · rw [child, ← started]
      exact ⟨rfl, rfl, Ctx.init_get_arg .., Ctx.init_get_parent .., rfl, Ctx.init_prv .., Ctx.init_it .., mem⟩
  · rw [exec_spawn, execSpawn_of_none_free d a b taken]
    exact writeReg_spec d _ s
  · rw [exec_exit, execExit, if_pos idle]
    exact ⟨_, rfl, State.retireThread_spec groupless⟩
  · exact retireWith_spec 1 (fun c => { c with pri := p }) s rfl

/-- Settles O24: SEND leaves its message in the network, a delivery for which nothing waits appends it, and RECV and WAITCH that find a
message complete at once. -/
theorem messages : Obligations.Messages := by
  intro s c r d n ch core chan words
  refine ⟨fun accepts empty => ?_, fun w ws holds quiet _ => ?_, fun ready => ?_⟩
  · have me : (s.sending (s.sendMsg c r n)).me = s.me.waitFor (.send s.nextId) true := State.me_setMe ..
    have waits := congrArg Ctx.wait me
    have sent : (s.sending (s.sendMsg c r n)).msgs.find? s.nextId = some (s.sendMsg c r n) := Map.find?_put_same ..
    refine ⟨_, execSend_accepted accepts empty, waits, fun _ => rfl, sent, fun up room receivers watchers => ?_⟩
    have delivered := execMessageDelivery_of_room sent waits up room receivers
      (fun i hi => by rw [State.ctx_sending]; exact State.setCtx_no_watcher nofun (watchers i hi))
    have done : ((s.sending (s.sendMsg c r n)).sendDone s.nextId s.cur).me = (s.me.waitFor (.send s.nextId) true).retire 1 :=
      (State.me_setMe _ _).trans (congrArg (Ctx.retire · 1) me)
    refine ⟨_, delivered, State.chan_setChan_same .., ?_, ?_, Map.find?_drop_same ..⟩
    · exact (congrArg Ctx.pc done).trans (Ctx.retire_pc ..)
    · exact (congrArg Ctx.wait done).trans (Ctx.retire_wait ..)
  · rw [exec_recv, execRecv_of_message d holds quiet]
    refine ⟨_, rfl, ?_, ?_, fun _ => rfl, fun i four named => ?_⟩
    · exact State.chan_setChan_same ..
    · simp
    · simp [Ctx.takeMsg_get _ _ four named]
  · rw [exec_waitch, execWaitch, if_pos (Or.inr ready)]
    exact writeReg_spec d _ s

/-- Settles O25: a new entry stands at the end of the table, the last member's leaving drops it, and the only member's arrival is every
member's. -/
theorem groups : Obligations.Groups := by
  intro s a isl g
  refine ⟨fun new room => ?_, fun i entry => ⟨?_, fun free clear going runs => ?_⟩⟩
  · rw [exec_gjoin, execGjoin_of_new new room]
    refine ⟨_, rfl, State.table_setSync .., ?_, fun r => ?_, fun _ => rfl⟩ <;> rw [State.me_setMe]
    · exact Ctx.retire_pc ..
    · exact Ctx.retire_get ..
  · rw [exec_gleave, execGleave, show groupOf (s.me.get a) = g from rfl, State.leaveGroup_of_last entry]
    refine ⟨_, rfl, State.table_setSync .., ?_, fun _ => rfl⟩
    have left : State.me ((s.setCtx s.cur ((s.ctx s.cur).outOf g)).dropSync (islandOf s.cur) (.tab i)) = s.me.outOf g := State.me_setMe ..
    rw [State.me_setMe, id, Ctx.retire_pc, left]
    rfl
  · rw [exec_gbar, execGbar_of_only rfl entry free clear]
    refine ⟨_, rfl, ?_, ?_, ?_, fun _ => rfl⟩ <;> rw [State.me_setMe]
    · exact Ctx.retire_pc ..
    · exact Ctx.retire_wait ..
    · exact Ctx.retire_bf ..

end Sys2Proof
end

section
/-! SUPPORT. The master distributor's scope table, and the scope instructions while it answers (R212 to R216, R362). -/

namespace Sys2Proof

/-- The lowest number for which `p` holds (the search of `firstFrom`). -/
theorem firstFrom_eq_some_iff {p : Nat → Bool} {n lo i : Nat} :
    firstFrom p lo n = some i ↔ lo ≤ i ∧ i < lo + n ∧ p i = true ∧ ∀ j, lo ≤ j → j < i → p j = false := by
  induction n generalizing lo with
  | zero => exact ⟨nofun, fun ⟨low, high, _⟩ => absurd low (by omega)⟩
  | succ n ih =>
    unfold firstFrom
    by_cases here : p lo = true
    · rw [if_pos here]
      constructor
      · rintro ⟨⟩
        exact ⟨le_rfl, by omega, here, fun j _ _ => by omega⟩
      · rintro ⟨low, -, -, least⟩
        by_contra other
        have lt : lo < i := lt_of_le_of_ne low (fun e => other (congrArg some e))
        simp [least lo le_rfl lt] at here
    · rw [if_neg here, ih]
      constructor
      · rintro ⟨low, high, holds, least⟩
        refine ⟨by omega, by omega, holds, fun j le lt => ?_⟩
        obtain rfl | above := Nat.eq_or_lt_of_le le
        · simpa using here
        · exact least j above lt
      · rintro ⟨low, high, holds, least⟩
        have above : lo ≠ i := fun e => here (e ▸ holds)
        exact ⟨by omega, by omega, holds, fun j le lt => least j (by omega) lt⟩

theorem firstFrom_eq_none_iff {p : Nat → Bool} {n lo : Nat} :
    firstFrom p lo n = none ↔ ∀ j, lo ≤ j → j < lo + n → p j = false := by
  induction n generalizing lo with
  | zero => exact ⟨fun _ j low high => absurd low (by omega), fun _ => rfl⟩
  | succ n ih =>
    unfold firstFrom
    by_cases here : p lo = true
    · rw [if_pos here]
      exact ⟨nofun, fun no => by simp [no lo le_rfl (by omega)] at here⟩
    · rw [if_neg here, ih]
      constructor
      · intro no j low high
        obtain rfl | above := Nat.eq_or_lt_of_le low
        · simpa using here
        · exact no j above (by omega)
      · exact fun no j low high => no j (by omega) (by omega)

namespace Machine

/-! ### The scope table -/

@[simp] theorem State.scope_setScope_same (s : State) (i : Nat) (x : Scope) : (s.setScope i x).scope i = x :=
  Map.getD_put_same ..

theorem State.scope_setScope_ne (s : State) {i j : Nat} (x : Scope) (other : j ≠ i) : (s.setScope i x).scope j = s.scope j :=
  Map.getD_put_ne _ _ _ other

theorem State.liveScope_eq_some {s : State} {h i : Nat} (live : s.liveScope h = some i) :
    i = h % 256 ∧ (s.scope i).inUse = true := by
  unfold State.liveScope at live
  dsimp only at live
  split at live
  · rename_i found
    cases live
    exact ⟨rfl, found.1⟩
  · cases live

/-! ### Freeing a scope (R214) -/

theorem State.freeScope_of_busy {s : State} {i : Nat} (busy : (s.scope i).count ≠ 0 ∨ (s.scope i).kids ≠ 0) (fuel : Nat) :
    s.freeScope i fuel = s := by
  cases fuel with
  | zero => rfl
  | succ n => exact if_neg (fun ⟨_, _, _, count, kids⟩ => busy.elim (· count) (· kids))

/-- An entry that is not in use stays so, in its generation, while others are freed. -/
theorem State.freeScope_keeps_unused {s : State} {i : Nat} (unused : (s.scope i).inUse = false) (p fuel : Nat) :
    ((s.freeScope p fuel).scope i).inUse = false ∧ ((s.freeScope p fuel).scope i).gen = (s.scope i).gen := by
  induction fuel generalizing s p with
  | zero => exact ⟨unused, rfl⟩
  | succ n ih =>
    unfold State.freeScope
    dsimp only
    split
    · rename_i freed
      have other : i ≠ p := fun e => by simp [← e, unused] at freed
      generalize dropped : s.setScope p _ = u
      have same : u.scope i = s.scope i := by rw [← dropped, State.scope_setScope_ne _ _ other]
      generalize parent : u.setScope ((s.scope p).parent % 256) _ = v
      have kept : (v.scope i).inUse = (s.scope i).inUse ∧ (v.scope i).gen = (s.scope i).gen := by
        rw [← parent]
        by_cases up : i = (s.scope p).parent % 256
        · subst up
          simp [same]
        · simp [State.scope_setScope_ne _ _ up, same]
      rw [← kept.2]
      exact ih (kept.1.trans unused) _
    · exact ⟨unused, rfl⟩

/-- A CLOSED entry that counts nothing is freed, in its next generation (R214). -/
theorem State.freeScope_of_done {s : State} {i : Nat} (below : i ≠ 0) (used : (s.scope i).inUse = true)
    (closed : (s.scope i).closed = true) (count : (s.scope i).count = 0) (kids : (s.scope i).kids = 0) (fuel : Nat) :
    ((s.freeScope i (fuel + 1)).scope i).inUse = false
      ∧ ((s.freeScope i (fuel + 1)).scope i).gen = ((s.scope i).gen + 1) % 2 ^ 24 := by
  unfold State.freeScope
  dsimp only
  rw [if_pos ⟨below, used, closed, count, kids⟩]
  generalize freed : s.setScope i _ = u
  have free : (u.scope i).inUse = false ∧ (u.scope i).gen = ((s.scope i).gen + 1) % 2 ^ 24 := by simp [← freed]
  generalize parent : u.setScope ((s.scope i).parent % 256) _ = v
  have kept : (v.scope i).inUse = (u.scope i).inUse ∧ (v.scope i).gen = (u.scope i).gen := by
    rw [← parent]
    by_cases up : i = (s.scope i).parent % 256
    · rw [← up]
      simp
    · simp [State.scope_setScope_ne _ _ up]
  rw [← free.2, ← kept.2]
  exact State.freeScope_keeps_unused (kept.1.trans free.1) _ _

/-! ### The operations of R212, case by case -/

section

variable {s : State} {h : Nat}

theorem State.openScope_of_dead (dead : s.liveScope h = none) : s.openScope h = (s, -3#64) := by
  rw [State.openScope, dead]
  rfl

theorem State.openScope_of_closed {p : Nat} (live : s.liveScope h = some p) (closed : (s.scope p).closed = true) :
    s.openScope h = (s, -3#64) := by
  rw [State.openScope, live]
  exact if_pos closed

theorem State.openScope_of_full {p : Nat} (live : s.liveScope h = some p) (opened : (s.scope p).closed = false)
    (full : ∀ j, 1 ≤ j → j < 256 → (s.scope j).inUse = true) : s.openScope h = (s, -1#64) := by
  have none_free : firstFrom (fun i => !(s.scope i).inUse) 1 255 = none :=
    firstFrom_eq_none_iff.mpr (fun j low high => by simp [full j low high])
  simp [State.openScope, live, opened, none_free]

/-- The state in which entry `i` is a new scope under `h`, whose entry is `p` (R213). -/
def State.opened (s : State) (h p i : Nat) : State :=
  let t := s.setScope i { Scope.init i with inUse := true, gen := (s.scope i).gen, parent := h }
  t.setScope p { t.scope p with kids := (t.scope p).kids + 1 }

theorem State.openScope_of_free {p i : Nat} (live : s.liveScope h = some p) (opened : (s.scope p).closed = false)
    (least : 1 ≤ i) (most : i < 256) (free : (s.scope i).inUse = false) (first : ∀ j, 1 ≤ j → j < i → (s.scope j).inUse = true) :
    s.openScope h = (s.opened h p i, BitVec.ofNat 64 ((s.scope i).gen * 256 + i)) := by
  have found : firstFrom (fun i => !(s.scope i).inUse) 1 255 = some i :=
    firstFrom_eq_some_iff.mpr ⟨least, most, by simp [free], fun j low lt => by simp [first j low lt]⟩
  simp [State.openScope, live, opened, found, State.opened]

theorem State.scope_opened {p i : Nat} (other : p ≠ i) (j : Nat) : (s.opened h p i).scope j =
    if j = i then { inUse := true, gen := (s.scope i).gen, parent := h, count := 0, kids := 0, closed := false, err := false }
    else if j = p then { s.scope p with kids := (s.scope p).kids + 1 } else s.scope j := by
  unfold State.opened
  dsimp only
  by_cases up : j = p
  · subst up
    simp [other, State.scope_setScope_ne _ _ other]
  · rw [State.scope_setScope_ne _ _ up, if_neg up]
    by_cases new : j = i
    · subst new
      simp [Scope.init]
    · rw [State.scope_setScope_ne _ _ new, if_neg new]

theorem State.closeScope_of_none (no : s.liveScope h = none ∨ s.liveScope h = some 0) : s.closeScope h = s := by
  obtain dead | root := no
  · rw [State.closeScope, dead]
  · rw [State.closeScope, root]
    rfl

theorem State.closeScope_of_live {i : Nat} (live : s.liveScope h = some i) (below : i ≠ 0) :
    s.closeScope h = (s.setScope i { s.scope i with closed := true }).freeScope i 256 := by
  rw [State.closeScope, live]
  exact if_neg below

theorem State.scopeDone_eq_true_iff :
    s.scopeDone h = true ↔ s.liveScope h = none ∨ ∃ i, s.liveScope h = some i ∧ (s.scope i).count = 0 := by
  unfold State.scopeDone
  cases s.liveScope h <;> simp

end

/-! ### The operations change the scope table alone -/

theorem State.freeScope_only (s : State) (i fuel : Nat) : s.freeScope i fuel = { s with scopes := (s.freeScope i fuel).scopes } := by
  induction fuel generalizing s i with
  | zero => rfl
  | succ n ih =>
    unfold State.freeScope
    dsimp only
    split
    · rw [ih]
      rfl
    · rfl

theorem State.closeScope_only (s : State) (h : Nat) : s.closeScope h = { s with scopes := (s.closeScope h).scopes } := by
  unfold State.closeScope
  split
  · split
    · rfl
    · rw [State.freeScope_only]
      rfl
  · rfl

/-! ### While the master distributor answers -/

theorem withMd_of_ready {s : State} (ready : s.mdReady = true) (works : s.failover = false) (intr : Bool) (k : State → Out) :
    withMd intr k s = k s := by
  simp [withMd, ready, works]

end Machine

end Sys2Proof
end

section
/-! PROOFS. The statement about scopes. -/

namespace Sys2Proof

open Sys2Proof.Machine

/-- Settles O33: each instruction is one operation on the scope table, by the cases of its handle; a freed scope stays free while its
parents are freed after it. -/
theorem scopes : Obligations.Scopes := by
  intro s d a h ready works dead
  have md (intr : Bool) (k : State → Out) : withMd intr k s = k s := withMd_of_ready ready works intr k
  have opens {t : State} {v : Word} (op : s.openScope h = (t, v)) : exec (.scopeopen d a) s = writeReg d (fun _ => v) t := by
    rw [exec_scopeopen, execScopeopen, md]
    dsimp only
    rw [show s.openScope (handleIn a s) = (t, v) from op]
  have closes : exec (.scopeclose a) s = retireWith 1 id (s.closeScope h) := by
    rw [exec_scopeclose, execScopeclose, md]
    rfl
  have queries : exec (.scopeqry d a) s = writeReg d (fun _ => s.queryScope h) s := by
    rw [exec_scopeqry, execScopeqry, md]
    rfl
  have waits : exec (.scopewait a) s = if s.scopeDone h then retireWith 1 id s else waitOn (.poll (.scopeDone h)) true s := by
    rw [exec_scopewait, execScopewait, md]
    rfl
  refine ⟨fun p i live opened least most free first => ?_, fun no => ?_, fun p live closed => ?_, fun p live opened full => ?_,
    fun no => ?_, fun i live below busy => ?_, fun i live below count kids => ?_, fun done => ?_, fun i live count => ?_,
    fun no => ?_, fun i live => ?_⟩
  · have other : p ≠ i := fun e => by simp [← e, (State.liveScope_eq_some live).2] at free
    rw [opens (State.openScope_of_free live opened least most free first)]
    obtain ⟨t, next, ⟨only, -, -⟩, -, -, pc, regs⟩ :=
      writeReg_spec d (fun _ => BitVec.ofNat 64 ((s.scope i).gen * 256 + i)) (s.opened h p i)
    have scopes (j : Nat) : t.scope j = (s.opened h p i).scope j := by rw [only]; rfl
    refine ⟨t, next, pc, fun _ => by rw [only]; rfl, regs, ?_, ?_, fun j new up => ?_⟩ <;> rw [scopes, State.scope_opened other]
    · rw [if_pos rfl]
    · rw [if_neg other, if_pos rfl]
    · rw [if_neg new, if_neg up]
  · rw [opens (State.openScope_of_dead no)]
    exact writeReg_spec d _ s
  · rw [opens (State.openScope_of_closed live closed)]
    exact writeReg_spec d _ s
  · rw [opens (State.openScope_of_full live opened full)]
    exact writeReg_spec d _ s
  · rw [closes, State.closeScope_of_none no]
    exact retire_spec 1 s
  · rw [closes, State.closeScope_of_live live below, State.freeScope_of_busy (by simpa using busy)]
    obtain ⟨t, next, ⟨only, -, -⟩, -, -, pc, -⟩ := retire_spec 1 (s.setScope i { s.scope i with closed := true })
    refine ⟨t, next, pc, ?_, fun j other => ?_⟩ <;> rw [only]
    · exact State.scope_setScope_same ..
    · exact State.scope_setScope_ne _ _ other
  · rw [closes]
    obtain ⟨t, next, ⟨only, -, -⟩, -, -, pc, -⟩ := retire_spec 1 (s.closeScope h)
    have scope : t.scope i = (s.closeScope h).scope i := by rw [only]; rfl
    have me : (s.closeScope h).me = s.me := by rw [State.closeScope_only]; rfl
    have freed := State.freeScope_of_done (s := s.setScope i { s.scope i with closed := true }) below
      (by simp [(State.liveScope_eq_some live).2]) (by simp) (by simpa using count) (by simpa using kids) 255
    rw [State.scope_setScope_same] at freed
    refine ⟨t, next, by rw [pc, me], ?_, ?_⟩ <;> rw [scope, State.closeScope_of_live live below]
    · exact freed.1
    · exact freed.2
  · rw [waits, if_pos (State.scopeDone_eq_true_iff.mpr done)]
    exact retire_spec 1 s
  · rw [waits, if_neg (by simp [State.scopeDone, live, count])]
    exact waitOn_spec _ true s
  · rw [queries, State.queryScope, no]
    exact writeReg_spec d _ s
  · rw [queries, State.queryScope, live]
    exact writeReg_spec d _ s

end Sys2Proof
end

section
/-! SUPPORT. A thread's reads of single doublewords through their homes, one after another, and LAUNCH's reads of its record (R53, R206,
R243, R434). -/

namespace Sys2Proof

theorem Map.drop_put {α : Type} (m : Map α) (k : Nat) (v : α) : (m.put k v).drop k = m.drop k := by
  induction m with
  | nil => simp [put, drop]
  | cons p m ih =>
    obtain ⟨j, w⟩ := p
    unfold put
    split
    · simp [drop]
    · split
      · rename_i same
        simp [drop, same]
      · unfold drop at ih ⊢
        rw [List.filter_cons, List.filter_cons, ih]

namespace Machine

/-! ### One doubleword -/

/-- Thread `t` has no request under way. -/
def NoRequest (t : Nat) (s : State) : Prop := ∀ q ∈ s.reqs, q.2.owner ≠ .ctx t

/-- The doubleword at `pa` is memory without error in an ME or in DRAM, which thread `t` may read; no spare copy is made of it. -/
def Readable (t pa : Nat) (s : State) : Prop :=
  s.accepts t pa .read = true ∧ ((∃ m, s.home pa = .me m) ∨ ∃ c h, s.home pa = .dram c h) ∧ s.isBad pa 8 = false
    ∧ s.inCopy pa = false

section

variable {s : State} {t pa : Nat}

theorem State.readAt_of_readable (readable : Readable t pa s) (ea : Nat) :
    s.readAt t pa 8 ea = (s.corrected pa 8, .value (s.readMem pa 8) 0#5) := by
  obtain ⟨accepts, ⟨m, home⟩ | ⟨c, h, home⟩, good, -⟩ := readable <;>
    simp [State.readAt, State.readRefused, State.load, accepts, home, good]

theorem State.clmTurn_of_readable (readable : Readable t pa s) (ea : Nat) :
    s.clmTurn (wordReq t (.read 8) pa ea) = s := by
  unfold State.clmTurn
  obtain ⟨-, ⟨m, home⟩ | ⟨c, h, home⟩, -, -⟩ := readable <;> rw [show (wordReq t (.read 8) pa ea).at' = pa from rfl, home]

theorem State.performAt_of_readable (readable : Readable t pa s) (ea : Nat) :
    s.performAt (wordReq t (.read 8) pa ea) = (s.corrected pa 8, .ans (.value (s.readMem pa 8) 0#5)) := by
  have taken : s.performAt (wordReq t (.read 8) pa ea) = s.performTaken (wordReq t (.read 8) pa ea) := rfl
  have word := State.readAt_of_readable readable ea
  unfold State.performTaken at taken
  rw [taken]
  obtain ⟨-, ⟨m, home⟩ | ⟨c, h, home⟩, -, -⟩ := readable <;>
    rw [show (wordReq t (.read 8) pa ea).at' = pa from rfl, home] <;> dsimp only [wordReq] <;> rw [word]

/-- The state in which the home has read the doubleword of request `id`. -/
def State.readWord (s : State) (id t pa ea : Nat) : State :=
  { s.corrected pa 8 with
    reqs := s.reqs.put id { wordReq t (.read 8) pa ea with st := .answered (.value (s.readMem pa 8) 0#5) } }

/-- The home performs the one request of a thread at once. -/
theorem State.performReq_of_readable {id ea : Nat} (readable : Readable t pa s)
    (found : s.reqs.find? id = some (wordReq t (.read 8) pa ea)) (alone : ∀ q ∈ s.reqs, q.2.owner = .ctx t → q.1 = id) :
    s.performReq id = s.readWord id t pa ea := by
  have first : s.behind id (wordReq t (.read 8) pa ea) = false := by
    unfold State.behind
    rw [List.any_eq_false]
    intro q member holds
    simp only [Bool.and_eq_true, decide_eq_true_eq] at holds
    obtain ⟨⟨low, same⟩, -⟩ := holds
    cases owner : q.2.owner <;> simp [owner, wordReq, Owner.ordered] at same
    exact absurd (alone q member (by rw [owner, same])) (Nat.ne_of_lt low)
  have may : s.mayPerform id (wordReq t (.read 8) pa ea) = true := by
    rw [State.mayPerform, first, show (wordReq t (.read 8) pa ea).at' = pa from rfl, readable.2.2.2]
    rfl
  have fits : s.logFits (s.corrected pa 8) = true := by simp [State.logFits, State.traceCore]
  unfold State.performReq
  rw [found]
  dsimp only
  rw [if_pos may, State.clmTurn_of_readable readable, State.performAt_of_readable readable, fits]
  rfl

/-- The state in which thread `t` has the answer to its read of the doubleword at `pa`, before its instruction goes on. -/
def State.afterWord (s : State) (t pa : Nat) (fin : Finish) (intr : Bool) : State :=
  { (s.corrected pa 8).setCtx t ((s.ctx t).waitFor (.answer s.nextId fin) intr) with
    reqs := s.reqs.drop s.nextId, nextId := s.nextId + 1 }

/-- A doubleword that a thread asks for is read and answered, and its instruction goes on with the value. -/
theorem answered_word (idle : NoRequest t s) (readable : Readable t pa s) (ea : Nat) (fin : Finish) (intr : Bool) :
    let z := s.await t (wordReq t (.read 8) pa ea) fin intr
    ∃ u, exec (.remoteAccessPerform (z.nextId - 1)) z = .next u
      ∧ exec (.accessAnswer (z.nextId - 1)) u
          = .next ((s.afterWord t pa fin intr).finish t ea fin (.value (s.readMem pa 8) 0#5)) := by
  intro z
  have id : z.nextId - 1 = s.nextId := rfl
  have found : z.reqs.find? s.nextId = some (wordReq t (.read 8) pa ea) := Map.find?_put_same ..
  have alone : ∀ q ∈ z.reqs, q.2.owner = .ctx t → q.1 = s.nextId := by
    intro q member mine
    obtain rfl | old := Map.mem_put member
    · rfl
    · exact absurd mine (idle q old)
  have performed := State.performReq_of_readable (s := z) readable found alone
  refine ⟨_, by rw [exec_remoteAccessPerform, execRemoteAccessPerform, id, performed], ?_⟩
  have answer : (z.readWord s.nextId t pa ea).reqs.find? s.nextId
      = some { wordReq t (.read 8) pa ea with st := .answered (.value (s.readMem pa 8) 0#5) } := Map.find?_put_same ..
  have ctx : (z.readWord s.nextId t pa ea).ctx t = (s.ctx t).waitFor (.answer s.nextId fin) intr := State.ctx_setCtx_same ..
  have left : { z.readWord s.nextId t pa ea with reqs := (z.readWord s.nextId t pa ea).reqs.drop s.nextId }
      = s.afterWord t pa fin intr := by
    simp only [z, State.await, State.readWord, State.afterWord, State.setCtx, State.corrected, State.fresh, Map.drop_put]
    rfl
  generalize z.readWord s.nextId t pa ea = u at *
  rw [exec_accessAnswer, execAccessAnswer, State.accessAnswer, id, answer]
  dsimp only [wordReq]
  rw [State.answerCtx, answer]
  dsimp only [wordReq]
  have wait : ((s.afterWord t pa fin intr).ctx t).wait = .answer s.nextId fin := by
    rw [← left]
    exact congrArg Ctx.wait ctx
  rw [left, wait]
  dsimp only
  rw [if_pos rfl]

end

/-! ### What the reads of a thread change -/

/-- `w` is `s` but for what thread `t` waits for and how it executes, the requests, and single-bit errors that reads have corrected. -/
def ReadBy (t : Nat) (s w : State) : Prop :=
  w = { s with ctxs := w.ctxs, reqs := w.reqs, nextId := w.nextId, single := w.single }
    ∧ (∀ u, u ≠ t → w.ctx u = s.ctx u) ∧ w.ctx t = (s.ctx t).runAs (w.ctx t)

section

variable {t : Nat} {s w x : State}

theorem ReadBy.trans (first : ReadBy t s w) (second : ReadBy t w x) : ReadBy t s x := by
  obtain ⟨only, others, mine⟩ := first
  obtain ⟨only', others', mine'⟩ := second
  refine ⟨?_, fun u other => (others' u other).trans (others u other), ?_⟩
  · rw [only', only]
  · rw [mine', mine]
    rfl

theorem ReadBy.readable (reads : ReadBy t s w) {pa : Nat} (readable : Readable t pa s) : Readable t pa w := by
  rw [reads.1]
  exact readable

theorem ReadBy.readMem (reads : ReadBy t s w) (pa n : Nat) : w.readMem pa n = s.readMem pa n := by
  rw [reads.1]
  rfl

theorem State.setCtx_readBy (s : State) (t : Nat) : ReadBy t s (s.setCtx t (s.ctx t)) :=
  ⟨rfl, fun _ other => State.ctx_setCtx_ne s _ other, by rw [State.ctx_setCtx_same]; rfl⟩

theorem State.afterWord_readBy (s : State) (t pa : Nat) (fin : Finish) (intr : Bool) : ReadBy t s (s.afterWord t pa fin intr) := by
  have ctx (u : Nat) : (s.afterWord t pa fin intr).ctx u
      = (s.setCtx t ((s.ctx t).waitFor (.answer s.nextId fin) intr)).ctx u := rfl
  refine ⟨rfl, fun u other => ?_, ?_⟩
  · rw [ctx, State.ctx_setCtx_ne _ _ other]
  · rw [ctx, State.ctx_setCtx_same]
    rfl

theorem State.afterWord_noRequest (idle : NoRequest t s) (pa : Nat) (fin : Finish) (intr : Bool) :
    NoRequest t (s.afterWord t pa fin intr) := fun q member => idle q (List.mem_of_mem_filter member)

end

/-! ### LAUNCH's record -/

/-- LAUNCH with the bytes of its record read: the master distributor performs it in its turn, and its result goes to gd. -/
def State.launched (s : State) (t : Nat) (d : GReg) (bs : List Byte) : State :=
  let r := (s.inTurn 0 t t).launch bs t
  r.1.setCtx t (((r.1.ctx t).set d (BitVec.ofInt 64 r.2)).retire 1)

/-- The doublewords that LAUNCH still reads are read in their order, and it is then performed. -/
theorem launch_reads {t ea : Nat} {d : GReg} (todo : List Nat) : ∀ (s : State) (pa : Nat) (got : List Byte), NoRequest t s →
    (∀ a ∈ pa :: todo, Readable t a s) →
    ∃ w, ReadBy t s w ∧ Answered (todo.length + 1) (s.await t (wordReq t (.read 8) pa ea) (.launch d todo got) false)
      (w.launched t d (got ++ (pa :: todo).flatMap (fun a => bytesOf 8 (s.readMem a 8)))) := by
  induction todo with
  | nil =>
    intro s pa got idle readable
    obtain ⟨u, performed, answered⟩ := answered_word idle (readable pa List.mem_cons_self) ea (.launch d [] got) false
    refine ⟨_, State.afterWord_readBy s t pa (.launch d [] got) false, u, _, performed, answered, ?_⟩
    rw [List.flatMap_singleton]
    rfl
  | cons b todo ih =>
    intro s pa got idle readable
    have read := State.afterWord_readBy s t pa (.launch d (b :: todo) got) false
    obtain ⟨u, performed, answered⟩ := answered_word idle (readable pa List.mem_cons_self) ea (.launch d (b :: todo) got) false
    obtain ⟨w, reads, rest⟩ := ih (s.afterWord t pa (.launch d (b :: todo) got) false) b (got ++ bytesOf 8 (s.readMem pa 8))
      (State.afterWord_noRequest idle _ _ _) (fun a member => read.readable (readable a (List.mem_cons_of_mem _ member)))
    refine ⟨w, read.trans reads, u, _, performed, answered, ?_⟩
    rw [List.flatMap_cons, ← List.append_assoc]
    simp only [read.readMem] at rest
    exact rest

theorem dwordsOf_eight (a : Nat) : dwordsOf a 64 = a :: (List.range 7).map (fun i => a + 8 * (i + 1)) := rfl

theorem Ctx.lookupAll_of_covers {c : Ctx} {e : TlbEntry} {va : Nat} {k : Acc} (tlb : c.tlb = [e]) (outside : inClm va = false)
    (low : va < 2 ^ 52) (covers : e.covers va = true) (right : e.give va k = .pa (e.to va)) :
    c.lookupAll va k = (.pa (e.to va), c) := by
  have found : c.lookup va k = (.pa (e.to va), c) := by
    have same : { c with tlb := [e] } = c := by rw [← tlb]
    unfold Ctx.lookup
    rw [outside, if_neg Bool.false_ne_true, if_neg (Nat.not_le.mpr low)]
    simp [tlb, covers, right, same]
  rw [Ctx.lookupAll, found]

theorem TlbEntry.to_add {e : TlbEntry} {a : Nat} (covers : e.covers a = true) (n : Nat) : e.to (a + n) = e.to a + n := by
  simp only [TlbEntry.covers, Bool.and_eq_true, decide_eq_true_eq] at covers
  unfold TlbEntry.to
  omega

/-- The checks of a record whose page is mapped: LAUNCH asks for its first doubleword. -/
theorem launchAccess_of_mapped {s : State} {d a : GReg} {e : TlbEntry} (aligned : (s.me.get a).toNat % 64 = 0)
    (mapped : Mapped e (dwordsOf (s.me.get a).toNat 64) 8 .read s) : let pa := e.to (s.me.get a).toNat
    launchAccess d a s = .next ((s.setCtx s.cur s.me).await s.cur (wordReq s.cur (.read 8) pa (s.me.get a).toNat)
      (.launch d ((List.range 7).map (fun i => pa + 8 * (i + 1))) []) false) := by
  intro pa
  obtain ⟨tlb, r, -, -, -, words⟩ := mapped
  obtain ⟨outside, low, covers, -, home, -, -⟩ := words (s.me.get a).toNat (dwordsOf_eight _ ▸ List.mem_cons_self)
  have found : s.translateFor s.cur (s.me.get a).toNat .read = (.pa pa, s.setCtx s.cur s.me) := by
    unfold State.translateFor
    rw [show s.ctx s.cur = s.me from rfl, Ctx.lookupAll_of_covers tlb outside low covers (by rw [TlbEntry.give]; exact if_pos r)]
  have memory : State.atRegister (s.setCtx s.cur s.me) pa = false := by
    have same : (s.setCtx s.cur s.me).home pa = s.home pa := rfl
    obtain ⟨m, at'⟩ | ⟨c, h, at'⟩ := home <;> simp [State.atRegister, same, pa, at']
  have located : s.locate s.cur .read State.atRegister [(s.me.get a).toNat] [] = (s.setCtx s.cur s.me, .at' [pa]) := by
    unfold State.locate
    rw [found]
    dsimp only
    rw [memory]
    rfl
  unfold launchAccess
  dsimp only
  rw [if_neg (by simp [aligned]), located]
  rfl

/-- LAUNCH of a mapped record reads its 64 bytes and is then performed. -/
theorem launch_through {s : State} {d a : GReg} {e : TlbEntry} (ready : s.mdReady = true) (works : s.failover = false)
    (aligned : (s.me.get a).toNat % 64 = 0) (mapped : Mapped e (dwordsOf (s.me.get a).toNat 64) 8 .read s) :
    ∃ w, ReadBy s.cur s w ∧ Through 8 (.launch d a) s (w.launched s.cur d
      ((List.range 8).flatMap (fun i => bytesOf 8 (s.readMem (e.to (s.me.get a).toNat + 8 * i) 8)))) := by
  have asks := launchAccess_of_mapped (d := d) aligned mapped
  obtain ⟨-, -, -, -, idle, words⟩ := mapped
  have covers := (words (s.me.get a).toNat (dwordsOf_eight _ ▸ List.mem_cons_self)).2.2.1
  generalize base : e.to (s.me.get a).toNat = pa at asks ⊢
  have moved : ReadBy s.cur s (s.setCtx s.cur s.me) := s.setCtx_readBy s.cur
  have readable : ∀ b ∈ pa :: (List.range 7).map (fun i => pa + 8 * (i + 1)), Readable s.cur b (s.setCtx s.cur s.me) := by
    intro b member
    rw [← dwordsOf_eight] at member
    obtain ⟨i, low, rfl⟩ := List.mem_map.mp member
    have word := words ((s.me.get a).toNat + 8 * i) (List.mem_map.mpr ⟨i, low, rfl⟩)
    rw [TlbEntry.to_add covers, base] at word
    exact moved.readable word.2.2.2
  have free : NoRequest s.cur (s.setCtx s.cur s.me) := fun q member => by simpa using List.all_eq_true.mp idle q member
  obtain ⟨w, reads, answered⟩ :=
    launch_reads (ea := (s.me.get a).toNat) (d := d) ((List.range 7).map (fun i => pa + 8 * (i + 1))) _ pa [] free readable
  rw [← dwordsOf_eight, dwordsOf, List.flatMap_map, List.nil_append] at answered
  simp only [moved.readMem] at answered
  exact ⟨w, moved.trans reads, _, by rw [exec_launch, execLaunch, withMd_of_ready ready works, asks], answered⟩

end Machine

end Sys2Proof
end

section
/-! SUPPORT. The dependence table: new entries, links to them and counts along scopes, and what LAUNCH makes of its record (R206 to R208,
R213, R214). -/

namespace Sys2Proof.Machine

/-! ### Entries -/

/-- `t` is `s` but for the dependence table and the scope table. -/
def TablesOnly (s t : State) : Prop := t = { s with entries := t.entries, scopes := t.scopes }

theorem TablesOnly.refl (s : State) : TablesOnly s s := rfl

theorem TablesOnly.trans {s t u : State} (first : TablesOnly s t) (second : TablesOnly t u) : TablesOnly s u := by
  unfold TablesOnly at *
  rw [second, first]

@[simp] theorem State.entry_setEntry_same (s : State) (i : Nat) (e : Entry) : (s.setEntry i e).entry i = e := Map.getD_put_same ..

theorem State.entry_setEntry_ne (s : State) {i j : Nat} (e : Entry) (other : j ≠ i) : (s.setEntry i e).entry j = s.entry j :=
  Map.getD_put_ne _ _ _ other

theorem State.entry_congr {s t : State} (same : t.entries = s.entries) : t.entry = s.entry := by
  funext i
  rw [State.entry, State.entry, same]

theorem State.scope_congr {s t : State} (same : t.scopes = s.scopes) : t.scope = s.scope := by
  funext i
  rw [State.scope, State.scope, same]

theorem State.liveScope_congr {s t : State} (same : t.scopes = s.scopes) : t.liveScope = s.liveScope := by
  funext h
  unfold State.liveScope
  rw [State.scope_congr same]

theorem State.freeEntry_congr {s t : State} (same : t.entries = s.entries) : t.freeEntry = s.freeEntry := by
  unfold State.freeEntry
  rw [State.entry_congr same]

theorem State.pendingEntry_congr {s t : State} (same : t.entries = s.entries) : t.pendingEntry = s.pendingEntry := by
  funext i
  unfold State.pendingEntry
  rw [State.entry_congr same]

theorem State.st_of_freeEntry {s : State} {j : Nat} (free : s.freeEntry = some j) : (s.entry j).st = .free := by
  obtain ⟨-, -, holds, -⟩ := firstFrom_eq_some_iff.mp free
  exact of_decide_eq_true holds

theorem State.st_of_pendingEntry {s : State} {lid p : Nat} (pending : s.pendingEntry lid = some p) : (s.entry p).st ≠ .free := by
  unfold State.pendingEntry at pending
  dsimp only at pending
  split at pending
  · rename_i holds
    cases pending
    obtain ⟨state, -⟩ := holds
    intro free
    simp [free] at state
  · cases pending

/-! ### Links (R208) -/

/-- Links to entry `j` from every entry of `ps`, where each has room for one in its own links. -/
theorem State.link_all {j : Nat} {ps : List Nat} : ∀ {s : State}, ps.Nodup → (∀ p ∈ ps, (s.entry p).succ.length < 8) →
    ∃ t, ps.foldl (fun (acc : Option State) p => acc.bind (fun t => t.addSuccessor p j 4096)) (some s) = some t
      ∧ t = { s with entries := t.entries }
      ∧ ∀ x, t.entry x = if x ∈ ps then { s.entry x with succ := (s.entry x).succ ++ [j] } else s.entry x := by
  induction ps with
  | nil => exact fun {s} _ _ => ⟨s, rfl, rfl, fun _ => rfl⟩
  | cons p ps ih =>
    intro s distinct room
    obtain ⟨fresh, distinct⟩ := List.nodup_cons.mp distinct
    have linked : s.addSuccessor p j 4096 = some (s.setEntry p { s.entry p with succ := (s.entry p).succ ++ [j] }) :=
      if_pos (room p List.mem_cons_self)
    generalize next : s.setEntry p { s.entry p with succ := (s.entry p).succ ++ [j] } = u at linked
    have others {x : Nat} (other : x ≠ p) : u.entry x = s.entry x := by rw [← next, State.entry_setEntry_ne _ _ other]
    have ne {q : Nat} (member : q ∈ ps) : q ≠ p := fun e => fresh (e ▸ member)
    obtain ⟨t, all, only, entries⟩ := ih (s := u) distinct
      (fun q member => by rw [others (ne member)]; exact room q (List.mem_cons_of_mem _ member))
    refine ⟨t, ?_, ?_, fun x => ?_⟩
    · rw [List.foldl_cons, Option.bind_some, linked, all]
    · rw [only, ← next]
      rfl
    · rw [entries]
      by_cases here : x = p
      · subst here
        simp [fresh, ← next]
      · simp [here, others here]

/-! ### Counts along scopes (R214) -/

theorem State.alongScopes_only (s : State) (i : Nat) (f : Scope → Scope) (fuel : Nat) :
    s.alongScopes i f fuel = { s with scopes := (s.alongScopes i f fuel).scopes } := by
  induction fuel generalizing s i with
  | zero => rfl
  | succ n ih =>
    unfold State.alongScopes
    dsimp only
    split
    · rfl
    · rw [ih]
      rfl

theorem State.alongScopes_congr {s t : State} (same : t.scopes = s.scopes) (i : Nat) (f : Scope → Scope) (fuel : Nat) :
    (t.alongScopes i f fuel).scopes = (s.alongScopes i f fuel).scopes := by
  induction fuel generalizing s t i with
  | zero => exact same
  | succ n ih =>
    have next : (t.setScope i (f (t.scope i))).scopes = (s.setScope i (f (s.scope i))).scopes := by
      simp only [State.setScope, State.scope_congr same, same]
    unfold State.alongScopes
    dsimp only
    split
    · exact next
    · rw [State.scope_congr next, ih next]

/-- Along a path from an entry to the root, each entry whose parent is the next, `f` is made on each entry of the path. -/
theorem State.alongScopes_path {f : Scope → Scope} (keeps : ∀ x, (f x).parent = x.parent) {path : List Nat} :
    ∀ {s : State} {i fuel : Nat}, path.head? = some i → path.getLast? = some 0 → path.Nodup → path.length ≤ fuel →
      (∀ k, k + 1 < path.length → (s.scope (path.getD k 0)).parent % 256 = path.getD (k + 1) 0) →
      ∀ x, (s.alongScopes i f fuel).scope x = if x ∈ path then f (s.scope x) else s.scope x := by
  induction path with
  | nil => exact nofun
  | cons a path ih =>
    rintro s i fuel ⟨⟩ last distinct length parents x
    obtain ⟨fresh, distinct⟩ := List.nodup_cons.mp distinct
    obtain ⟨n, rfl⟩ : ∃ n, fuel = n + 1 := ⟨fuel - 1, by simp at length; omega⟩
    unfold State.alongScopes
    dsimp only
    generalize next : s.setScope a (f (s.scope a)) = u
    have here : u.scope a = f (s.scope a) := by rw [← next, State.scope_setScope_same]
    have others {y : Nat} (other : y ≠ a) : u.scope y = s.scope y := by rw [← next, State.scope_setScope_ne _ _ other]
    cases path with
    | nil =>
      cases last
      rw [if_pos rfl]
      by_cases root : x = 0
      · subst root
        simp [here]
      · simp [root, others root]
    | cons b path =>
      have last : (b :: path).getLast? = some 0 := last
      have below : a ≠ 0 := fun root => fresh (root ▸ List.mem_of_getLast? last)
      have up : (u.scope a).parent % 256 = b := by
        rw [here, keeps]
        exact parents 0 (by simp)
      rw [if_neg below, up, ih rfl last distinct (by simpa using length) ?_ x]
      · by_cases first : x = a
        · subst first
          simp only [fresh, if_false, List.mem_cons_self, if_true]
          exact here
        · rw [others first]
          simp [first]
      · intro k lt
        have member : (b :: path).getD k 0 ∈ b :: path := by
          rw [List.getD_eq_getElem _ _ (by omega)]
          exact List.getElem_mem _
        rw [others (fun e => fresh (e ▸ member))]
        exact parents (k + 1) (by simpa using lt)

/-- A count taken in a scope is taken on every entry of its path to the root. -/
theorem State.countUp_path {s : State} {h : Nat} {path : List Nat} (first : path.head? = some (h % 256))
    (last : path.getLast? = some 0) (distinct : path.Nodup) (length : path.length ≤ 256)
    (parents : ∀ k, k + 1 < path.length → (s.scope (path.getD k 0)).parent % 256 = path.getD (k + 1) 0) (x : Nat) :
    (s.countUp h).scope x = if x ∈ path then { s.scope x with count := (s.scope x).count + 1 } else s.scope x :=
  State.alongScopes_path (f := fun y => { y with count := y.count + 1 }) (fun _ => rfl) first last distinct length parents x

theorem State.entry_countUp (s : State) (h i : Nat) : (s.countUp h).entry i = s.entry i := by
  rw [State.countUp, State.alongScopes_only]
  rfl

/-! ### New entries (R206) -/

theorem State.newEntry_of_full {s : State} (full : s.freeEntry = none) (e : Entry) (preds : List Nat) (extra : Nat) :
    s.newEntry e preds extra = none := by
  rw [State.newEntry, full]

/-- A new entry takes the lowest free one; each pending predecessor that has room gets a link to it, and its scopes count one more. -/
theorem State.newEntry_of_free {s : State} {j : Nat} (free : s.freeEntry = some j) (e : Entry) (preds : List Nat) :
    let need := preds.filterMap s.pendingEntry
    need.Nodup → (∀ p ∈ need, (s.entry p).succ.length < 8) →
    ∃ t, s.newEntry e preds 0 = some (t, (s.entry j).gen * 4096 + j) ∧ TablesOnly s t
      ∧ t.entry j = { e with st := if need = [] then .ready else .waiting, gen := (s.entry j).gen, pcnt := need.length,
                             rtime := if need = [] then s.gcyc else e.rtime }
      ∧ (∀ p ∈ need, t.entry p = { s.entry p with succ := (s.entry p).succ ++ [j] })
      ∧ (∀ x, x ≠ j → x ∉ need → t.entry x = s.entry x) ∧ t.scopes = (s.countUp e.scope).scopes := by
  intro need distinct room
  have ne {p : Nat} (member : p ∈ need) : p ≠ j := by
    obtain ⟨lid, -, pending⟩ := List.mem_filterMap.mp member
    exact fun same => State.st_of_pendingEntry pending (same ▸ State.st_of_freeEntry free)
  generalize made : s.setEntry j { e with st := .waiting, gen := (s.entry j).gen, pcnt := need.length + 0 } = u
  have others {x : Nat} (other : x ≠ j) : u.entry x = s.entry x := by rw [← made, State.entry_setEntry_ne _ _ other]
  obtain ⟨v, linked, only, entries⟩ := State.link_all (s := u) (j := j) distinct
    (fun p member => by rw [others (ne member)]; exact room p member)
  have self : v.entry j = { e with st := .waiting, gen := (s.entry j).gen, pcnt := need.length } := by
    rw [entries, if_neg (fun member => ne member rfl), ← made, State.entry_setEntry_same]
    rfl
  have counted : v.countUp e.scope = { s with entries := v.entries, scopes := (v.countUp e.scope).scopes } := by
    rw [State.countUp, State.alongScopes_only, only, ← made]
    rfl
  have scopes : (v.countUp e.scope).scopes = (s.countUp e.scope).scopes :=
    State.alongScopes_congr (by rw [only, ← made]; rfl) ..
  have run : s.newEntry e preds 0 = some (if need.isEmpty then (v.countUp e.scope).makeReady j else v.countUp e.scope,
      (s.entry j).gen * 4096 + j) := by
    unfold State.newEntry
    rw [free]
    dsimp only
    rw [made, linked, Option.map_some]
    simp [need, State.lidOf, State.entry_countUp, self]
  have kept (x : Nat) : (v.countUp e.scope).entry x = v.entry x := State.entry_countUp ..
  generalize v.countUp e.scope = c at *
  have rest {x : Nat} (other : x ≠ j) : v.entry x
      = if x ∈ need then { s.entry x with succ := (s.entry x).succ ++ [j] } else s.entry x := by rw [entries, others other]
  refine ⟨_, run, ?_⟩
  by_cases done : need = []
  · simp only [done, List.isEmpty_nil, if_true]
    refine ⟨?_, ?_, nofun, fun x other _ => ?_, scopes⟩
    · rw [counted]
      rfl
    · rw [State.makeReady, State.entry_setEntry_same, kept, self, counted, done]
    · rw [State.makeReady, State.entry_setEntry_ne _ _ other, kept, rest other, done]
      rfl
  · rw [if_neg (by simpa using done)]
    refine ⟨?_, ?_, fun p member => ?_, fun x other out => ?_, scopes⟩
    · rw [counted]
      rfl
    all_goals rw [kept]
    · rw [self, if_neg done, if_neg done]
    · rw [rest (ne member), if_pos member]
    · rw [rest other, if_neg out]

/-! ### LAUNCH, by the cases of R206 -/

section

variable {s : State} {bs : List Byte} {owner : Nat}

theorem State.launch_of_broken (broken : launchRecord bs owner = none) : s.launch bs owner = (s, -2) := by
  rw [State.launch, broken]

variable {e : Entry} {preds : List Nat} (record : launchRecord bs owner = some (e, preds))

include record

theorem State.launch_of_dead (dead : s.liveScope e.scope = none) : s.launch bs owner = (s, -3) := by
  rw [State.launch, record]
  dsimp only
  rw [dead]

variable {i : Nat} (live : s.liveScope e.scope = some i)

include live

theorem State.launch_of_closed (closed : (s.scope i).closed = true) : s.launch bs owner = (s, -3) := by
  rw [State.launch, record]
  dsimp only
  rw [live]
  exact if_pos closed

theorem State.launch_of_full (opened : (s.scope i).closed = false) (full : s.freeEntry = none) : s.launch bs owner = (s, -1) := by
  rw [State.launch, record]
  dsimp only
  rw [live]
  dsimp only
  rw [if_neg (by simp [opened]), State.newEntry_of_full full]

theorem State.launch_of_entry (opened : (s.scope i).closed = false) {t : State} {lid : Nat}
    (entry : s.newEntry e preds 0 = some (t, lid)) : s.launch bs owner = (t, (lid : Int)) := by
  rw [State.launch, record]
  dsimp only
  rw [live]
  dsimp only
  rw [if_neg (by simp [opened]), entry]

end

/-! ### Completion of LAUNCH -/

/-- A context that waited executes `retire` after a write of a g register: only its g registers, its PC and how it executes differ. -/
theorem Ctx.set_retire_spec {b c : Ctx} (waited : c = b.runAs c) (d : GReg) (v : Word) : let x := (c.set d v).retire 1
    x.held = none ∧ x.wait = .none ∧ x.pc = b.pc + 4#64 ∧ (∀ r, x.get r = regAfter b d v r)
      ∧ x = { b.runAs x with g := x.g, pc := x.pc, tlb := x.tlb } := by
  intro x
  have pc : c.pc = b.pc := by rw [waited]; rfl
  have get (r : GReg) : c.get r = b.get r := by rw [waited]; rfl
  refine ⟨?_, Ctx.retire_wait .., ?_, fun r => ?_, ?_⟩
  · simp only [x, Ctx.retire, Ctx.boundary]
    cases (c.set d v).st <;> cases (c.set d v).stop <;> rfl
  · rw [Ctx.retire_pc, Ctx.set_pc, pc]
  · rw [Ctx.retire_get, Ctx.get_set, regAfter, regAfter, get]
  · have only : x = { (c.set d v).runAs x with pc := (c.set d v).pc + BitVec.ofNat 64 (4 * 1) } := Ctx.retire_only ..
    rw [only, Ctx.set_regsOnly, waited]
    rfl

/-- Once its record is read, LAUNCH changes the thread, and what the operation of the master distributor changes. -/
theorem State.launched_spec {s w u : State} {bs : List Byte} {n : Int} {d : GReg} (reads : ReadBy s.cur s w)
    (op : (w.inTurn 0 s.cur s.cur).launch bs s.cur = (u, n)) (only : TablesOnly (w.inTurn 0 s.cur s.cur) u) :
    let t := w.launched s.cur d bs
    Done d (BitVec.ofInt 64 n) s t ∧ SameMem s t ∧ t.entries = u.entries ∧ t.scopes = u.scopes ∧ t.gcyc = u.gcyc := by
  intro t
  have result : t = u.setCtx s.cur (((u.ctx s.cur).set d (BitVec.ofInt 64 n)).retire 1) := by
    simp only [t, State.launched, op]
  obtain ⟨same, others, mine⟩ := reads
  have ctx (x : Nat) : u.ctx x = w.ctx x := by
    rw [only, State.inTurn_only]
    rfl
  have fields : t.cur = s.cur ∧ t.cores = s.cores ∧ t.sync = s.sync ∧ t.res = s.res ∧ t.mem = s.mem := by
    rw [result, only, State.inTurn_only, same]
    exact ⟨rfl, rfl, rfl, rfl, rfl⟩
  obtain ⟨cur, cores, sync, res, mem⟩ := fields
  have me : t.me = ((w.ctx s.cur).set d (BitVec.ofInt 64 n)).retire 1 := by
    rw [State.me, cur, result, State.ctx_setCtx_same, ctx]
  obtain ⟨held, wait, pc, regs, rest⟩ := Ctx.set_retire_spec mine d (BitVec.ofInt 64 n)
  refine ⟨⟨cur, fun x other => ?_, cores, sync, res, ?_⟩, fun a => by rw [mem], ?_⟩
  · rw [result, State.ctx_setCtx_ne _ _ other, ctx, others x other]
  · rw [me]
    exact ⟨held, wait, pc, regs, rest⟩
  · rw [result]
    exact ⟨rfl, rfl, rfl⟩

end Sys2Proof.Machine
end

section
/-! PROOFS. The statement about LAUNCH. -/

namespace Sys2Proof

open Sys2Proof.Machine

/-- Settles O34: the record's eight doublewords are read one after another, and the master distributor then performs the launch on the
tables as they stood. -/
theorem launches : Obligations.Launches := by
  intro s d a e ga ready works aligned mapped bs fails
  obtain ⟨w, reads, through⟩ := launch_through (d := d) ready works aligned mapped
  have tables : (w.inTurn 0 s.cur s.cur).entries = s.entries ∧ (w.inTurn 0 s.cur s.cur).scopes = s.scopes := by
    rw [State.inTurn_only, reads.1]
    exact ⟨rfl, rfl⟩
  have completes {u : State} {n : Int} := State.launched_spec (u := u) (bs := bs) (n := n) (d := d) reads
  generalize w.inTurn 0 s.cur s.cur = y at tables completes
  obtain ⟨entries, scopes⟩ := tables
  have refused {n : Int} (op : y.launch bs s.cur = (y, n)) : fails (BitVec.ofInt 64 n) := by
    obtain ⟨done, mem, same, same', -⟩ := completes op (TablesOnly.refl y)
    exact ⟨_, through, done, mem, same.trans entries, same'.trans scopes⟩
  refine ⟨fun broken => refused (State.launch_of_broken broken), fun q ps record => ⟨fun dead => ?_, fun i live => ?_⟩⟩
  · exact refused (State.launch_of_dead record (by rwa [State.liveScope_congr scopes]))
  · have live' : y.liveScope q.scope = some i := by rwa [State.liveScope_congr scopes]
    have scope := State.scope_congr scopes
    refine ⟨fun closed => ?_, fun opened full => ?_, fun j opened free => ?_⟩
    · exact refused (State.launch_of_closed record live' (by rwa [scope]))
    · exact refused (State.launch_of_full record live' (by rwa [scope]) (by rwa [State.freeEntry_congr entries]))
    · intro need distinct room
      have made := State.newEntry_of_free ((State.freeEntry_congr entries).trans free) q ps
      rw [State.pendingEntry_congr entries, State.entry_congr entries] at made
      obtain ⟨u, new, only, entry, links, others, counted⟩ := made distinct room
      have op := State.launch_of_entry record live' (by rwa [scope]) new
      obtain ⟨done, mem, same, same', now⟩ := completes op only
      have gcyc : u.gcyc = y.gcyc := by rw [only]
      have entryOf := State.entry_congr same
      refine ⟨_, through, done, mem, ?_, fun p member => ?_, fun x other out => ?_, fun path first last nodup length parents x => ?_⟩
      · rw [entryOf, entry, now, gcyc]
      · rw [entryOf, links p member]
      · rw [entryOf, others x other out]
      · have root : path.head? = some (q.scope % 256) := by rw [first, (State.liveScope_eq_some live).1]
        rw [State.scope_congr (same'.trans counted), State.countUp_path root last nodup length (by rwa [scope]), scope]

end Sys2Proof
end

section
/-! SUPPORT. What the master distributor's operations on entries, records and MEs leave alone (R178, R211, R219, R257, R343). -/

namespace Sys2Proof.Machine

/-! ### Bytes with their full bits -/

/-- `t` is `s` but for bytes, their marks and full bits, and requests of wait lists that have been served. -/
def FillsOnly (s t : State) : Prop :=
  t = { s with mem := t.mem, bad := t.bad, single := t.single, full := t.full, reqs := t.reqs }

theorem FillsOnly.refl (s : State) : FillsOnly s s := rfl

theorem FillsOnly.trans {s t u : State} (first : FillsOnly s t) (second : FillsOnly t u) : FillsOnly s u := by
  unfold FillsOnly at *
  rw [second, first]

/-- A fold of updates that only fill only fills. -/
theorem foldl_fillsOnly {α : Type} (l : List α) (f : State → α → State) (s : State) (step : ∀ t a, FillsOnly t (f t a)) :
    FillsOnly s (l.foldl f s) :=
  List.foldlRecOn l f (FillsOnly.refl s) (fun t fills a _ => fills.trans (step t a))

theorem State.serveOne_fillsOnly (s : State) (id : Nat) : FillsOnly s (s.serveOne id) := by
  unfold State.serveOne
  dsimp only
  repeat' split
  all_goals rfl

theorem State.setFull_fillsOnly (s : State) (pa n : Nat) : FillsOnly s (s.setFull pa n) := by
  unfold State.setFull
  split
  · refine foldl_fillsOnly _ _ s (fun t w => ?_)
    exact FillsOnly.trans (t := { t with full := insertNat w t.full }) rfl (foldl_fillsOnly _ _ _ State.serveOne_fillsOnly)
  · rfl

theorem State.fillMe_fillsOnly (s : State) (a : Nat) (bs : List Byte) : FillsOnly s (s.fillMe a bs) := by
  unfold State.fillMe
  split
  · exact FillsOnly.trans (t := s.writeBytes a bs) rfl (State.setFull_fillsOnly ..)
  · rfl

theorem State.writeMes_fillsOnly (s : State) (isl ox oy : Nat) (im : Image) : FillsOnly s (s.writeMes isl ox oy im) :=
  foldl_fillsOnly _ _ s (fun _ _ => (State.fillMe_fillsOnly ..).trans (State.fillMe_fillsOnly ..))

theorem State.undoWindow_fillsOnly (s : State) (undo : List Undo) (cut : Nat) : FillsOnly s (s.undoWindow undo cut) := by
  refine foldl_fillsOnly _ _ s (fun t d => ?_)
  dsimp only
  split
  · exact FillsOnly.trans (t := t.writeMem (8 * d.word) 8 d.old) rfl (State.setFull_fillsOnly ..)
  · rfl

/-! ### The release of an entry (R219) -/

theorem foldl_tablesOnly {α : Type} (l : List α) (f : State → α → State) (s : State) (step : ∀ t a, TablesOnly t (f t a)) :
    TablesOnly s (l.foldl f s) :=
  List.foldlRecOn l f (TablesOnly.refl s) (fun t only a _ => only.trans (step t a))

theorem State.alongScopes_tablesOnly (s : State) (i : Nat) (f : Scope → Scope) (fuel : Nat) :
    TablesOnly s (s.alongScopes i f fuel) := by
  rw [State.alongScopes_only]
  rfl

theorem State.countDown_tablesOnly (s : State) (h : Nat) : TablesOnly s (s.countDown h) := by
  refine (s.alongScopes_tablesOnly (h % 256) (fun x => { x with count := x.count - 1 }) 256).trans ?_
  rw [State.countDown, State.freeScope_only]
  rfl

theorem State.predDone_tablesOnly (s : State) (e : Nat) : TablesOnly s (s.predDone e) := by
  unfold State.predDone
  dsimp only
  split <;> rfl

theorem State.releaseEntry_tablesOnly (s : State) (i : Nat) (err : Bool) : TablesOnly s (s.releaseEntry i err) := by
  unfold State.releaseEntry
  dsimp only
  refine TablesOnly.trans ?_ (foldl_tablesOnly _ _ _ (fun _ _ => rfl))
  refine TablesOnly.trans ?_ (State.countDown_tablesOnly ..)
  refine (foldl_tablesOnly (s.chain i 4096).1 _ s State.predDone_tablesOnly).trans ?_
  split
  · exact State.alongScopes_tablesOnly ..
  · rfl

/-- A free entry stays free while others are freed. -/
theorem State.foldl_freeAt_free (l : List Nat) {s : State} {i : Nat} (free : (s.entry i).st = .free) :
    ((l.foldl State.freeAt s).entry i).st = .free := by
  refine List.foldlRecOn (motive := fun t => (t.entry i).st = .free) l State.freeAt free (fun t free j _ => ?_)
  unfold State.freeAt
  by_cases same : i = j
  · subst same
    rw [State.entry_setEntry_same]
    rfl
  · rw [State.entry_setEntry_ne _ _ same]
    exact free

theorem State.releaseEntry_free (s : State) (i : Nat) (err : Bool) : ((s.releaseEntry i err).entry i).st = .free := by
  unfold State.releaseEntry
  dsimp only
  rw [List.foldl_cons]
  refine State.foldl_freeAt_free _ ?_
  rw [State.freeAt, State.entry_setEntry_same]
  rfl

/-! ### A refused image (R211, R343) -/

/-- A record that names no residency changes bytes and what the record's core and owner keep of it. -/
theorem State.postRecord_only {r : PendRec} (unnamed : r.rid = none) (s : State) : s.postRecord r =
    { s with mem := (s.postRecord r).mem, bad := (s.postRecord r).bad, single := (s.postRecord r).single,
             cores := (s.postRecord r).cores, ctxs := (s.postRecord r).ctxs, recq := (s.postRecord r).recq } := by
  unfold State.postRecord
  dsimp only
  split
  · unfold State.writeRecord State.storeRecord
    rw [unnamed]
    dsimp only
    split <;> rfl
  · rfl

/-- A refusal touches no residency, and neither columns nor their repair. -/
theorem State.refuseEntry_spec (s : State) (i isl cfg : Nat) (r : Refuse) : let t := s.refuseEntry i isl cfg r
    (t.entry i).st = .free ∧ t.res = s.res ∧ t.columns = s.columns ∧ t.repair = s.repair := by
  intro t
  refine ⟨State.releaseEntry_free .., ?_⟩
  simp only [t, State.refuseEntry]
  rw [State.releaseEntry_tablesOnly]
  simp only [State.panResEnd, State.endCmds]
  rw [State.postRecord_only rfl]
  exact ⟨rfl, rfl, rfl⟩

end Sys2Proof.Machine
end

section
/-! SUPPORT. Reservation, placement and column repair (R204, R217, R218, R361, R369 to R374, R435). -/

namespace Sys2Proof

theorem Map.find?_of_mem {α : Type} {m : Map α} {k : Nat} {v : α} (member : (k, v) ∈ m) : ∃ w, m.find? k = some w := by
  induction m with
  | nil => cases member
  | cons p m ih =>
    obtain ⟨j, w⟩ := p
    rw [Map.find?_cons]
    by_cases here : k = j
    · exact ⟨w, if_pos here⟩
    · rw [if_neg here]
      obtain same | rest := List.mem_cons.mp member
      · exact absurd (congrArg Prod.fst same) here
      · exact ih rest

/-- A fold that keeps the first best of the numbers that qualify finds the best of them. -/
theorem foldl_best {f : Option Nat → Nat → Option Nat} {ok : Nat → Bool} {v : Nat → Nat}
    (skip : ∀ acc x, ok x = false → f acc x = acc) (first : ∀ x, ok x = true → f none x = some x)
    (next : ∀ b x, ok x = true → f (some b) x = if v b < v x then some x else some b) (l : List Nat) :
    ((∀ x ∈ l, ok x = false) ∧ l.foldl f none = none)
      ∨ ∃ b ∈ l, l.foldl f none = some b ∧ ok b = true ∧ ∀ x ∈ l, ok x = true → v x ≤ v b := by
  induction l using List.reverseRecOn with
  | nil => exact .inl ⟨nofun, rfl⟩
  | append_singleton l y ih =>
    simp only [List.foldl_append, List.foldl_cons, List.foldl_nil, List.mem_append, List.mem_singleton]
    cases good : ok y with
    | false =>
      rw [skip _ _ good]
      obtain ⟨no, found⟩ | ⟨b, member, found, holds, best⟩ := ih
      · refine .inl ⟨?_, found⟩
        rintro x (old | rfl)
        · exact no x old
        · exact good
      · refine .inr ⟨b, .inl member, found, holds, ?_⟩
        rintro x (old | rfl) qualifies
        · exact best x old qualifies
        · simp [good] at qualifies
    | true =>
      obtain ⟨no, found⟩ | ⟨b, member, found, holds, best⟩ := ih
      · rw [found, first y good]
        refine .inr ⟨y, .inr rfl, rfl, good, ?_⟩
        rintro x (old | rfl) qualifies
        · simp [no x old] at qualifies
        · exact le_rfl
      · rw [found, next b y good]
        by_cases better : v b < v y
        · rw [if_pos better]
          refine .inr ⟨y, .inr rfl, rfl, good, ?_⟩
          rintro x (old | rfl) qualifies
          · exact (best x old qualifies).trans better.le
          · exact le_rfl
        · rw [if_neg better]
          refine .inr ⟨b, .inl member, rfl, holds, ?_⟩
          rintro x (old | rfl) qualifies
          · exact best x old qualifies
          · exact Nat.le_of_not_lt better

namespace Machine

/-! ### Reservation (R217 step 3) -/

theorem State.reserve_only (s : State) : s.reserve = { s with reserved := s.reserve.reserved } := by
  unfold State.reserve
  split
  · rfl
  · split
    · rfl
    · dsimp only
      split <;> rfl

theorem State.reserve_keeps (s : State) : s.reserve.entries = s.entries ∧ s.reserve.ctxs = s.ctxs ∧ s.reserve.nextId = s.nextId
    ∧ s.reserve.res = s.res := by
  rw [State.reserve_only]
  exact ⟨rfl, rfl, rfl, rfl⟩

theorem State.exists_granted {s : State} (grants : s.grant ≠ 0#64) : ∃ j < 64, s.granted j = true := by
  by_contra all_off
  refine grants (BitVec.eq_of_getLsbD_eq (fun j lt => ?_))
  rw [BitVec.getLsbD_zero]
  exact Bool.eq_false_iff.mpr (fun holds => all_off ⟨j, lt, holds⟩)

/-- A head that has waited long enough reserves the granted island with the most free sites, where none is reserved yet. -/
theorem State.reserve_of_due {s : State} {h : Nat} {hs : List Nat} (order : s.readyOrder = h :: hs)
    (due : 65536 ≤ s.since (s.entry h).rtime) (unreserved : s.reserved = []) (grants : s.grant ≠ 0#64) :
    ∃ isl, s.reserve = { s with reserved := [(isl, h)] } ∧ isl < 64 ∧ s.granted isl = true
      ∧ ∀ j, j < 64 → s.granted j = true → s.freeSites j ≤ s.freeSites isl := by
  have waits : ¬(s.since (s.entry h).rtime < 65536 ∨ s.reserved.any (fun x => x.2 = h) = true) := by
    rw [unreserved]
    simpa using due
  have free (isl : Nat) : s.reserved.find? isl = none := by rw [unreserved, Map.find?_nil]
  unfold State.reserve
  rw [order]
  dsimp only
  rw [if_neg waits]
  generalize step : (fun (acc : Option Nat) isl => _) = f
  have skip : ∀ acc x, s.granted x = false → f acc x = acc := fun acc x no => by rw [← step]; simp [no]
  have first : ∀ x, s.granted x = true → f none x = some x := fun x yes => by rw [← step]; simp [yes, free]
  have next : ∀ b x, s.granted x = true → f (some b) x = if s.freeSites b < s.freeSites x then some x else some b :=
    fun b x yes => by rw [← step]; simp [yes, free]
  obtain ⟨no, -⟩ | ⟨b, member, found, granted, best⟩ := foldl_best skip first next (List.range 64)
  · obtain ⟨j, lt, yes⟩ := State.exists_granted grants
    simp [no j (List.mem_range.mpr lt)] at yes
  · rw [found]
    refine ⟨b, ?_, List.mem_range.mp member, granted, fun j lt yes => best j (List.mem_range.mpr lt) yes⟩
    rw [unreserved]
    rfl

/-! ### Placement (R204, R435) -/

theorem State.mendImage_mended (s : State) (va : Nat) : Mended s (s.mendImage va) := by
  unfold State.mendImage
  split
  · exact State.mend_mended ..
  · exact mended_refl s

/-- In `t` residency `rid` is `r` but for its streams; contexts and entries are those of `s`. -/
def Binds (rid : Nat) (r : Residency) (s t : State) : Prop :=
  t.ctxs = s.ctxs ∧ t.entries = s.entries ∧ ∃ x, t.res.find? rid = some { r with streams := x }

section

variable {rid : Nat} {r : Residency} {s t : State}

theorem Binds.mended {u : State} (binds : Binds rid r s t) (mends : Mended t u) : Binds rid r s u := by
  rw [mends]
  exact binds

theorem Binds.bindPlaced (binds : Binds rid r s t) (x : Nat × Nat × AgView × Binding) : Binds rid r s (t.bindPlaced rid x) := by
  unfold State.bindPlaced
  dsimp only
  split
  · exact binds
  · obtain ⟨ctxs, entries, y, found⟩ := binds
    refine ⟨ctxs, entries, y.adjust x.2.1 (fun st => st.bindTo x.2.2.2 none), (Map.find?_adjust_same ..).trans ?_⟩
    rw [found]
    rfl

theorem Binds.passCmds (binds : Binds rid r s t) : Binds rid r s (t.passCmds rid) := binds

/-- The root has its go exactly where no first binding of a port is still due (R435). -/
theorem State.rootGo_spec (found : t.res.find? rid = some r) (waits : r.gone = false) :
    ∃ q, (t.rootGo rid).res.find? rid = some q ∧ q = { r with gone := q.gone } ∧ q.gone = !(t.rootGo rid).bindsDue rid q
      ∧ (t.rootGo rid).ctxs = t.ctxs ∧ (t.rootGo rid).entries = t.entries := by
  unfold State.rootGo
  rw [found]
  dsimp only
  cases due : t.bindsDue rid r with
  | true =>
    rw [if_pos (.inr rfl)]
    exact ⟨r, found, rfl, by rw [waits, due]; rfl, rfl, rfl⟩
  | false =>
    rw [if_neg (by simp [waits])]
    have fills := t.writeMes_fillsOnly r.island r.ox r.oy r.plan.img
    generalize t.writeMes r.island r.ox r.oy r.plan.img = u at fills
    refine ⟨{ r with gone := true }, ?_, rfl, ?_, ?_, ?_⟩
    · refine (Map.find?_adjust_same ..).trans ?_
      rw [fills]
      exact congrArg (Option.map _) found
    · have same : (u.onRes rid (fun r => { r with gone := true })).bindsDue rid { r with gone := true } = t.bindsDue rid r := by
        rw [fills]
        rfl
      rw [same, due]
      rfl
    · rw [State.onRes_ctxs, fills]
    · rw [State.onRes_entries, fills]

end

/-- Entry `i` is placed as `r`, which has no binding yet, and its records have been read. -/
def State.placing (s : State) (i : Nat) (l : List Nat) (r : Residency) : State :=
  let e := s.entry i
  let s := l.foldl (fun (s : State) va => s.mendImage va) ((s.fresh.markPlaced i).putRes (s.lidOf i) { r with gone := false })
  let s := if e.nimg = 1 then s else s.mend e.img (8 * e.nimg)
  if e.nbind = 0 then s else s.mend e.bind (16 * e.nbind)

theorem State.placing_binds (s : State) (i : Nat) (l : List Nat) (r : Residency) :
    Binds (s.lidOf i) { r with gone := false } (s.fresh.markPlaced i) (s.placing i l r) := by
  have start : Binds (s.lidOf i) { r with gone := false } (s.fresh.markPlaced i)
      ((s.fresh.markPlaced i).putRes (s.lidOf i) { r with gone := false }) := ⟨rfl, rfl, r.streams, State.putRes_find ..⟩
  have images := List.foldlRecOn l (fun (s : State) va => s.mendImage va) start
    (fun u binds va _ => binds.mended (u.mendImage_mended va))
  unfold State.placing
  dsimp only
  split <;> split
  · exact images
  · exact images.mended (State.mend_mended ..)
  · exact images.mended (State.mend_mended ..)
  · exact (images.mended (State.mend_mended ..)).mended (State.mend_mended ..)

section

variable {s : State} {i isl : Nat} {o : Nat × Nat} {l : List Nat} {im : Image} {p : Plan} {w : List (Nat × Bool × Nat × Nat)}
  {bs : List (Nat × Nat × AgView × Binding)} {r : Residency} (plan : planOn im o.1 o.2 = .ok p)
  (config : (Residency.blank (s.lidOf i) (s.entry i).owner isl o.1 o.2 s.nextId l p).configure p 0 = r)
  (wanted : s.wanted (s.lidOf i) (s.entry i) = .ok w) (bound : s.bindAll r 0 w = .ok bs)

include plan config wanted bound

theorem State.placeNew_of_ok : s.placeNew i isl o l im
    = ((bs.foldl (fun (s' : State) b => (s'.mend b.1 64).bindPlaced (s.lidOf i) b) (s.placing i l r)).passCmds (s.lidOf i)).rootGo
        (s.lidOf i) := by
  unfold State.placeNew
  dsimp only
  rw [plan]
  dsimp only
  rw [config, wanted, Except.bind, bound]
  rfl

/-- An entry whose image and bindings are good is placed with its first image. -/
theorem State.placeNew_spec : let t := s.placeNew i isl o l im
    ∃ q, (t.entry i).st = .placed ∧ t.res.find? (s.lidOf i) = some q ∧ q.island = isl ∧ (q.ox, q.oy) = o ∧ q.plan = p ∧ q.cfg = 0
      ∧ q.images = l ∧ q.owner = (s.entry i).owner ∧ t.ctxs = s.ctxs ∧ q.gone = !t.bindsDue (s.lidOf i) q := by
  intro t
  have placed : t = _ := State.placeNew_of_ok plan config wanted bound
  have binds := List.foldlRecOn bs (fun (s' : State) b => (s'.mend b.1 64).bindPlaced (s.lidOf i) b) (s.placing_binds i l r)
    (fun u binds b _ => (binds.mended (u.mend_mended b.1 64)).bindPlaced b)
  obtain ⟨ctxs, entries, x, found⟩ := binds.passCmds
  obtain ⟨q, res, only, gone, ctxs', entries'⟩ := State.rootGo_spec found rfl
  rw [← placed] at res gone ctxs' entries'
  have entry : t.entry i = _ := congrFun (State.entry_congr (entries'.trans entries)) i
  have state : (t.entry i).st = .placed := by
    rw [entry]
    exact congrArg Entry.st (Map.getD_put_same ..)
  have same : q.island = r.island ∧ (q.ox, q.oy) = (r.ox, r.oy) ∧ q.plan = r.plan ∧ q.cfg = r.cfg ∧ q.images = r.images
      ∧ q.owner = r.owner := by
    rw [only]
    exact ⟨rfl, rfl, rfl, rfl, rfl, rfl⟩
  rw [← config] at same
  obtain ⟨island, origin, plan, cfg, images, owner⟩ := same
  exact ⟨q, state, res, island, origin, plan, cfg, images, owner, ctxs'.trans ctxs, gone⟩

end

/-! ### Passes -/

section

variable {s : State} (works : s.mdWorks = true) {c : Choice} (chosen : s.reserve.choice s.reserve.readyOrder = some c)

include works chosen

theorem State.placementPass_of_choice : s.placementPass = s.reserve.doChoice c := by
  unfold State.placementPass
  rw [if_neg (by simp [works])]
  dsimp only
  rw [chosen]

theorem execResidencyPlace_of_choice {i isl n : Nat} {o : Nat × Nat} {l : List Nat} {im : Image} (place : c = .place i isl o l im)
    (region : (origins im.shape)[n]? = some o) : execResidencyPlace i isl n s = .next (s.reserve.doChoice c) := by
  subst place
  unfold execResidencyPlace
  rw [if_neg (by simp [works])]
  dsimp only
  rw [chosen]
  dsimp only
  rw [if_pos ⟨rfl, rfl, region⟩]

end

/-! ### A repair begins (R361) -/

/-- Each residency of `l` is asked to be saved for a repair. -/
def State.askRepair (s : State) (l : List Nat) : State :=
  l.foldl (fun (s : State) rid => s.onRes rid (fun r => { r with repairReq := true })) s

theorem State.askRepair_only (s : State) (l : List Nat) : s.askRepair l = { s with res := (s.askRepair l).res } := by
  refine List.foldlRecOn (motive := fun (t : State) => t = { s with res := t.res }) l _ rfl (fun t only rid _ => ?_)
  rw [only]
  rfl

/-- A residency that is listed, or has been asked, has been asked after it. -/
theorem State.askRepair_asks (l : List Nat) : ∀ {s : State} {rid : Nat} {r : Residency}, s.res.find? rid = some r →
    rid ∈ l ∨ r.repairReq = true → ∃ q, (s.askRepair l).res.find? rid = some q ∧ q.repairReq = true := by
  induction l with
  | nil => exact fun found asked => ⟨_, found, asked.resolve_left nofun⟩
  | cons a l ih =>
    intro s rid r found asked
    by_cases here : rid = a
    · subst here
      exact ih (r := { r with repairReq := true }) ((Map.find?_adjust_same ..).trans (congrArg (Option.map _) found)) (.inr rfl)
    · refine ih (r := r) ((Map.find?_adjust_ne _ _ here).trans found) (asked.imp_left (fun member => ?_))
      exact (List.mem_cons.mp member).resolve_left here

theorem State.startRepair_of_spare {s : State} {isl x : Nat} (spare : (s.columns.getD isl []).length < 2) :
    s.startRepair isl x = State.askRepair { s.clearReports isl x with
      repair := some { island := isl, column := x, lids := s.onColumn isl x } } (s.onColumn isl x) := by
  unfold State.startRepair
  dsimp only
  rw [if_pos spare]
  rfl

theorem State.find?_of_onColumn {s : State} {isl x rid : Nat} (member : rid ∈ s.onColumn isl x) : ∃ r, s.res.find? rid = some r := by
  obtain ⟨⟨k, r⟩, held, rfl⟩ := List.mem_map.mp member
  exact Map.find?_of_mem (List.mem_of_mem_filter held)

/-! ### A repair ends (R361, R370, R374) -/

/-- The columns mapped to spare ones and the repair under way are as in `s`. -/
def ColumnsKept (s t : State) : Prop := t.columns = s.columns ∧ t.repair = s.repair

theorem ColumnsKept.trans {s t u : State} (first : ColumnsKept s t) (second : ColumnsKept t u) : ColumnsKept s u :=
  ⟨second.1.trans first.1, second.2.trans first.2⟩

theorem FillsOnly.columnsKept {s t : State} (fills : FillsOnly s t) : ColumnsKept s t := by
  rw [fills]
  exact ⟨rfl, rfl⟩

theorem foldl_columnsKept {α : Type} (l : List α) (f : State → α → State) (s : State) (step : ∀ t a, ColumnsKept t (f t a)) :
    ColumnsKept s (l.foldl f s) :=
  List.foldlRecOn (motive := ColumnsKept s) l f ⟨rfl, rfl⟩ (fun t kept a _ => kept.trans (step t a))

theorem State.rollBack_columnsKept (s : State) (rid : Nat) : ColumnsKept s (s.rollBack rid) := by
  unfold State.rollBack
  split
  · exact ⟨rfl, rfl⟩
  · rename_i r _
    have undone := foldl_fillsOnly r.units (fun (s : State) x => s.undoWindow x.undo r.cut) s (fun t x => t.undoWindow_fillsOnly ..)
    exact undone.columnsKept

/-- The bytes of a save area and the tables that name it touch no column. -/
theorem ColumnsKept.stored {s u : State} (kept : ColumnsKept s u) (area : Nat) (bytes : List Byte) (res : Map Residency)
    (saved : Map Saved) (entries : Map Entry) (preempt : Map Nat) : ColumnsKept s
      { u.writeBytes area bytes with res := res, saved := saved, entries := entries, preempt := preempt } := kept

theorem State.saveTo_columnsKept (s : State) (rid area : Nat) : ColumnsKept s (s.saveTo rid area) := by
  refine (s.rollBack_columnsKept rid).trans ?_
  unfold State.saveTo
  dsimp only
  split
  · exact ⟨rfl, rfl⟩
  · rename_i r _
    exact ColumnsKept.stored (foldl_columnsKept r.plan.img.savedMes (fun (t : State) m =>
      t.corrected (meBase (r.island * 384 + meIndex (r.ox + m.1) (r.oy + m.2))) 131072) _ (fun _ _ => ⟨rfl, rfl⟩)) ..

theorem State.saveForRepair_columnsKept (s : State) (rid : Nat) : ColumnsKept s (s.saveForRepair rid) := by
  -- Wherever the area would lie: `place` stands for the search of the pool, which is not to be evaluated.
  obtain ⟨place, search⟩ : ∃ place, place = s.saveArea := ⟨_, rfl⟩
  unfold State.saveForRepair
  rw [← search]
  split
  · exact ⟨rfl, rfl⟩
  · split
    · exact State.saveTo_columnsKept ..
    · obtain ⟨columns, repair⟩ := s.rollBack_columnsKept rid
      exact ⟨by rw [State.onRes_columns, columns], by rw [State.onRes_repair, repair]⟩

theorem State.loadMe_columnsKept (s : State) (isl ox oy : Nat) (m : SavedMe) : ColumnsKept s (s.loadMe isl ox oy m) := by
  unfold State.loadMe
  dsimp only
  refine ColumnsKept.trans ?_ (foldl_columnsKept _ _ _ (fun _ _ => ⟨rfl, rfl⟩))
  refine ColumnsKept.trans ?_ (foldl_fillsOnly _ _ _ (fun t _ => t.setFull_fillsOnly ..)).columnsKept
  exact ⟨rfl, rfl⟩

theorem State.placeSaved_columnsKept (s : State) (i isl : Nat) (o : Nat × Nat) (v : Saved) :
    ColumnsKept s (s.placeSaved i isl o v) := by
  unfold State.placeSaved
  split
  · exact (State.refuseEntry_spec { s with saved := s.saved.drop i } ..).2.2
  · exact foldl_columnsKept _ (fun (t : State) m => t.loadMe isl o.1 o.2 m) _ (fun t _ => t.loadMe_columnsKept ..)

theorem State.restoreInPlace_columnsKept (s : State) (rid : Nat) : ColumnsKept s (s.restoreInPlace rid) := by
  unfold State.restoreInPlace
  split
  · split
    · exact State.placeSaved_columnsKept ..
    · exact ⟨rfl, rfl⟩
  · exact ⟨rfl, rfl⟩

/-- A repair that ends maps its column to a spare one (R361). -/
theorem State.endRepair_spec (s : State) (p : Repair) : (s.endRepair p).repair = none
    ∧ (s.endRepair p).columns.getD p.island [] = s.columns.getD p.island [] ++ [p.column] := by
  obtain ⟨saved, -⟩ := foldl_columnsKept p.lids State.saveForRepair s State.saveForRepair_columnsKept
  obtain ⟨columns, repair⟩ := foldl_columnsKept p.lids State.restoreInPlace _ State.restoreInPlace_columnsKept
  refine ⟨repair, ?_⟩
  rw [State.endRepair, columns, ← saved]
  exact Map.getD_put_same ..

theorem execColumnRepair_of_savable {s : State} {p : Repair} (under : s.repair = some p)
    (savable : ∀ rid ∈ p.lids, ∀ r, s.res.find? rid = some r → s.savable rid r = true) :
    execColumnRepair p.island p.column s = .next (s.endRepair p) := by
  unfold execColumnRepair
  rw [under]
  dsimp only
  refine if_pos ⟨rfl, rfl, List.all_eq_true.mpr (fun rid member => ?_)⟩
  split
  · exact savable rid member _ ‹_›
  · rfl

end Machine

end Sys2Proof
end

section
/-! PROOFS. The statement about placement and column repair. -/

namespace Sys2Proof

open Sys2Proof.Machine

/-- Settles O45: the two placing events make the one choice of a pass, a reservation is the best of the granted islands, and a repair
goes through its operations, none of which touches the mapped columns. That a repair also ends where the pool has no room for a save
area, and how MD_FAILOVER acts, are the model's choices (logs 64 and 61). -/
theorem placement : Obligations.Placement := by
  intro s works s'
  have failover : s.failover = false := by simpa using (Bool.and_eq_true_iff.mp works).2
  obtain ⟨entries, ctxs, nextId, res⟩ := s.reserve_keeps
  have entry : s'.entry = s.entry := State.entry_congr entries
  have lid (i : Nat) : s'.lidOf i = s.lidOf i := by rw [State.lidOf, State.lidOf, entry]
  refine ⟨fun i isl o l im n chosen unsaved region ev events p w bs plan wanted bound => ?_, fun i cfg r chosen => ?_,
    fun h hs order due unreserved grants => ?_, fun isl x idle fails spare => ?_, fun p under savable => ?_, ?_, ?_⟩
  · have placed : s'.doChoice (.place i isl o l im) = s'.placeNew i isl o l im := by
      rw [State.doChoice, entry, unsaved]
    have run : exec ev s = .next (s'.placeNew i isl o l im) := by
      rw [← placed]
      obtain rfl | rfl : ev = .mdPlacementPass ∨ ev = .residencyPlace i isl n := by simpa using events
      · rw [exec_mdPlacementPass, execMdPlacementPass, State.placementPass_of_choice works chosen]
      · rw [exec_residencyPlace, execResidencyPlace_of_choice works chosen rfl region]
    rw [← lid, ← entry] at wanted
    rw [← lid, ← entry, ← nextId] at bound
    obtain ⟨q, spec⟩ := State.placeNew_spec plan rfl wanted bound
    rw [lid, entry, ctxs] at spec
    exact ⟨_, q, run, spec⟩
  · obtain ⟨free, same, -⟩ := s'.refuseEntry_spec i 0 cfg r
    refine ⟨_, ?_, free, same.trans res⟩
    rw [exec_mdPlacementPass, execMdPlacementPass, State.placementPass_of_choice works chosen]
    rfl
  · obtain ⟨isl, reserves, best⟩ := State.reserve_of_due order due unreserved grants
    refine ⟨_, isl, ?_, reserves, best⟩
    rw [exec_reservationTimeout, execReservationTimeout, if_pos works]
  · have run : exec (.columnRepair isl x) s = .next (s.startRepair isl x) := by
      rw [exec_columnRepair, execColumnRepair, idle]
      exact congrArg _ (if_pos fails)
    rw [State.startRepair_of_spare spare] at run
    refine ⟨_, run, ?_, ?_, ?_, fun rid member => ?_⟩
    · rw [State.askRepair_only]
      exact fun _ => rfl
    · rw [State.askRepair_only]
      rfl
    · rw [State.askRepair_only]
    · obtain ⟨r, found⟩ := State.find?_of_onColumn member
      exact State.askRepair_asks _ found (.inl member)
  · rw [exec_columnRepair, execColumnRepair_of_savable under savable]
    exact ⟨_, rfl, s.endRepair_spec p⟩
  · rw [exec_mdFailover, execMdFailover, failover]
    rfl
  · rw [exec_mdFailover]
    rfl

end Sys2Proof
end
